-- ==== Sys2Proof/Word.lean ====
section
/-! DEFINITION. The word types of the PH-384: what the spec adds, shifts or masks is a bit vector. -/

namespace Sys2Proof

/-- A byte of memory (R324: words are stored little-endian). -/
abbrev Byte := BitVec 8

/-- A scalar or vector register (R212). -/
abbrev W32 := BitVec 32

/-- A 64-bit word: an instruction word (R324), a register pair (R331). -/
abbrev W64 := BitVec 64

/-- A mask of lanes, bit l for lane l (R222). -/
abbrev Mask := BitVec 32

/-- A virtual address (R322). -/
abbrev Va := BitVec 57

end Sys2Proof
end

