-- ==== Sys2Proof/Machine/Bits.lean ====
section
/-! DEFINITION. Bit-field, sign-extension, byte-order and list helpers. -/

namespace Sys2Proof.Machine

/-- Bits [lo+n-1:lo] of a natural number. -/
def field (x lo n : Nat) : Nat := x >>> lo % 2 ^ n

/-- The integer a natural number's low `n` bits stand for in two's complement. -/
def toSigned (n x : Nat) : Int :=
  let y := x % 2 ^ n
  if y < 2 ^ (n - 1) then (y : Int) else (y : Int) - 2 ^ n

/-- An integer taken modulo 2^n. -/
def wrapInt (n : Nat) (x : Int) : Nat := (x % (2 ^ n : Int)).toNat

/-- The integer limited to a range. -/
def clampInt (lo hi x : Int) : Int := min (max x lo) hi

/-- The two words of a 64-bit value, low word first (R331). -/
def lo32 (x : W64) : W32 := x.truncate 32
def hi32 (x : W64) : W32 := (x >>> 32).truncate 32
def pair64 (lo hi : W32) : W64 := (hi ++ lo : BitVec (32 + 32))

/-- `n` bytes of a number, lowest first (R324). -/
def leBytes : Nat → Nat → List Byte
  | 0, _ => []
  | n + 1, x => BitVec.ofNat 8 x :: leBytes n (x / 256)

/-- The number that bytes stand for, lowest first. -/
def ofLeBytes : List Byte → Nat
  | [] => 0
  | b :: bs => b.toNat + 256 * ofLeBytes bs

/-- The byte list padded with zeros or cut to a length. -/
def fitBytes : Nat → List Byte → List Byte
  | 0, _ => []
  | n + 1, [] => 0 :: fitBytes n []
  | n + 1, b :: bs => b :: fitBytes n bs

/-- Bytes [off, off+n) of a byte string as a number. -/
def bytesAt (bs : List Byte) (off n : Nat) : Nat := ofLeBytes ((bs.drop off).take n)

/-- The lane numbers of a mask, ascending. -/
def lanesOf (m : Mask) : List Nat := (List.range 32).filter fun l => m.getLsbD l

/-- The mask of the lanes a test holds for. -/
def maskOf (p : Nat → Bool) : Mask := (List.range 32).foldl (fun m l => if p l then m ||| BitVec.ofNat 32 (2 ^ l) else m) 0

/-- The mask of one lane. -/
def laneBit (l : Nat) : Mask := BitVec.ofNat 32 (2 ^ l)

/-- The number of the highest set bit plus 1, or 0: the length of a number in bits. -/
def bitLen (x : Nat) : Nat := if x = 0 then 0 else Nat.log2 x + 1

/-- The first number below `n` for which a test holds. -/
def firstBelow (n : Nat) (p : Nat → Bool) : Option Nat := (List.range n).find? p

/-- Replace the element at a position. -/
def setAt {α : Type} : List α → Nat → α → List α
  | [], _, _ => []
  | _ :: xs, 0, y => y :: xs
  | x :: xs, k + 1, y => x :: setAt xs k y

/-- Change the element at a position. -/
def modAt {α : Type} : List α → Nat → (α → α) → List α
  | [], _, _ => []
  | x :: xs, 0, f => f x :: xs
  | x :: xs, k + 1, f => x :: modAt xs k f

/-- Fold over the numbers 0 to n-1. -/
def iter {α : Type} (n : Nat) (f : Nat → α → α) (a : α) : α := (List.range n).foldl (fun a k => f k a) a

/-- The exclusive or of a list of numbers. -/
def xorAll : List Nat → Nat
  | [] => 0
  | x :: xs => x ^^^ xorAll xs

/-- The elements of a list without those a test holds for, and the first such element. -/
def takeOut {α : Type} (p : α → Bool) : List α → Option (α × List α)
  | [] => none
  | x :: xs => if p x then some (x, xs) else (takeOut p xs).map fun r => (r.1, x :: r.2)

/-- A number rounded up to a multiple. -/
def roundUp (x m : Nat) : Nat := (x + m - 1) / m * m

/-- Whether two ranges of numbers meet. -/
def rangesMeet (a la b lb : Nat) : Bool := a < b + lb && b < a + la && 0 < la && 0 < lb

/-- Bits k to 0 of a product without carries, over the field of two elements: one step of a CRC register. -/
def crcStep (width poly : Nat) (crc bit : Nat) : Nat :=
  let top := crc >>> (width - 1) % 2
  let sh := crc * 2 % 2 ^ width
  if top ^^^ bit = 1 then sh ^^^ poly else sh

end Sys2Proof.Machine
end

