-- ==== Sys2Proof/Syntax.lean ====
section
/-! DEFINITION. The steps of the device: one constructor per row of the opcode table. An instruction constructor
carries its word's fields decoded (R324, R329); what an event's environment decides stands in State. -/

namespace Sys2Proof

/-- An operand field (R329). `bad` keeps an unassigned pattern, which raises illegal-operand (R329). -/
inductive Opnd where
  | v (n : BitVec 8)
  | s (n : BitVec 9)
  | k (b : BitVec 3) (i : BitVec 5)
  | sp (c : BitVec 7)
  | imm (i : BitVec 7)
  | lit (k : BitVec 4) (hi : Bool)
  | p (n : BitVec 3)
  | z
  | bad (raw : BitVec 11)
  deriving DecidableEq, Repr

/-- The switch marker S, the completion flag F and the guard G of a word (R324). -/
structure Hdr where
  sw : Bool
  f : BitVec 4
  g : BitVec 4
  deriving DecidableEq, Repr

/-- Four operand fields. -/
structure R4 where
  d : Opnd
  a : Opnd
  b : Opnd
  c : Opnd
  deriving DecidableEq, Repr

/-- Three operand fields and a modifier field in C. -/
structure RM where
  d : Opnd
  a : Opnd
  b : Opnd
  c : BitVec 11
  deriving DecidableEq, Repr

/-- Two operand fields and modifier fields in B and C (CVT). -/
structure CV where
  d : Opnd
  a : Opnd
  b : BitVec 11
  c : BitVec 11
  deriving DecidableEq, Repr

/-- The I22 form (R337). -/
structure I22 where
  d : Opnd
  a : Opnd
  m : BitVec 22
  deriving DecidableEq, Repr

/-- The I20 form (R336); `r` is bits [4:3], which must be zero. -/
structure I20 where
  d : Opnd
  a : Opnd
  q : BitVec 20
  r : BitVec 2
  deriving DecidableEq, Repr

/-- 32-bit or 64-bit form. -/
inductive Wd where
  | w32 | w64
  deriving DecidableEq, Repr

/-- X of IADD and ISUB (R377). -/
inductive AddX where
  | wrap32 | satI32 | satN32 | wrap64
  deriving DecidableEq, Repr

/-- X of IMUL (R378). -/
inductive MulX where
  | low32 | hiI32 | hiN32 | low64
  deriving DecidableEq, Repr

/-- X of IMAD (R378). -/
inductive MadX where
  | low32 | wideI32 | wideN32
  deriving DecidableEq, Repr

/-- X of IMIN and IMAX (R379). -/
inductive MinX where
  | i32 | n32 | i64 | n64
  deriving DecidableEq, Repr

/-- X of BFE (R384). -/
inductive Ext where
  | zero | sign
  deriving DecidableEq, Repr

/-- X of ICMP (R385). -/
inductive Cc where
  | eq | ne | lt | le | gt | ge
  deriving DecidableEq, Repr

/-- X of LEA (R387). -/
inductive IdxX where
  | sx | zx
  deriving DecidableEq, Repr

/-- The rounding modes (R309). -/
inductive Rnd where
  | rn | rz | ru | rd | rs
  deriving DecidableEq, Repr

/-- X of FCMP (R395). -/
inductive FCc where
  | eq | ne | lt | le | gt | ge | un | ord
  deriving DecidableEq, Repr

/-- X of LD (R417). -/
inductive LdW where
  | b8 | i8 | b16 | i16 | b32 | b64 | b128
  deriving DecidableEq, Repr

/-- X of ST (R417). -/
inductive StW where
  | b8 | b16 | b32 | b64 | b128
  deriving DecidableEq, Repr

/-- X of LDMC (R423). -/
inductive McX where
  | sp | ob
  deriving DecidableEq, Repr

/-- X of WAITA (R435). -/
inductive WaX where
  | eq | ne | lt | ge
  deriving DecidableEq, Repr

/-- X of GSTOP (R480). -/
inductive StopX where
  | workgroup | gang
  deriving DecidableEq, Repr

/-- The steps of the device, one per row of spec/opcode_table.json: the instructions in its order, then the events in its
order. The environment of an event (which core, which port, which value) stands in State.env. -/
inductive Instr where
  | nop (h : Hdr) (o : R4)
  | bra (h : Hdr) (o : I22)
  | brx (h : Hdr) (o : R4)
  | call (h : Hdr) (o : I22)
  | callx (h : Hdr) (o : R4)
  | ret (h : Hdr) (o : R4)
  | exit (h : Hdr) (o : R4)
  | yield (h : Hdr) (o : R4)
  | jenter (h : Hdr) (o : RM)
  | jquit (h : Hdr) (o : RM)
  | jwait (h : Hdr) (o : RM)
  | jsave (h : Hdr) (o : RM)
  | jrestore (h : Hdr) (o : RM)
  | jread (h : Hdr) (o : RM)
  | mov (h : Hdr) (x : Wd) (o : R4)
  | movi (h : Hdr) (x : Wd) (o : I22)
  | sel (h : Hdr) (x : Wd) (o : R4)
  | iadd (h : Hdr) (x : AddX) (o : R4)
  | isub (h : Hdr) (x : AddX) (o : R4)
  | iaddi (h : Hdr) (x : Wd) (o : I22)
  | imul (h : Hdr) (x : MulX) (o : R4)
  | imad (h : Hdr) (x : MadX) (o : R4)
  | imin (h : Hdr) (x : MinX) (o : R4)
  | imax (h : Hdr) (x : MinX) (o : R4)
  | shl (h : Hdr) (o : R4)
  | shr (h : Hdr) (o : R4)
  | sar (h : Hdr) (o : R4)
  | rol (h : Hdr) (o : R4)
  | ror (h : Hdr) (o : R4)
  | fshL (h : Hdr) (o : R4)
  | fshR (h : Hdr) (o : R4)
  | andB (h : Hdr) (o : R4)
  | orB (h : Hdr) (o : R4)
  | xorB (h : Hdr) (o : R4)
  | andnB (h : Hdr) (o : R4)
  | ornB (h : Hdr) (o : R4)
  | xnorB (h : Hdr) (o : R4)
  | notB (h : Hdr) (o : R4)
  | clz (h : Hdr) (o : R4)
  | popc (h : Hdr) (o : R4)
  | brev (h : Hdr) (o : R4)
  | bfe (h : Hdr) (x : Ext) (o : R4)
  | bfi (h : Hdr) (o : R4)
  | icmp (h : Hdr) (x : Cc) (o : RM)
  | pand (h : Hdr) (o : R4)
  | por (h : Hdr) (o : R4)
  | pxor (h : Hdr) (o : R4)
  | pandn (h : Hdr) (o : R4)
  | pnot (h : Hdr) (o : R4)
  | ptov (h : Hdr) (o : R4)
  | vtop (h : Hdr) (o : R4)
  | lea (h : Hdr) (x : IdxX) (o : RM)
  | faddF32 (h : Hdr) (x : Rnd) (o : RM)
  | faddF64 (h : Hdr) (x : Rnd) (o : RM)
  | faddF16 (h : Hdr) (x : Rnd) (o : RM)
  | faddBf16 (h : Hdr) (x : Rnd) (o : RM)
  | fmulF32 (h : Hdr) (x : Rnd) (o : RM)
  | fmulF64 (h : Hdr) (x : Rnd) (o : RM)
  | fmulF16 (h : Hdr) (x : Rnd) (o : RM)
  | fmulBf16 (h : Hdr) (x : Rnd) (o : RM)
  | fmaF32 (h : Hdr) (x : Rnd) (o : R4)
  | fmaF64 (h : Hdr) (x : Rnd) (o : R4)
  | fmaF16 (h : Hdr) (x : Rnd) (o : R4)
  | fmaBf16 (h : Hdr) (x : Rnd) (o : R4)
  | fminF32 (h : Hdr) (o : R4)
  | fminF64 (h : Hdr) (o : R4)
  | fminF16 (h : Hdr) (o : R4)
  | fminBf16 (h : Hdr) (o : R4)
  | fmaxF32 (h : Hdr) (o : R4)
  | fmaxF64 (h : Hdr) (o : R4)
  | fmaxF16 (h : Hdr) (o : R4)
  | fmaxBf16 (h : Hdr) (o : R4)
  | fcmpF32 (h : Hdr) (x : FCc) (o : R4)
  | fcmpF64 (h : Hdr) (x : FCc) (o : R4)
  | fcmpF16 (h : Hdr) (x : FCc) (o : R4)
  | fcmpBf16 (h : Hdr) (x : FCc) (o : R4)
  | frcpF32 (h : Hdr) (o : R4)
  | fsqrtF32 (h : Hdr) (o : R4)
  | frsqF32 (h : Hdr) (o : R4)
  | fexp2F32 (h : Hdr) (o : R4)
  | flog2F32 (h : Hdr) (o : R4)
  | fsinF32 (h : Hdr) (o : R4)
  | fcosF32 (h : Hdr) (o : R4)
  | ftanhF32 (h : Hdr) (o : R4)
  | frcpF64 (h : Hdr) (o : R4)
  | fsqrtF64 (h : Hdr) (o : R4)
  | frsqF64 (h : Hdr) (o : R4)
  | faddiF32 (h : Hdr) (x : Rnd) (o : I20)
  | fmuliF32 (h : Hdr) (x : Rnd) (o : I20)
  | fmaiF32 (h : Hdr) (x : Rnd) (o : I20)
  | fmoviF32 (h : Hdr) (o : I20)
  | cvt (h : Hdr) (x : Rnd) (o : CV)
  | bpack (h : Hdr) (x : Rnd) (o : RM)
  | bunpk (h : Hdr) (o : RM)
  | xpatld (h : Hdr) (o : RM)
  | xperm (h : Hdr) (o : RM)
  | shflIdx (h : Hdr) (o : R4)
  | shflUp (h : Hdr) (o : R4)
  | shflDown (h : Hdr) (o : R4)
  | shflXor (h : Hdr) (o : R4)
  | bcast (h : Hdr) (x : Wd) (o : R4)
  | ballot (h : Hdr) (o : R4)
  | voteAny (h : Hdr) (o : R4)
  | voteAll (h : Hdr) (o : R4)
  | voteUni (h : Hdr) (o : R4)
  | redAdd (h : Hdr) (o : RM)
  | redMin (h : Hdr) (o : RM)
  | redMax (h : Hdr) (o : RM)
  | redAnd (h : Hdr) (o : RM)
  | redOr (h : Hdr) (o : RM)
  | redXor (h : Hdr) (o : RM)
  | fredAdd (h : Hdr) (o : RM)
  | fredMin (h : Hdr) (o : RM)
  | fredMax (h : Hdr) (o : RM)
  | scanAdd (h : Hdr) (o : RM)
  | scanXadd (h : Hdr) (o : RM)
  | scanMax (h : Hdr) (o : RM)
  | scanMin (h : Hdr) (o : RM)
  | ldG (h : Hdr) (x : LdW) (o : R4)
  | ldSp (h : Hdr) (x : LdW) (o : R4)
  | ldOb (h : Hdr) (x : LdW) (o : R4)
  | ldMs (h : Hdr) (x : LdW) (o : R4)
  | stG (h : Hdr) (x : StW) (o : R4)
  | stSp (h : Hdr) (x : StW) (o : R4)
  | stOb (h : Hdr) (x : StW) (o : R4)
  | stMs (h : Hdr) (x : StW) (o : R4)
  | stuG (h : Hdr) (o : R4)
  | stuSp (h : Hdr) (o : R4)
  | ldmc (h : Hdr) (x : McX) (o : R4)
  | prefL1 (h : Hdr) (o : R4)
  | prefL2 (h : Hdr) (o : R4)
  | residKeep (h : Hdr) (o : R4)
  | residNorm (h : Hdr) (o : R4)
  | banksw (h : Hdr) (o : R4)
  | atomGAdd (h : Hdr) (o : RM)
  | atomGMin (h : Hdr) (o : RM)
  | atomGMax (h : Hdr) (o : RM)
  | atomGAnd (h : Hdr) (o : RM)
  | atomGOr (h : Hdr) (o : RM)
  | atomGXor (h : Hdr) (o : RM)
  | atomGExch (h : Hdr) (o : RM)
  | atomGCas (h : Hdr) (o : RM)
  | atomSpAdd (h : Hdr) (o : RM)
  | atomSpMin (h : Hdr) (o : RM)
  | atomSpMax (h : Hdr) (o : RM)
  | atomSpAnd (h : Hdr) (o : RM)
  | atomSpOr (h : Hdr) (o : RM)
  | atomSpXor (h : Hdr) (o : RM)
  | atomSpExch (h : Hdr) (o : RM)
  | atomSpCas (h : Hdr) (o : RM)
  | fenceRel (h : Hdr) (o : RM)
  | fenceAcq (h : Hdr) (o : RM)
  | fenceAr (h : Hdr) (o : RM)
  | fenceX (h : Hdr) (o : RM)
  | bind (h : Hdr) (o : R4)
  | unbind (h : Hdr) (o : R4)
  | acq (h : Hdr) (o : R4)
  | relSet (h : Hdr) (o : R4)
  | relAdd (h : Hdr) (o : R4)
  | relSub (h : Hdr) (o : R4)
  | waita (h : Hdr) (x : WaX) (o : RM)
  | barArv (h : Hdr) (o : R4)
  | barWait (h : Hdr) (o : R4)
  | barSync (h : Hdr) (o : R4)
  | obres (h : Hdr) (o : RM)
  | obfree (h : Hdr) (o : RM)
  | mma (h : Hdr) (o : R4)
  | msmld (h : Hdr) (x : Wd) (o : R4)
  | msmst (h : Hdr) (x : Wd) (o : R4)
  | bondAcq (h : Hdr) (o : RM)
  | bondRel (h : Hdr) (o : R4)
  | cpy (h : Hdr) (o : R4)
  | lxfer (h : Hdr) (o : R4)
  | swdecl (h : Hdr) (o : R4)
  | swstart (h : Hdr) (o : R4)
  | swpull (h : Hdr) (o : R4)
  | swpark (h : Hdr) (o : R4)
  | swdone (h : Hdr) (o : R4)
  | swkeep (h : Hdr) (o : R4)
  | swwake (h : Hdr) (o : R4)
  | swstat (h : Hdr) (o : R4)
  | trap (h : Hdr) (o : I22)
  | tret (h : Hdr) (o : R4)
  | sysr (h : Hdr) (o : R4)
  | sysw (h : Hdr) (o : R4)
  | clock (h : Hdr) (o : R4)
  | pld (h : Hdr) (x : Wd) (o : R4)
  | pst (h : Hdr) (x : Wd) (o : R4)
  | msix (h : Hdr) (o : R4)
  | grel (h : Hdr) (o : R4)
  | gstop (h : Hdr) (x : StopX) (o : R4)
  | gsave (h : Hdr) (o : R4)
  | grest (h : Hdr) (o : R4)
  | coldReset
  | perstDeassert
  | warmReset
  | configRequest
  | warmResetRequest
  | functionResetRequest
  | functionLevelReset
  | functionResetWashEnd
  | thermalShutdown
  | droopDetect
  | voltageFrequencyLoop
  | governorWindow
  | flitReceive
  | nakReceive
  | resendAfterBackoff
  | ackTimer
  | replayTimeout
  | laneLossOfLock
  | portRecoveryComplete
  | portRecoveryTimeout
  | linkEnable
  | linkDisable
  | linkCountersClear
  | registerWrite
  | apercfgWrite
  | hostApertureRead
  | hostApertureWrite
  | featureLock
  | fetchNonce
  | submitRelease
  | ownershipReservedOp
  | createContext
  | destroyContext
  | createQueue
  | destroyQueue
  | registerSignal
  | unregisterSignal
  | setEventRing
  | resetQueue
  | readAttestationQuote
  | checkpointStreamStart
  | checkpointStreamAbort
  | checkpointStreamEnd
  | rangeHold
  | rangeRelease
  | rangeInvalidate
  | migratePage
  | resolveFaultsRetry
  | resolveFaultsFail
  | readCounters
  | mailboxReservedOp
  | mailboxRequestComplete
  | eventConsumerWrite
  | eventLostClear
  | ceCountClear
  | ironctlWrite
  | packetPickup
  | queueScan
  | slotIdleRelease
  | queueEviction
  | suspectedWaitCycle
  | waitSignalTimeout
  | launchPacket
  | copyPacket
  | waitSignalPacket
  | setSignalPacket
  | barrierAndPacket
  | markerPacket
  | headWaitSatisfied
  | agentAccessRetry
  | workgroupClaim
  | gangClaim
  | gangHoldRequest
  | gangHoldAnswer
  | groupRelease
  | headOfLineHold
  | sliceContentionTest
  | stopRequest
  | drainComplete
  | workgroupRetire
  | watchdogHang
  | remotePendingLimit
  | uncorrectableError
  | poisonConsumed
  | killComplete
  | frameWashComplete
  | l2SliceWashComplete
  | ironingTurn
  | ironingScanStart
  | ironingScanComplete
  | pageWalk
  | overflowNakResend
  | l2Eviction
  | multicastWindowClose
  | quarterSelection
  | flagOperationComplete
  | engineNakResend
  | operandTokenReceive
  | operandTokenResend
  | matrixOperationComplete
  | copyCommandComplete
  | linkTransferComplete
  | remoteWakeNotify
  | sweepDecisionNotify
  | stalledWatchReread
  | resumeWordWrite
  | syscallConsWrite
  | bankmodeWrite
  | bankSwitchComplete
  | waitaConditionMet
  | lpc1Write
  | rngvalWrite
  | mxstallClear
  | engnakClear
  | startStepComplete
  | linkTrainingComplete
  | pcieLinkTrained
  | droopEnd
  | powerLoss
  | ownerKeyProvisioning
  deriving DecidableEq, Repr

end Sys2Proof
end

