-- ==== Sys2Proof/WellFormed.lean ====
section
/-! DEFINITION. Well-formed steps. -/

namespace Sys2Proof

/-- The 11 bits of an operand field (R329). -/
def Opnd.toBits : Opnd → BitVec 11
  | .v n => 0b000#3 ++ n
  | .s n => 0b01#2 ++ n
  | .k b i => 0b100#3 ++ b ++ i
  | .sp c => 0b1010#4 ++ c
  | .imm i => 0b1011#4 ++ i
  | .lit i hi => 0b110#3 ++ i ++ BitVec.ofBool hi ++ 0#3
  | .p n => 0b11100000#8 ++ n
  | .z => 0x7FF#11
  | .bad w => w

/-- The unassigned patterns of R329. -/
def unassignedField (w : BitVec 11) : Bool :=
  w.extractLsb' 8 3 == 0b001#3
  || (w.extractLsb' 8 3 == 0b110#3 && w.extractLsb' 0 3 != 0#3)
  || (w.extractLsb' 8 3 == 0b111#3 && w.extractLsb' 3 8 != 0b11100000#8 && w != 0x7FF#11)

/-- An operand is well formed when a `bad` one really is unassigned. -/
def Opnd.wf : Opnd → Bool
  | .bad w => unassignedField w
  | _ => true

def R4.wf (o : R4) : Bool := o.d.wf && o.a.wf && o.b.wf && o.c.wf
def RM.wf (o : RM) : Bool := o.d.wf && o.a.wf && o.b.wf
def CV.wf (o : CV) : Bool := o.d.wf && o.a.wf
def I22.wf (o : I22) : Bool := o.d.wf && o.a.wf
def I20.wf (o : I20) : Bool := o.d.wf && o.a.wf

/-- A step is well formed when every operand field is one the encoding can hold and every environment value lies in the device. -/
def Instr.wf : Instr → Bool
  | .nop _ o => o.wf
  | .bra _ o => o.wf
  | .brx _ o => o.wf
  | .call _ o => o.wf
  | .callx _ o => o.wf
  | .ret _ o => o.wf
  | .exit _ o => o.wf
  | .yield _ o => o.wf
  | .jenter _ o => o.wf
  | .jquit _ o => o.wf
  | .jwait _ o => o.wf
  | .jsave _ o => o.wf
  | .jrestore _ o => o.wf
  | .jread _ o => o.wf
  | .mov _ _ o => o.wf
  | .movi _ _ o => o.wf
  | .sel _ _ o => o.wf
  | .iadd _ _ o => o.wf
  | .isub _ _ o => o.wf
  | .iaddi _ _ o => o.wf
  | .imul _ _ o => o.wf
  | .imad _ _ o => o.wf
  | .imin _ _ o => o.wf
  | .imax _ _ o => o.wf
  | .shl _ o => o.wf
  | .shr _ o => o.wf
  | .sar _ o => o.wf
  | .rol _ o => o.wf
  | .ror _ o => o.wf
  | .fshL _ o => o.wf
  | .fshR _ o => o.wf
  | .andB _ o => o.wf
  | .orB _ o => o.wf
  | .xorB _ o => o.wf
  | .andnB _ o => o.wf
  | .ornB _ o => o.wf
  | .xnorB _ o => o.wf
  | .notB _ o => o.wf
  | .clz _ o => o.wf
  | .popc _ o => o.wf
  | .brev _ o => o.wf
  | .bfe _ _ o => o.wf
  | .bfi _ o => o.wf
  | .icmp _ _ o => o.wf
  | .pand _ o => o.wf
  | .por _ o => o.wf
  | .pxor _ o => o.wf
  | .pandn _ o => o.wf
  | .pnot _ o => o.wf
  | .ptov _ o => o.wf
  | .vtop _ o => o.wf
  | .lea _ _ o => o.wf
  | .faddF32 _ _ o => o.wf
  | .faddF64 _ _ o => o.wf
  | .faddF16 _ _ o => o.wf
  | .faddBf16 _ _ o => o.wf
  | .fmulF32 _ _ o => o.wf
  | .fmulF64 _ _ o => o.wf
  | .fmulF16 _ _ o => o.wf
  | .fmulBf16 _ _ o => o.wf
  | .fmaF32 _ _ o => o.wf
  | .fmaF64 _ _ o => o.wf
  | .fmaF16 _ _ o => o.wf
  | .fmaBf16 _ _ o => o.wf
  | .fminF32 _ o => o.wf
  | .fminF64 _ o => o.wf
  | .fminF16 _ o => o.wf
  | .fminBf16 _ o => o.wf
  | .fmaxF32 _ o => o.wf
  | .fmaxF64 _ o => o.wf
  | .fmaxF16 _ o => o.wf
  | .fmaxBf16 _ o => o.wf
  | .fcmpF32 _ _ o => o.wf
  | .fcmpF64 _ _ o => o.wf
  | .fcmpF16 _ _ o => o.wf
  | .fcmpBf16 _ _ o => o.wf
  | .frcpF32 _ o => o.wf
  | .fsqrtF32 _ o => o.wf
  | .frsqF32 _ o => o.wf
  | .fexp2F32 _ o => o.wf
  | .flog2F32 _ o => o.wf
  | .fsinF32 _ o => o.wf
  | .fcosF32 _ o => o.wf
  | .ftanhF32 _ o => o.wf
  | .frcpF64 _ o => o.wf
  | .fsqrtF64 _ o => o.wf
  | .frsqF64 _ o => o.wf
  | .faddiF32 _ _ o => o.wf
  | .fmuliF32 _ _ o => o.wf
  | .fmaiF32 _ _ o => o.wf
  | .fmoviF32 _ o => o.wf
  | .cvt _ _ o => o.wf
  | .bpack _ _ o => o.wf
  | .bunpk _ o => o.wf
  | .xpatld _ o => o.wf
  | .xperm _ o => o.wf
  | .shflIdx _ o => o.wf
  | .shflUp _ o => o.wf
  | .shflDown _ o => o.wf
  | .shflXor _ o => o.wf
  | .bcast _ _ o => o.wf
  | .ballot _ o => o.wf
  | .voteAny _ o => o.wf
  | .voteAll _ o => o.wf
  | .voteUni _ o => o.wf
  | .redAdd _ o => o.wf
  | .redMin _ o => o.wf
  | .redMax _ o => o.wf
  | .redAnd _ o => o.wf
  | .redOr _ o => o.wf
  | .redXor _ o => o.wf
  | .fredAdd _ o => o.wf
  | .fredMin _ o => o.wf
  | .fredMax _ o => o.wf
  | .scanAdd _ o => o.wf
  | .scanXadd _ o => o.wf
  | .scanMax _ o => o.wf
  | .scanMin _ o => o.wf
  | .ldG _ _ o => o.wf
  | .ldSp _ _ o => o.wf
  | .ldOb _ _ o => o.wf
  | .ldMs _ _ o => o.wf
  | .stG _ _ o => o.wf
  | .stSp _ _ o => o.wf
  | .stOb _ _ o => o.wf
  | .stMs _ _ o => o.wf
  | .stuG _ o => o.wf
  | .stuSp _ o => o.wf
  | .ldmc _ _ o => o.wf
  | .prefL1 _ o => o.wf
  | .prefL2 _ o => o.wf
  | .residKeep _ o => o.wf
  | .residNorm _ o => o.wf
  | .banksw _ o => o.wf
  | .atomGAdd _ o => o.wf
  | .atomGMin _ o => o.wf
  | .atomGMax _ o => o.wf
  | .atomGAnd _ o => o.wf
  | .atomGOr _ o => o.wf
  | .atomGXor _ o => o.wf
  | .atomGExch _ o => o.wf
  | .atomGCas _ o => o.wf
  | .atomSpAdd _ o => o.wf
  | .atomSpMin _ o => o.wf
  | .atomSpMax _ o => o.wf
  | .atomSpAnd _ o => o.wf
  | .atomSpOr _ o => o.wf
  | .atomSpXor _ o => o.wf
  | .atomSpExch _ o => o.wf
  | .atomSpCas _ o => o.wf
  | .fenceRel _ o => o.wf
  | .fenceAcq _ o => o.wf
  | .fenceAr _ o => o.wf
  | .fenceX _ o => o.wf
  | .bind _ o => o.wf
  | .unbind _ o => o.wf
  | .acq _ o => o.wf
  | .relSet _ o => o.wf
  | .relAdd _ o => o.wf
  | .relSub _ o => o.wf
  | .waita _ _ o => o.wf
  | .barArv _ o => o.wf
  | .barWait _ o => o.wf
  | .barSync _ o => o.wf
  | .obres _ o => o.wf
  | .obfree _ o => o.wf
  | .mma _ o => o.wf
  | .msmld _ _ o => o.wf
  | .msmst _ _ o => o.wf
  | .bondAcq _ o => o.wf
  | .bondRel _ o => o.wf
  | .cpy _ o => o.wf
  | .lxfer _ o => o.wf
  | .swdecl _ o => o.wf
  | .swstart _ o => o.wf
  | .swpull _ o => o.wf
  | .swpark _ o => o.wf
  | .swdone _ o => o.wf
  | .swkeep _ o => o.wf
  | .swwake _ o => o.wf
  | .swstat _ o => o.wf
  | .trap _ o => o.wf
  | .tret _ o => o.wf
  | .sysr _ o => o.wf
  | .sysw _ o => o.wf
  | .clock _ o => o.wf
  | .pld _ _ o => o.wf
  | .pst _ _ o => o.wf
  | .msix _ o => o.wf
  | .grel _ o => o.wf
  | .gstop _ _ o => o.wf
  | .gsave _ o => o.wf
  | .grest _ o => o.wf
  | .coldReset => true
  | .perstDeassert => true
  | .warmReset => true
  | .configRequest => true
  | .warmResetRequest => true
  | .functionResetRequest => true
  | .functionLevelReset => true
  | .functionResetWashEnd => true
  | .thermalShutdown => true
  | .droopDetect => true
  | .voltageFrequencyLoop => true
  | .governorWindow => true
  | .flitReceive => true
  | .nakReceive => true
  | .resendAfterBackoff => true
  | .ackTimer => true
  | .replayTimeout => true
  | .laneLossOfLock => true
  | .portRecoveryComplete => true
  | .portRecoveryTimeout => true
  | .linkEnable => true
  | .linkDisable => true
  | .linkCountersClear => true
  | .registerWrite => true
  | .apercfgWrite => true
  | .hostApertureRead => true
  | .hostApertureWrite => true
  | .featureLock => true
  | .fetchNonce => true
  | .submitRelease => true
  | .ownershipReservedOp => true
  | .createContext => true
  | .destroyContext => true
  | .createQueue => true
  | .destroyQueue => true
  | .registerSignal => true
  | .unregisterSignal => true
  | .setEventRing => true
  | .resetQueue => true
  | .readAttestationQuote => true
  | .checkpointStreamStart => true
  | .checkpointStreamAbort => true
  | .checkpointStreamEnd => true
  | .rangeHold => true
  | .rangeRelease => true
  | .rangeInvalidate => true
  | .migratePage => true
  | .resolveFaultsRetry => true
  | .resolveFaultsFail => true
  | .readCounters => true
  | .mailboxReservedOp => true
  | .mailboxRequestComplete => true
  | .eventConsumerWrite => true
  | .eventLostClear => true
  | .ceCountClear => true
  | .ironctlWrite => true
  | .packetPickup => true
  | .queueScan => true
  | .slotIdleRelease => true
  | .queueEviction => true
  | .suspectedWaitCycle => true
  | .waitSignalTimeout => true
  | .launchPacket => true
  | .copyPacket => true
  | .waitSignalPacket => true
  | .setSignalPacket => true
  | .barrierAndPacket => true
  | .markerPacket => true
  | .headWaitSatisfied => true
  | .agentAccessRetry => true
  | .workgroupClaim => true
  | .gangClaim => true
  | .gangHoldRequest => true
  | .gangHoldAnswer => true
  | .groupRelease => true
  | .headOfLineHold => true
  | .sliceContentionTest => true
  | .stopRequest => true
  | .drainComplete => true
  | .workgroupRetire => true
  | .watchdogHang => true
  | .remotePendingLimit => true
  | .uncorrectableError => true
  | .poisonConsumed => true
  | .killComplete => true
  | .frameWashComplete => true
  | .l2SliceWashComplete => true
  | .ironingTurn => true
  | .ironingScanStart => true
  | .ironingScanComplete => true
  | .pageWalk => true
  | .overflowNakResend => true
  | .l2Eviction => true
  | .multicastWindowClose => true
  | .quarterSelection => true
  | .flagOperationComplete => true
  | .engineNakResend => true
  | .operandTokenReceive => true
  | .operandTokenResend => true
  | .matrixOperationComplete => true
  | .copyCommandComplete => true
  | .linkTransferComplete => true
  | .remoteWakeNotify => true
  | .sweepDecisionNotify => true
  | .stalledWatchReread => true
  | .resumeWordWrite => true
  | .syscallConsWrite => true
  | .bankmodeWrite => true
  | .bankSwitchComplete => true
  | .waitaConditionMet => true
  | .lpc1Write => true
  | .rngvalWrite => true
  | .mxstallClear => true
  | .engnakClear => true
  | .startStepComplete => true
  | .linkTrainingComplete => true
  | .pcieLinkTrained => true
  | .droopEnd => true
  | .powerLoss => true
  | .ownerKeyProvisioning => true

end Sys2Proof
end

