-- ==== Sys2Proof/Decode.lean ====
section
/-! DEFINITION. The decoder of instruction words, total on every 64-bit word, and the encoder. -/

namespace Sys2Proof

/-- Why a word is no instruction; it raises an exception when it issues (R325). -/
inductive DecodeError where
  /-- OP is unassigned, 0xC5 among them (R321, R339). -/
  | unassignedOpcode
  /-- X is reserved for the opcode (R339). -/
  | reservedX
  /-- X of BALLOT or VOTE lies above the values listed (R411): the illegal-operand exception. -/
  | operandX
  deriving DecidableEq, Repr

/-- The operand a field's 11 bits stand for (R329). -/
def Opnd.ofBits (w : BitVec 11) : Opnd :=
  if w.extractLsb' 8 3 = 0b000#3 then .v (w.extractLsb' 0 8)
  else if w.extractLsb' 9 2 = 0b01#2 then .s (w.extractLsb' 0 9)
  else if w.extractLsb' 8 3 = 0b100#3 then .k (w.extractLsb' 5 3) (w.extractLsb' 0 5)
  else if w.extractLsb' 7 4 = 0b1010#4 then .sp (w.extractLsb' 0 7)
  else if w.extractLsb' 7 4 = 0b1011#4 then .imm (w.extractLsb' 0 7)
  else if w.extractLsb' 8 3 = 0b110#3 ∧ w.extractLsb' 0 3 = 0#3 then .lit (w.extractLsb' 4 4) (w.getLsbD 3)
  else if w.extractLsb' 3 8 = 0b11100000#8 then .p (w.extractLsb' 0 3)
  else if w = 0x7FF#11 then .z
  else .bad w

/-- The word of an instruction, field by field (R324). -/
def packWord (op : BitVec 8) (h : Hdr) (d a b c : BitVec 11) (x : BitVec 3) : W64 :=
  op ++ BitVec.ofBool h.sw ++ h.f ++ h.g ++ d ++ a ++ b ++ c ++ x

/-- The word of an I22 form (R337). -/
def packI22 (op : BitVec 8) (h : Hdr) (d a : BitVec 11) (m : BitVec 22) (x : BitVec 3) : W64 :=
  op ++ BitVec.ofBool h.sw ++ h.f ++ h.g ++ d ++ a ++ m ++ x

/-- The word of an I20 form (R336). -/
def packI20 (op : BitVec 8) (h : Hdr) (d a : BitVec 11) (q : BitVec 20) (r : BitVec 2) (x : BitVec 3) : W64 :=
  op ++ BitVec.ofBool h.sw ++ h.f ++ h.g ++ d ++ a ++ q ++ r ++ x

def r4Word (op : BitVec 8) (h : Hdr) (x : BitVec 3) (o : R4) : W64 :=
  packWord op h o.d.toBits o.a.toBits o.b.toBits o.c.toBits x
def rmWord (op : BitVec 8) (h : Hdr) (x : BitVec 3) (o : RM) : W64 :=
  packWord op h o.d.toBits o.a.toBits o.b.toBits o.c x
def cvWord (op : BitVec 8) (h : Hdr) (x : BitVec 3) (o : CV) : W64 :=
  packWord op h o.d.toBits o.a.toBits o.b o.c x
def i22Word (op : BitVec 8) (h : Hdr) (x : BitVec 3) (o : I22) : W64 :=
  packI22 op h o.d.toBits o.a.toBits o.m x
def i20Word (op : BitVec 8) (h : Hdr) (x : BitVec 3) (o : I20) : W64 :=
  packI20 op h o.d.toBits o.a.toBits o.q o.r x

/-- The fields of a word (R324). -/
def opOf (w : W64) : BitVec 8 := w.extractLsb' 56 8
def hdrOf (w : W64) : Hdr := ⟨w.getLsbD 55, w.extractLsb' 51 4, w.extractLsb' 47 4⟩
def dOf (w : W64) : BitVec 11 := w.extractLsb' 36 11
def aOf (w : W64) : BitVec 11 := w.extractLsb' 25 11
def bOf (w : W64) : BitVec 11 := w.extractLsb' 14 11
def cOf (w : W64) : BitVec 11 := w.extractLsb' 3 11
def xOf (w : W64) : BitVec 3 := w.extractLsb' 0 3

def r4Of (w : W64) : R4 := ⟨.ofBits (dOf w), .ofBits (aOf w), .ofBits (bOf w), .ofBits (cOf w)⟩
def rmOf (w : W64) : RM := ⟨.ofBits (dOf w), .ofBits (aOf w), .ofBits (bOf w), cOf w⟩
def cvOf (w : W64) : CV := ⟨.ofBits (dOf w), .ofBits (aOf w), bOf w, cOf w⟩
def i22Of (w : W64) : I22 := ⟨.ofBits (dOf w), .ofBits (aOf w), w.extractLsb' 3 22⟩
def i20Of (w : W64) : I20 := ⟨.ofBits (dOf w), .ofBits (aOf w), w.extractLsb' 5 20, w.extractLsb' 3 2⟩

/-- An instruction whose sub-operation is X's code; a reserved code is refused (R339). -/
def withX {α : Type} (x : Option α) (k : α → Instr) : Except DecodeError Instr :=
  match x with
  | none => .error .reservedX
  | some y => .ok (k y)

/-- The code of Wd. -/
def wdCode : Wd → BitVec 3
  | .w32 => 0
  | .w64 => 1

/-- Wd of a code; none where X is reserved. -/
def wdOf (x : BitVec 3) : Option Wd :=
  match x.toNat with
  | 0 => some .w32
  | 1 => some .w64
  | _ => none

/-- The code of AddX. -/
def addXCode : AddX → BitVec 3
  | .wrap32 => 0
  | .satI32 => 1
  | .satN32 => 2
  | .wrap64 => 3

/-- AddX of a code; none where X is reserved. -/
def addXOf (x : BitVec 3) : Option AddX :=
  match x.toNat with
  | 0 => some .wrap32
  | 1 => some .satI32
  | 2 => some .satN32
  | 3 => some .wrap64
  | _ => none

/-- The code of MulX. -/
def mulXCode : MulX → BitVec 3
  | .low32 => 0
  | .hiI32 => 1
  | .hiN32 => 2
  | .low64 => 3

/-- MulX of a code; none where X is reserved. -/
def mulXOf (x : BitVec 3) : Option MulX :=
  match x.toNat with
  | 0 => some .low32
  | 1 => some .hiI32
  | 2 => some .hiN32
  | 3 => some .low64
  | _ => none

/-- The code of MadX. -/
def madXCode : MadX → BitVec 3
  | .low32 => 0
  | .wideI32 => 1
  | .wideN32 => 2

/-- MadX of a code; none where X is reserved. -/
def madXOf (x : BitVec 3) : Option MadX :=
  match x.toNat with
  | 0 => some .low32
  | 1 => some .wideI32
  | 2 => some .wideN32
  | _ => none

/-- The code of MinX. -/
def minXCode : MinX → BitVec 3
  | .i32 => 0
  | .n32 => 1
  | .i64 => 2
  | .n64 => 3

/-- MinX of a code; none where X is reserved. -/
def minXOf (x : BitVec 3) : Option MinX :=
  match x.toNat with
  | 0 => some .i32
  | 1 => some .n32
  | 2 => some .i64
  | 3 => some .n64
  | _ => none

/-- The code of Ext. -/
def extCode : Ext → BitVec 3
  | .zero => 0
  | .sign => 1

/-- Ext of a code; none where X is reserved. -/
def extOf (x : BitVec 3) : Option Ext :=
  match x.toNat with
  | 0 => some .zero
  | 1 => some .sign
  | _ => none

/-- The code of Cc. -/
def ccCode : Cc → BitVec 3
  | .eq => 0
  | .ne => 1
  | .lt => 2
  | .le => 3
  | .gt => 4
  | .ge => 5

/-- Cc of a code; none where X is reserved. -/
def ccOf (x : BitVec 3) : Option Cc :=
  match x.toNat with
  | 0 => some .eq
  | 1 => some .ne
  | 2 => some .lt
  | 3 => some .le
  | 4 => some .gt
  | 5 => some .ge
  | _ => none

/-- The code of IdxX. -/
def idxXCode : IdxX → BitVec 3
  | .sx => 0
  | .zx => 1

/-- IdxX of a code; none where X is reserved. -/
def idxXOf (x : BitVec 3) : Option IdxX :=
  match x.toNat with
  | 0 => some .sx
  | 1 => some .zx
  | _ => none

/-- The code of Rnd. -/
def rndCode : Rnd → BitVec 3
  | .rn => 0
  | .rz => 1
  | .ru => 2
  | .rd => 3
  | .rs => 4

/-- Rnd of a code; none where X is reserved. -/
def rndOf (x : BitVec 3) : Option Rnd :=
  match x.toNat with
  | 0 => some .rn
  | 1 => some .rz
  | 2 => some .ru
  | 3 => some .rd
  | 4 => some .rs
  | _ => none

/-- The code of FCc. -/
def fCcCode : FCc → BitVec 3
  | .eq => 0
  | .ne => 1
  | .lt => 2
  | .le => 3
  | .gt => 4
  | .ge => 5
  | .un => 6
  | .ord => 7

/-- FCc of a code; none where X is reserved. -/
def fCcOf (x : BitVec 3) : Option FCc :=
  match x.toNat with
  | 0 => some .eq
  | 1 => some .ne
  | 2 => some .lt
  | 3 => some .le
  | 4 => some .gt
  | 5 => some .ge
  | 6 => some .un
  | 7 => some .ord
  | _ => none

/-- The code of LdW. -/
def ldWCode : LdW → BitVec 3
  | .b8 => 0
  | .i8 => 1
  | .b16 => 2
  | .i16 => 3
  | .b32 => 4
  | .b64 => 5
  | .b128 => 6

/-- LdW of a code; none where X is reserved. -/
def ldWOf (x : BitVec 3) : Option LdW :=
  match x.toNat with
  | 0 => some .b8
  | 1 => some .i8
  | 2 => some .b16
  | 3 => some .i16
  | 4 => some .b32
  | 5 => some .b64
  | 6 => some .b128
  | _ => none

/-- The code of StW. -/
def stWCode : StW → BitVec 3
  | .b8 => 0
  | .b16 => 2
  | .b32 => 4
  | .b64 => 5
  | .b128 => 6

/-- StW of a code; none where X is reserved. -/
def stWOf (x : BitVec 3) : Option StW :=
  match x.toNat with
  | 0 => some .b8
  | 2 => some .b16
  | 4 => some .b32
  | 5 => some .b64
  | 6 => some .b128
  | _ => none

/-- The code of McX. -/
def mcXCode : McX → BitVec 3
  | .sp => 0
  | .ob => 1

/-- McX of a code; none where X is reserved. -/
def mcXOf (x : BitVec 3) : Option McX :=
  match x.toNat with
  | 0 => some .sp
  | 1 => some .ob
  | _ => none

/-- The code of WaX. -/
def waXCode : WaX → BitVec 3
  | .eq => 0
  | .ne => 1
  | .lt => 2
  | .ge => 3

/-- WaX of a code; none where X is reserved. -/
def waXOf (x : BitVec 3) : Option WaX :=
  match x.toNat with
  | 0 => some .eq
  | 1 => some .ne
  | 2 => some .lt
  | 3 => some .ge
  | _ => none

/-- The code of StopX. -/
def stopXCode : StopX → BitVec 3
  | .workgroup => 0
  | .gang => 1

/-- StopX of a code; none where X is reserved. -/
def stopXOf (x : BitVec 3) : Option StopX :=
  match x.toNat with
  | 0 => some .workgroup
  | 1 => some .gang
  | _ => none

/-- Group 000, control and rejoin. -/
def decodeGroup0 (w : W64) (low : Nat) : Except DecodeError Instr :=
  match low with
  | 0x00 =>
    match (xOf w).toNat with
    | 0 => .ok (.nop (hdrOf w) (r4Of w))
    | _ => .error .reservedX
  | 0x01 =>
    match (xOf w).toNat with
    | 0 => .ok (.bra (hdrOf w) (i22Of w))
    | _ => .error .reservedX
  | 0x02 =>
    match (xOf w).toNat with
    | 0 => .ok (.brx (hdrOf w) (r4Of w))
    | _ => .error .reservedX
  | 0x03 =>
    match (xOf w).toNat with
    | 0 => .ok (.call (hdrOf w) (i22Of w))
    | _ => .error .reservedX
  | 0x04 =>
    match (xOf w).toNat with
    | 0 => .ok (.callx (hdrOf w) (r4Of w))
    | _ => .error .reservedX
  | 0x05 =>
    match (xOf w).toNat with
    | 0 => .ok (.ret (hdrOf w) (r4Of w))
    | _ => .error .reservedX
  | 0x06 =>
    match (xOf w).toNat with
    | 0 => .ok (.exit (hdrOf w) (r4Of w))
    | _ => .error .reservedX
  | 0x07 =>
    match (xOf w).toNat with
    | 0 => .ok (.yield (hdrOf w) (r4Of w))
    | _ => .error .reservedX
  | 0x08 =>
    match (xOf w).toNat with
    | 0 => .ok (.jenter (hdrOf w) (rmOf w))
    | _ => .error .reservedX
  | 0x09 =>
    match (xOf w).toNat with
    | 0 => .ok (.jquit (hdrOf w) (rmOf w))
    | _ => .error .reservedX
  | 0x0A =>
    match (xOf w).toNat with
    | 0 => .ok (.jwait (hdrOf w) (rmOf w))
    | _ => .error .reservedX
  | 0x0B =>
    match (xOf w).toNat with
    | 0 => .ok (.jsave (hdrOf w) (rmOf w))
    | _ => .error .reservedX
  | 0x0C =>
    match (xOf w).toNat with
    | 0 => .ok (.jrestore (hdrOf w) (rmOf w))
    | _ => .error .reservedX
  | 0x0D =>
    match (xOf w).toNat with
    | 0 => .ok (.jread (hdrOf w) (rmOf w))
    | _ => .error .reservedX
  | _ => .error .unassignedOpcode

/-- Group 001, integer and scalar. -/
def decodeGroup1 (w : W64) (low : Nat) : Except DecodeError Instr :=
  match low with
  | 0x00 => withX (wdOf (xOf w)) fun x => .mov (hdrOf w) x (r4Of w)
  | 0x01 => withX (addXOf (xOf w)) fun x => .iadd (hdrOf w) x (r4Of w)
  | 0x02 => withX (addXOf (xOf w)) fun x => .isub (hdrOf w) x (r4Of w)
  | 0x03 => withX (wdOf (xOf w)) fun x => .iaddi (hdrOf w) x (i22Of w)
  | 0x04 => withX (mulXOf (xOf w)) fun x => .imul (hdrOf w) x (r4Of w)
  | 0x05 => withX (madXOf (xOf w)) fun x => .imad (hdrOf w) x (r4Of w)
  | 0x06 => withX (minXOf (xOf w)) fun x => .imin (hdrOf w) x (r4Of w)
  | 0x07 => withX (minXOf (xOf w)) fun x => .imax (hdrOf w) x (r4Of w)
  | 0x08 =>
    match (xOf w).toNat with
    | 0 => .ok (.shl (hdrOf w) (r4Of w))
    | 1 => .ok (.shr (hdrOf w) (r4Of w))
    | 2 => .ok (.sar (hdrOf w) (r4Of w))
    | 3 => .ok (.rol (hdrOf w) (r4Of w))
    | 4 => .ok (.ror (hdrOf w) (r4Of w))
    | _ => .error .reservedX
  | 0x09 =>
    match (xOf w).toNat with
    | 0 => .ok (.fshL (hdrOf w) (r4Of w))
    | 1 => .ok (.fshR (hdrOf w) (r4Of w))
    | _ => .error .reservedX
  | 0x0A =>
    match (xOf w).toNat with
    | 0 => .ok (.andB (hdrOf w) (r4Of w))
    | 1 => .ok (.orB (hdrOf w) (r4Of w))
    | 2 => .ok (.xorB (hdrOf w) (r4Of w))
    | 3 => .ok (.andnB (hdrOf w) (r4Of w))
    | 4 => .ok (.ornB (hdrOf w) (r4Of w))
    | 5 => .ok (.xnorB (hdrOf w) (r4Of w))
    | 6 => .ok (.notB (hdrOf w) (r4Of w))
    | _ => .error .reservedX
  | 0x0B =>
    match (xOf w).toNat with
    | 0 => .ok (.clz (hdrOf w) (r4Of w))
    | 1 => .ok (.popc (hdrOf w) (r4Of w))
    | 2 => .ok (.brev (hdrOf w) (r4Of w))
    | _ => .error .reservedX
  | 0x0C => withX (extOf (xOf w)) fun x => .bfe (hdrOf w) x (r4Of w)
  | 0x0D =>
    match (xOf w).toNat with
    | 0 => .ok (.bfi (hdrOf w) (r4Of w))
    | _ => .error .reservedX
  | 0x0E => withX (ccOf (xOf w)) fun x => .icmp (hdrOf w) x (rmOf w)
  | 0x0F => withX (wdOf (xOf w)) fun x => .sel (hdrOf w) x (r4Of w)
  | 0x10 =>
    match (xOf w).toNat with
    | 0 => .ok (.pand (hdrOf w) (r4Of w))
    | 1 => .ok (.por (hdrOf w) (r4Of w))
    | 2 => .ok (.pxor (hdrOf w) (r4Of w))
    | 3 => .ok (.pandn (hdrOf w) (r4Of w))
    | 4 => .ok (.pnot (hdrOf w) (r4Of w))
    | _ => .error .reservedX
  | 0x11 => withX (idxXOf (xOf w)) fun x => .lea (hdrOf w) x (rmOf w)
  | 0x12 =>
    match (xOf w).toNat with
    | 0 => .ok (.ptov (hdrOf w) (r4Of w))
    | 1 => .ok (.vtop (hdrOf w) (r4Of w))
    | _ => .error .reservedX
  | 0x13 => withX (wdOf (xOf w)) fun x => .movi (hdrOf w) x (i22Of w)
  | _ => .error .unassignedOpcode

/-- Group 010, floating point. -/
def decodeGroup2 (w : W64) (low : Nat) : Except DecodeError Instr :=
  match low with
  | 0x00 => withX (rndOf (xOf w)) fun x => .faddF32 (hdrOf w) x (rmOf w)
  | 0x01 => withX (rndOf (xOf w)) fun x => .faddF64 (hdrOf w) x (rmOf w)
  | 0x02 => withX (rndOf (xOf w)) fun x => .faddF16 (hdrOf w) x (rmOf w)
  | 0x03 => withX (rndOf (xOf w)) fun x => .faddBf16 (hdrOf w) x (rmOf w)
  | 0x04 => withX (rndOf (xOf w)) fun x => .fmulF32 (hdrOf w) x (rmOf w)
  | 0x05 => withX (rndOf (xOf w)) fun x => .fmulF64 (hdrOf w) x (rmOf w)
  | 0x06 => withX (rndOf (xOf w)) fun x => .fmulF16 (hdrOf w) x (rmOf w)
  | 0x07 => withX (rndOf (xOf w)) fun x => .fmulBf16 (hdrOf w) x (rmOf w)
  | 0x08 => withX (rndOf (xOf w)) fun x => .fmaF32 (hdrOf w) x (r4Of w)
  | 0x09 => withX (rndOf (xOf w)) fun x => .fmaF64 (hdrOf w) x (r4Of w)
  | 0x0A => withX (rndOf (xOf w)) fun x => .fmaF16 (hdrOf w) x (r4Of w)
  | 0x0B => withX (rndOf (xOf w)) fun x => .fmaBf16 (hdrOf w) x (r4Of w)
  | 0x0C =>
    match (xOf w).toNat with
    | 0 => .ok (.fminF32 (hdrOf w) (r4Of w))
    | 1 => .ok (.fmaxF32 (hdrOf w) (r4Of w))
    | _ => .error .reservedX
  | 0x0D =>
    match (xOf w).toNat with
    | 0 => .ok (.fminF64 (hdrOf w) (r4Of w))
    | 1 => .ok (.fmaxF64 (hdrOf w) (r4Of w))
    | _ => .error .reservedX
  | 0x0E =>
    match (xOf w).toNat with
    | 0 => .ok (.fminF16 (hdrOf w) (r4Of w))
    | 1 => .ok (.fmaxF16 (hdrOf w) (r4Of w))
    | _ => .error .reservedX
  | 0x0F =>
    match (xOf w).toNat with
    | 0 => .ok (.fminBf16 (hdrOf w) (r4Of w))
    | 1 => .ok (.fmaxBf16 (hdrOf w) (r4Of w))
    | _ => .error .reservedX
  | 0x10 => withX (fCcOf (xOf w)) fun x => .fcmpF32 (hdrOf w) x (r4Of w)
  | 0x11 => withX (fCcOf (xOf w)) fun x => .fcmpF64 (hdrOf w) x (r4Of w)
  | 0x12 => withX (fCcOf (xOf w)) fun x => .fcmpF16 (hdrOf w) x (r4Of w)
  | 0x13 => withX (fCcOf (xOf w)) fun x => .fcmpBf16 (hdrOf w) x (r4Of w)
  | 0x14 =>
    match (xOf w).toNat with
    | 0 => .ok (.frcpF32 (hdrOf w) (r4Of w))
    | 1 => .ok (.fsqrtF32 (hdrOf w) (r4Of w))
    | 2 => .ok (.frsqF32 (hdrOf w) (r4Of w))
    | 3 => .ok (.fexp2F32 (hdrOf w) (r4Of w))
    | 4 => .ok (.flog2F32 (hdrOf w) (r4Of w))
    | 5 => .ok (.fsinF32 (hdrOf w) (r4Of w))
    | 6 => .ok (.fcosF32 (hdrOf w) (r4Of w))
    | 7 => .ok (.ftanhF32 (hdrOf w) (r4Of w))
    | _ => .error .reservedX
  | 0x15 =>
    match (xOf w).toNat with
    | 0 => .ok (.frcpF64 (hdrOf w) (r4Of w))
    | 1 => .ok (.fsqrtF64 (hdrOf w) (r4Of w))
    | 2 => .ok (.frsqF64 (hdrOf w) (r4Of w))
    | _ => .error .reservedX
  | 0x16 => withX (rndOf (xOf w)) fun x => .faddiF32 (hdrOf w) x (i20Of w)
  | 0x17 => withX (rndOf (xOf w)) fun x => .fmuliF32 (hdrOf w) x (i20Of w)
  | 0x18 => withX (rndOf (xOf w)) fun x => .fmaiF32 (hdrOf w) x (i20Of w)
  | 0x19 =>
    match (xOf w).toNat with
    | 0 => .ok (.fmoviF32 (hdrOf w) (i20Of w))
    | _ => .error .reservedX
  | _ => .error .unassignedOpcode

/-- Group 011, conversion and cross-lane. -/
def decodeGroup3 (w : W64) (low : Nat) : Except DecodeError Instr :=
  match low with
  | 0x00 => withX (rndOf (xOf w)) fun x => .cvt (hdrOf w) x (cvOf w)
  | 0x01 => withX (rndOf (xOf w)) fun x => .bpack (hdrOf w) x (rmOf w)
  | 0x02 =>
    match (xOf w).toNat with
    | 0 => .ok (.bunpk (hdrOf w) (rmOf w))
    | _ => .error .reservedX
  | 0x03 =>
    match (xOf w).toNat with
    | 0 => .ok (.xpatld (hdrOf w) (rmOf w))
    | _ => .error .reservedX
  | 0x04 =>
    match (xOf w).toNat with
    | 0 => .ok (.xperm (hdrOf w) (rmOf w))
    | _ => .error .reservedX
  | 0x05 =>
    match (xOf w).toNat with
    | 0 => .ok (.shflIdx (hdrOf w) (r4Of w))
    | 1 => .ok (.shflUp (hdrOf w) (r4Of w))
    | 2 => .ok (.shflDown (hdrOf w) (r4Of w))
    | 3 => .ok (.shflXor (hdrOf w) (r4Of w))
    | _ => .error .reservedX
  | 0x06 => withX (wdOf (xOf w)) fun x => .bcast (hdrOf w) x (r4Of w)
  | 0x07 =>
    match (xOf w).toNat with
    | 0 => .ok (.ballot (hdrOf w) (r4Of w))
    | _ => .error .operandX
  | 0x08 =>
    match (xOf w).toNat with
    | 0 => .ok (.redAdd (hdrOf w) (rmOf w))
    | 1 => .ok (.redMin (hdrOf w) (rmOf w))
    | 2 => .ok (.redMax (hdrOf w) (rmOf w))
    | 3 => .ok (.redAnd (hdrOf w) (rmOf w))
    | 4 => .ok (.redOr (hdrOf w) (rmOf w))
    | 5 => .ok (.redXor (hdrOf w) (rmOf w))
    | _ => .error .reservedX
  | 0x09 =>
    match (xOf w).toNat with
    | 0 => .ok (.fredAdd (hdrOf w) (rmOf w))
    | 1 => .ok (.fredMin (hdrOf w) (rmOf w))
    | 2 => .ok (.fredMax (hdrOf w) (rmOf w))
    | _ => .error .reservedX
  | 0x0A =>
    match (xOf w).toNat with
    | 0 => .ok (.scanAdd (hdrOf w) (rmOf w))
    | 1 => .ok (.scanXadd (hdrOf w) (rmOf w))
    | 2 => .ok (.scanMax (hdrOf w) (rmOf w))
    | 3 => .ok (.scanMin (hdrOf w) (rmOf w))
    | _ => .error .reservedX
  | 0x0B =>
    match (xOf w).toNat with
    | 0 => .ok (.voteAny (hdrOf w) (r4Of w))
    | 1 => .ok (.voteAll (hdrOf w) (r4Of w))
    | 2 => .ok (.voteUni (hdrOf w) (r4Of w))
    | _ => .error .operandX
  | _ => .error .unassignedOpcode

/-- Group 100, memory. -/
def decodeGroup4 (w : W64) (low : Nat) : Except DecodeError Instr :=
  match low with
  | 0x00 => withX (ldWOf (xOf w)) fun x => .ldG (hdrOf w) x (r4Of w)
  | 0x01 => withX (ldWOf (xOf w)) fun x => .ldSp (hdrOf w) x (r4Of w)
  | 0x02 => withX (ldWOf (xOf w)) fun x => .ldOb (hdrOf w) x (r4Of w)
  | 0x03 => withX (ldWOf (xOf w)) fun x => .ldMs (hdrOf w) x (r4Of w)
  | 0x04 => withX (stWOf (xOf w)) fun x => .stG (hdrOf w) x (r4Of w)
  | 0x05 => withX (stWOf (xOf w)) fun x => .stSp (hdrOf w) x (r4Of w)
  | 0x06 => withX (stWOf (xOf w)) fun x => .stOb (hdrOf w) x (r4Of w)
  | 0x07 => withX (stWOf (xOf w)) fun x => .stMs (hdrOf w) x (r4Of w)
  | 0x08 =>
    match (xOf w).toNat with
    | 0 => .ok (.stuG (hdrOf w) (r4Of w))
    | _ => .error .reservedX
  | 0x09 =>
    match (xOf w).toNat with
    | 0 => .ok (.stuSp (hdrOf w) (r4Of w))
    | _ => .error .reservedX
  | 0x0A => withX (mcXOf (xOf w)) fun x => .ldmc (hdrOf w) x (r4Of w)
  | 0x0B =>
    match (xOf w).toNat with
    | 0 => .ok (.prefL1 (hdrOf w) (r4Of w))
    | 1 => .ok (.prefL2 (hdrOf w) (r4Of w))
    | _ => .error .reservedX
  | 0x0C =>
    match (xOf w).toNat with
    | 0 => .ok (.residKeep (hdrOf w) (r4Of w))
    | 1 => .ok (.residNorm (hdrOf w) (r4Of w))
    | _ => .error .reservedX
  | 0x0D =>
    match (xOf w).toNat with
    | 0 => .ok (.banksw (hdrOf w) (r4Of w))
    | _ => .error .reservedX
  | _ => .error .unassignedOpcode

/-- Group 101, atomics and synchronisation. -/
def decodeGroup5 (w : W64) (low : Nat) : Except DecodeError Instr :=
  match low with
  | 0x00 =>
    match (xOf w).toNat with
    | 0 => .ok (.atomGAdd (hdrOf w) (rmOf w))
    | 1 => .ok (.atomGMin (hdrOf w) (rmOf w))
    | 2 => .ok (.atomGMax (hdrOf w) (rmOf w))
    | 3 => .ok (.atomGAnd (hdrOf w) (rmOf w))
    | 4 => .ok (.atomGOr (hdrOf w) (rmOf w))
    | 5 => .ok (.atomGXor (hdrOf w) (rmOf w))
    | 6 => .ok (.atomGExch (hdrOf w) (rmOf w))
    | 7 => .ok (.atomGCas (hdrOf w) (rmOf w))
    | _ => .error .reservedX
  | 0x01 =>
    match (xOf w).toNat with
    | 0 => .ok (.atomSpAdd (hdrOf w) (rmOf w))
    | 1 => .ok (.atomSpMin (hdrOf w) (rmOf w))
    | 2 => .ok (.atomSpMax (hdrOf w) (rmOf w))
    | 3 => .ok (.atomSpAnd (hdrOf w) (rmOf w))
    | 4 => .ok (.atomSpOr (hdrOf w) (rmOf w))
    | 5 => .ok (.atomSpXor (hdrOf w) (rmOf w))
    | 6 => .ok (.atomSpExch (hdrOf w) (rmOf w))
    | 7 => .ok (.atomSpCas (hdrOf w) (rmOf w))
    | _ => .error .reservedX
  | 0x02 =>
    match (xOf w).toNat with
    | 0 => .ok (.fenceRel (hdrOf w) (rmOf w))
    | 1 => .ok (.fenceAcq (hdrOf w) (rmOf w))
    | 2 => .ok (.fenceAr (hdrOf w) (rmOf w))
    | _ => .error .reservedX
  | 0x03 =>
    match (xOf w).toNat with
    | 0 => .ok (.fenceX (hdrOf w) (rmOf w))
    | _ => .error .reservedX
  | 0x04 =>
    match (xOf w).toNat with
    | 0 => .ok (.bind (hdrOf w) (r4Of w))
    | _ => .error .reservedX
  | 0x05 =>
    match (xOf w).toNat with
    | 0 => .ok (.unbind (hdrOf w) (r4Of w))
    | _ => .error .reservedX
  | 0x06 =>
    match (xOf w).toNat with
    | 0 => .ok (.acq (hdrOf w) (r4Of w))
    | _ => .error .reservedX
  | 0x07 =>
    match (xOf w).toNat with
    | 0 => .ok (.relSet (hdrOf w) (r4Of w))
    | 1 => .ok (.relAdd (hdrOf w) (r4Of w))
    | 2 => .ok (.relSub (hdrOf w) (r4Of w))
    | _ => .error .reservedX
  | 0x08 => withX (waXOf (xOf w)) fun x => .waita (hdrOf w) x (rmOf w)
  | 0x09 =>
    match (xOf w).toNat with
    | 0 => .ok (.barArv (hdrOf w) (r4Of w))
    | 1 => .ok (.barWait (hdrOf w) (r4Of w))
    | 2 => .ok (.barSync (hdrOf w) (r4Of w))
    | _ => .error .reservedX
  | _ => .error .unassignedOpcode

/-- Group 110, engine commands. -/
def decodeGroup6 (w : W64) (low : Nat) : Except DecodeError Instr :=
  match low with
  | 0x00 =>
    match (xOf w).toNat with
    | 0 => .ok (.obres (hdrOf w) (rmOf w))
    | _ => .error .reservedX
  | 0x01 =>
    match (xOf w).toNat with
    | 0 => .ok (.obfree (hdrOf w) (rmOf w))
    | _ => .error .reservedX
  | 0x02 =>
    match (xOf w).toNat with
    | 0 => .ok (.mma (hdrOf w) (r4Of w))
    | _ => .error .reservedX
  | 0x03 => withX (wdOf (xOf w)) fun x => .msmld (hdrOf w) x (r4Of w)
  | 0x04 => withX (wdOf (xOf w)) fun x => .msmst (hdrOf w) x (r4Of w)
  | 0x06 =>
    match (xOf w).toNat with
    | 0 => .ok (.bondAcq (hdrOf w) (rmOf w))
    | _ => .error .reservedX
  | 0x07 =>
    match (xOf w).toNat with
    | 0 => .ok (.bondRel (hdrOf w) (r4Of w))
    | _ => .error .reservedX
  | 0x08 =>
    match (xOf w).toNat with
    | 0 => .ok (.cpy (hdrOf w) (r4Of w))
    | _ => .error .reservedX
  | 0x09 =>
    match (xOf w).toNat with
    | 0 => .ok (.swdecl (hdrOf w) (r4Of w))
    | _ => .error .reservedX
  | 0x0A =>
    match (xOf w).toNat with
    | 0 => .ok (.swstart (hdrOf w) (r4Of w))
    | _ => .error .reservedX
  | 0x0B =>
    match (xOf w).toNat with
    | 0 => .ok (.swpull (hdrOf w) (r4Of w))
    | _ => .error .reservedX
  | 0x0C =>
    match (xOf w).toNat with
    | 0 => .ok (.swpark (hdrOf w) (r4Of w))
    | _ => .error .reservedX
  | 0x0D =>
    match (xOf w).toNat with
    | 0 => .ok (.swdone (hdrOf w) (r4Of w))
    | _ => .error .reservedX
  | 0x0E =>
    match (xOf w).toNat with
    | 0 => .ok (.swkeep (hdrOf w) (r4Of w))
    | _ => .error .reservedX
  | 0x0F =>
    match (xOf w).toNat with
    | 0 => .ok (.swwake (hdrOf w) (r4Of w))
    | _ => .error .reservedX
  | 0x10 =>
    match (xOf w).toNat with
    | 0 => .ok (.swstat (hdrOf w) (r4Of w))
    | _ => .error .reservedX
  | 0x11 =>
    match (xOf w).toNat with
    | 0 => .ok (.lxfer (hdrOf w) (r4Of w))
    | _ => .error .reservedX
  | _ => .error .unassignedOpcode

/-- Group 111, system and trap. -/
def decodeGroup7 (w : W64) (low : Nat) : Except DecodeError Instr :=
  match low with
  | 0x00 =>
    match (xOf w).toNat with
    | 0 => .ok (.trap (hdrOf w) (i22Of w))
    | _ => .error .reservedX
  | 0x01 =>
    match (xOf w).toNat with
    | 0 => .ok (.tret (hdrOf w) (r4Of w))
    | _ => .error .reservedX
  | 0x02 =>
    match (xOf w).toNat with
    | 0 => .ok (.sysr (hdrOf w) (r4Of w))
    | _ => .error .reservedX
  | 0x03 =>
    match (xOf w).toNat with
    | 0 => .ok (.sysw (hdrOf w) (r4Of w))
    | _ => .error .reservedX
  | 0x04 =>
    match (xOf w).toNat with
    | 0 => .ok (.clock (hdrOf w) (r4Of w))
    | _ => .error .reservedX
  | 0x08 => withX (wdOf (xOf w)) fun x => .pld (hdrOf w) x (r4Of w)
  | 0x09 => withX (wdOf (xOf w)) fun x => .pst (hdrOf w) x (r4Of w)
  | 0x0A =>
    match (xOf w).toNat with
    | 0 => .ok (.msix (hdrOf w) (r4Of w))
    | _ => .error .reservedX
  | 0x0B =>
    match (xOf w).toNat with
    | 0 => .ok (.grel (hdrOf w) (r4Of w))
    | _ => .error .reservedX
  | 0x0C => withX (stopXOf (xOf w)) fun x => .gstop (hdrOf w) x (r4Of w)
  | 0x0D =>
    match (xOf w).toNat with
    | 0 => .ok (.gsave (hdrOf w) (r4Of w))
    | _ => .error .reservedX
  | 0x0E =>
    match (xOf w).toNat with
    | 0 => .ok (.grest (hdrOf w) (r4Of w))
    | _ => .error .reservedX
  | _ => .error .unassignedOpcode

/-- The instruction a 64-bit word stands for, by the opcode map (R339 to R347). -/
def decode (w : W64) : Except DecodeError Instr :=
  let op := (opOf w).toNat
  match op / 32 with
  | 0 => decodeGroup0 w (op % 32)
  | 1 => decodeGroup1 w (op % 32)
  | 2 => decodeGroup2 w (op % 32)
  | 3 => decodeGroup3 w (op % 32)
  | 4 => decodeGroup4 w (op % 32)
  | 5 => decodeGroup5 w (op % 32)
  | 6 => decodeGroup6 w (op % 32)
  | _ => decodeGroup7 w (op % 32)

/-- The word of an instruction; an event has none. -/
def encode : Instr → Option W64
  | .nop h o => some (r4Word 0x00 h 0 o)
  | .bra h o => some (i22Word 0x01 h 0 o)
  | .brx h o => some (r4Word 0x02 h 0 o)
  | .call h o => some (i22Word 0x03 h 0 o)
  | .callx h o => some (r4Word 0x04 h 0 o)
  | .ret h o => some (r4Word 0x05 h 0 o)
  | .exit h o => some (r4Word 0x06 h 0 o)
  | .yield h o => some (r4Word 0x07 h 0 o)
  | .jenter h o => some (rmWord 0x08 h 0 o)
  | .jquit h o => some (rmWord 0x09 h 0 o)
  | .jwait h o => some (rmWord 0x0A h 0 o)
  | .jsave h o => some (rmWord 0x0B h 0 o)
  | .jrestore h o => some (rmWord 0x0C h 0 o)
  | .jread h o => some (rmWord 0x0D h 0 o)
  | .mov h x o => some (r4Word 0x20 h (wdCode x) o)
  | .movi h x o => some (i22Word 0x33 h (wdCode x) o)
  | .sel h x o => some (r4Word 0x2F h (wdCode x) o)
  | .iadd h x o => some (r4Word 0x21 h (addXCode x) o)
  | .isub h x o => some (r4Word 0x22 h (addXCode x) o)
  | .iaddi h x o => some (i22Word 0x23 h (wdCode x) o)
  | .imul h x o => some (r4Word 0x24 h (mulXCode x) o)
  | .imad h x o => some (r4Word 0x25 h (madXCode x) o)
  | .imin h x o => some (r4Word 0x26 h (minXCode x) o)
  | .imax h x o => some (r4Word 0x27 h (minXCode x) o)
  | .shl h o => some (r4Word 0x28 h 0 o)
  | .shr h o => some (r4Word 0x28 h 1 o)
  | .sar h o => some (r4Word 0x28 h 2 o)
  | .rol h o => some (r4Word 0x28 h 3 o)
  | .ror h o => some (r4Word 0x28 h 4 o)
  | .fshL h o => some (r4Word 0x29 h 0 o)
  | .fshR h o => some (r4Word 0x29 h 1 o)
  | .andB h o => some (r4Word 0x2A h 0 o)
  | .orB h o => some (r4Word 0x2A h 1 o)
  | .xorB h o => some (r4Word 0x2A h 2 o)
  | .andnB h o => some (r4Word 0x2A h 3 o)
  | .ornB h o => some (r4Word 0x2A h 4 o)
  | .xnorB h o => some (r4Word 0x2A h 5 o)
  | .notB h o => some (r4Word 0x2A h 6 o)
  | .clz h o => some (r4Word 0x2B h 0 o)
  | .popc h o => some (r4Word 0x2B h 1 o)
  | .brev h o => some (r4Word 0x2B h 2 o)
  | .bfe h x o => some (r4Word 0x2C h (extCode x) o)
  | .bfi h o => some (r4Word 0x2D h 0 o)
  | .icmp h x o => some (rmWord 0x2E h (ccCode x) o)
  | .pand h o => some (r4Word 0x30 h 0 o)
  | .por h o => some (r4Word 0x30 h 1 o)
  | .pxor h o => some (r4Word 0x30 h 2 o)
  | .pandn h o => some (r4Word 0x30 h 3 o)
  | .pnot h o => some (r4Word 0x30 h 4 o)
  | .ptov h o => some (r4Word 0x32 h 0 o)
  | .vtop h o => some (r4Word 0x32 h 1 o)
  | .lea h x o => some (rmWord 0x31 h (idxXCode x) o)
  | .faddF32 h x o => some (rmWord 0x40 h (rndCode x) o)
  | .faddF64 h x o => some (rmWord 0x41 h (rndCode x) o)
  | .faddF16 h x o => some (rmWord 0x42 h (rndCode x) o)
  | .faddBf16 h x o => some (rmWord 0x43 h (rndCode x) o)
  | .fmulF32 h x o => some (rmWord 0x44 h (rndCode x) o)
  | .fmulF64 h x o => some (rmWord 0x45 h (rndCode x) o)
  | .fmulF16 h x o => some (rmWord 0x46 h (rndCode x) o)
  | .fmulBf16 h x o => some (rmWord 0x47 h (rndCode x) o)
  | .fmaF32 h x o => some (r4Word 0x48 h (rndCode x) o)
  | .fmaF64 h x o => some (r4Word 0x49 h (rndCode x) o)
  | .fmaF16 h x o => some (r4Word 0x4A h (rndCode x) o)
  | .fmaBf16 h x o => some (r4Word 0x4B h (rndCode x) o)
  | .fminF32 h o => some (r4Word 0x4C h 0 o)
  | .fminF64 h o => some (r4Word 0x4D h 0 o)
  | .fminF16 h o => some (r4Word 0x4E h 0 o)
  | .fminBf16 h o => some (r4Word 0x4F h 0 o)
  | .fmaxF32 h o => some (r4Word 0x4C h 1 o)
  | .fmaxF64 h o => some (r4Word 0x4D h 1 o)
  | .fmaxF16 h o => some (r4Word 0x4E h 1 o)
  | .fmaxBf16 h o => some (r4Word 0x4F h 1 o)
  | .fcmpF32 h x o => some (r4Word 0x50 h (fCcCode x) o)
  | .fcmpF64 h x o => some (r4Word 0x51 h (fCcCode x) o)
  | .fcmpF16 h x o => some (r4Word 0x52 h (fCcCode x) o)
  | .fcmpBf16 h x o => some (r4Word 0x53 h (fCcCode x) o)
  | .frcpF32 h o => some (r4Word 0x54 h 0 o)
  | .fsqrtF32 h o => some (r4Word 0x54 h 1 o)
  | .frsqF32 h o => some (r4Word 0x54 h 2 o)
  | .fexp2F32 h o => some (r4Word 0x54 h 3 o)
  | .flog2F32 h o => some (r4Word 0x54 h 4 o)
  | .fsinF32 h o => some (r4Word 0x54 h 5 o)
  | .fcosF32 h o => some (r4Word 0x54 h 6 o)
  | .ftanhF32 h o => some (r4Word 0x54 h 7 o)
  | .frcpF64 h o => some (r4Word 0x55 h 0 o)
  | .fsqrtF64 h o => some (r4Word 0x55 h 1 o)
  | .frsqF64 h o => some (r4Word 0x55 h 2 o)
  | .faddiF32 h x o => some (i20Word 0x56 h (rndCode x) o)
  | .fmuliF32 h x o => some (i20Word 0x57 h (rndCode x) o)
  | .fmaiF32 h x o => some (i20Word 0x58 h (rndCode x) o)
  | .fmoviF32 h o => some (i20Word 0x59 h 0 o)
  | .cvt h x o => some (cvWord 0x60 h (rndCode x) o)
  | .bpack h x o => some (rmWord 0x61 h (rndCode x) o)
  | .bunpk h o => some (rmWord 0x62 h 0 o)
  | .xpatld h o => some (rmWord 0x63 h 0 o)
  | .xperm h o => some (rmWord 0x64 h 0 o)
  | .shflIdx h o => some (r4Word 0x65 h 0 o)
  | .shflUp h o => some (r4Word 0x65 h 1 o)
  | .shflDown h o => some (r4Word 0x65 h 2 o)
  | .shflXor h o => some (r4Word 0x65 h 3 o)
  | .bcast h x o => some (r4Word 0x66 h (wdCode x) o)
  | .ballot h o => some (r4Word 0x67 h 0 o)
  | .voteAny h o => some (r4Word 0x6B h 0 o)
  | .voteAll h o => some (r4Word 0x6B h 1 o)
  | .voteUni h o => some (r4Word 0x6B h 2 o)
  | .redAdd h o => some (rmWord 0x68 h 0 o)
  | .redMin h o => some (rmWord 0x68 h 1 o)
  | .redMax h o => some (rmWord 0x68 h 2 o)
  | .redAnd h o => some (rmWord 0x68 h 3 o)
  | .redOr h o => some (rmWord 0x68 h 4 o)
  | .redXor h o => some (rmWord 0x68 h 5 o)
  | .fredAdd h o => some (rmWord 0x69 h 0 o)
  | .fredMin h o => some (rmWord 0x69 h 1 o)
  | .fredMax h o => some (rmWord 0x69 h 2 o)
  | .scanAdd h o => some (rmWord 0x6A h 0 o)
  | .scanXadd h o => some (rmWord 0x6A h 1 o)
  | .scanMax h o => some (rmWord 0x6A h 2 o)
  | .scanMin h o => some (rmWord 0x6A h 3 o)
  | .ldG h x o => some (r4Word 0x80 h (ldWCode x) o)
  | .ldSp h x o => some (r4Word 0x81 h (ldWCode x) o)
  | .ldOb h x o => some (r4Word 0x82 h (ldWCode x) o)
  | .ldMs h x o => some (r4Word 0x83 h (ldWCode x) o)
  | .stG h x o => some (r4Word 0x84 h (stWCode x) o)
  | .stSp h x o => some (r4Word 0x85 h (stWCode x) o)
  | .stOb h x o => some (r4Word 0x86 h (stWCode x) o)
  | .stMs h x o => some (r4Word 0x87 h (stWCode x) o)
  | .stuG h o => some (r4Word 0x88 h 0 o)
  | .stuSp h o => some (r4Word 0x89 h 0 o)
  | .ldmc h x o => some (r4Word 0x8A h (mcXCode x) o)
  | .prefL1 h o => some (r4Word 0x8B h 0 o)
  | .prefL2 h o => some (r4Word 0x8B h 1 o)
  | .residKeep h o => some (r4Word 0x8C h 0 o)
  | .residNorm h o => some (r4Word 0x8C h 1 o)
  | .banksw h o => some (r4Word 0x8D h 0 o)
  | .atomGAdd h o => some (rmWord 0xA0 h 0 o)
  | .atomGMin h o => some (rmWord 0xA0 h 1 o)
  | .atomGMax h o => some (rmWord 0xA0 h 2 o)
  | .atomGAnd h o => some (rmWord 0xA0 h 3 o)
  | .atomGOr h o => some (rmWord 0xA0 h 4 o)
  | .atomGXor h o => some (rmWord 0xA0 h 5 o)
  | .atomGExch h o => some (rmWord 0xA0 h 6 o)
  | .atomGCas h o => some (rmWord 0xA0 h 7 o)
  | .atomSpAdd h o => some (rmWord 0xA1 h 0 o)
  | .atomSpMin h o => some (rmWord 0xA1 h 1 o)
  | .atomSpMax h o => some (rmWord 0xA1 h 2 o)
  | .atomSpAnd h o => some (rmWord 0xA1 h 3 o)
  | .atomSpOr h o => some (rmWord 0xA1 h 4 o)
  | .atomSpXor h o => some (rmWord 0xA1 h 5 o)
  | .atomSpExch h o => some (rmWord 0xA1 h 6 o)
  | .atomSpCas h o => some (rmWord 0xA1 h 7 o)
  | .fenceRel h o => some (rmWord 0xA2 h 0 o)
  | .fenceAcq h o => some (rmWord 0xA2 h 1 o)
  | .fenceAr h o => some (rmWord 0xA2 h 2 o)
  | .fenceX h o => some (rmWord 0xA3 h 0 o)
  | .bind h o => some (r4Word 0xA4 h 0 o)
  | .unbind h o => some (r4Word 0xA5 h 0 o)
  | .acq h o => some (r4Word 0xA6 h 0 o)
  | .relSet h o => some (r4Word 0xA7 h 0 o)
  | .relAdd h o => some (r4Word 0xA7 h 1 o)
  | .relSub h o => some (r4Word 0xA7 h 2 o)
  | .waita h x o => some (rmWord 0xA8 h (waXCode x) o)
  | .barArv h o => some (r4Word 0xA9 h 0 o)
  | .barWait h o => some (r4Word 0xA9 h 1 o)
  | .barSync h o => some (r4Word 0xA9 h 2 o)
  | .obres h o => some (rmWord 0xC0 h 0 o)
  | .obfree h o => some (rmWord 0xC1 h 0 o)
  | .mma h o => some (r4Word 0xC2 h 0 o)
  | .msmld h x o => some (r4Word 0xC3 h (wdCode x) o)
  | .msmst h x o => some (r4Word 0xC4 h (wdCode x) o)
  | .bondAcq h o => some (rmWord 0xC6 h 0 o)
  | .bondRel h o => some (r4Word 0xC7 h 0 o)
  | .cpy h o => some (r4Word 0xC8 h 0 o)
  | .lxfer h o => some (r4Word 0xD1 h 0 o)
  | .swdecl h o => some (r4Word 0xC9 h 0 o)
  | .swstart h o => some (r4Word 0xCA h 0 o)
  | .swpull h o => some (r4Word 0xCB h 0 o)
  | .swpark h o => some (r4Word 0xCC h 0 o)
  | .swdone h o => some (r4Word 0xCD h 0 o)
  | .swkeep h o => some (r4Word 0xCE h 0 o)
  | .swwake h o => some (r4Word 0xCF h 0 o)
  | .swstat h o => some (r4Word 0xD0 h 0 o)
  | .trap h o => some (i22Word 0xE0 h 0 o)
  | .tret h o => some (r4Word 0xE1 h 0 o)
  | .sysr h o => some (r4Word 0xE2 h 0 o)
  | .sysw h o => some (r4Word 0xE3 h 0 o)
  | .clock h o => some (r4Word 0xE4 h 0 o)
  | .pld h x o => some (r4Word 0xE8 h (wdCode x) o)
  | .pst h x o => some (r4Word 0xE9 h (wdCode x) o)
  | .msix h o => some (r4Word 0xEA h 0 o)
  | .grel h o => some (r4Word 0xEB h 0 o)
  | .gstop h x o => some (r4Word 0xEC h (stopXCode x) o)
  | .gsave h o => some (r4Word 0xED h 0 o)
  | .grest h o => some (r4Word 0xEE h 0 o)
  | .coldReset => none
  | .perstDeassert => none
  | .warmReset => none
  | .configRequest => none
  | .warmResetRequest => none
  | .functionResetRequest => none
  | .functionLevelReset => none
  | .functionResetWashEnd => none
  | .thermalShutdown => none
  | .droopDetect => none
  | .voltageFrequencyLoop => none
  | .governorWindow => none
  | .flitReceive => none
  | .nakReceive => none
  | .resendAfterBackoff => none
  | .ackTimer => none
  | .replayTimeout => none
  | .laneLossOfLock => none
  | .portRecoveryComplete => none
  | .portRecoveryTimeout => none
  | .linkEnable => none
  | .linkDisable => none
  | .linkCountersClear => none
  | .registerWrite => none
  | .apercfgWrite => none
  | .hostApertureRead => none
  | .hostApertureWrite => none
  | .featureLock => none
  | .fetchNonce => none
  | .submitRelease => none
  | .ownershipReservedOp => none
  | .createContext => none
  | .destroyContext => none
  | .createQueue => none
  | .destroyQueue => none
  | .registerSignal => none
  | .unregisterSignal => none
  | .setEventRing => none
  | .resetQueue => none
  | .readAttestationQuote => none
  | .checkpointStreamStart => none
  | .checkpointStreamAbort => none
  | .checkpointStreamEnd => none
  | .rangeHold => none
  | .rangeRelease => none
  | .rangeInvalidate => none
  | .migratePage => none
  | .resolveFaultsRetry => none
  | .resolveFaultsFail => none
  | .readCounters => none
  | .mailboxReservedOp => none
  | .mailboxRequestComplete => none
  | .eventConsumerWrite => none
  | .eventLostClear => none
  | .ceCountClear => none
  | .ironctlWrite => none
  | .packetPickup => none
  | .queueScan => none
  | .slotIdleRelease => none
  | .queueEviction => none
  | .suspectedWaitCycle => none
  | .waitSignalTimeout => none
  | .launchPacket => none
  | .copyPacket => none
  | .waitSignalPacket => none
  | .setSignalPacket => none
  | .barrierAndPacket => none
  | .markerPacket => none
  | .headWaitSatisfied => none
  | .agentAccessRetry => none
  | .workgroupClaim => none
  | .gangClaim => none
  | .gangHoldRequest => none
  | .gangHoldAnswer => none
  | .groupRelease => none
  | .headOfLineHold => none
  | .sliceContentionTest => none
  | .stopRequest => none
  | .drainComplete => none
  | .workgroupRetire => none
  | .watchdogHang => none
  | .remotePendingLimit => none
  | .uncorrectableError => none
  | .poisonConsumed => none
  | .killComplete => none
  | .frameWashComplete => none
  | .l2SliceWashComplete => none
  | .ironingTurn => none
  | .ironingScanStart => none
  | .ironingScanComplete => none
  | .pageWalk => none
  | .overflowNakResend => none
  | .l2Eviction => none
  | .multicastWindowClose => none
  | .quarterSelection => none
  | .flagOperationComplete => none
  | .engineNakResend => none
  | .operandTokenReceive => none
  | .operandTokenResend => none
  | .matrixOperationComplete => none
  | .copyCommandComplete => none
  | .linkTransferComplete => none
  | .remoteWakeNotify => none
  | .sweepDecisionNotify => none
  | .stalledWatchReread => none
  | .resumeWordWrite => none
  | .syscallConsWrite => none
  | .bankmodeWrite => none
  | .bankSwitchComplete => none
  | .waitaConditionMet => none
  | .lpc1Write => none
  | .rngvalWrite => none
  | .mxstallClear => none
  | .engnakClear => none
  | .startStepComplete => none
  | .linkTrainingComplete => none
  | .pcieLinkTrained => none
  | .droopEnd => none
  | .powerLoss => none
  | .ownerKeyProvisioning => none

/-- The 64-bit word of eight bytes, lowest address first (R324). -/
def wordOfBytes (bs : List Byte) : W64 := BitVec.ofNat 64 (Machine.ofLeBytes (bs.take 8))

/-- Decode the first instruction of a byte string and give the rest; fewer than eight bytes are no word. -/
def decodeBytes (bs : List Byte) : Option (Except DecodeError Instr × List Byte) :=
  if bs.length < 8 then none else some (decode (wordOfBytes bs), bs.drop 8)

/-- The host's question: the instruction of a table row's word. An instruction is one 64-bit word; bits above the
row's are zero. -/
def decodeTableWord (_nbits w : Nat) : Option Instr :=
  match decodeBytes (Machine.leBytes 8 w) with
  | some (.ok i, _) => some i
  | _ => none

end Sys2Proof
end

