-- ==== Sys2Proof/Config.lean ====
section
/-! DEFINITION. What an implementation fixes and the free values: opaque constants, no body, so that no proof can
see a value of them (assumption log 1). The first argument of each counting free value is State's draw counter. -/

namespace Sys2Proof

/-- A free two-way choice: whether a read of a pending destination sees the result (R221), and the like. -/
opaque Config.freeBool (tick a b : Nat) : Bool

/-- Which of the ports that lead to a peer a physical address takes, from its bits [51:12]: the hash is not stated (R23). -/
opaque Config.portHash (bits : Nat) : Nat

/-- The payload of a request or a response on a link, whose form is not part of the spec (R19). -/
opaque Config.linkPayload (tick : Nat) : List Byte

/-- A free 32-bit word. -/
opaque Config.freeWord (tick a : Nat) : W32

/-- Which of the two adjacent values a faithful special function returns (R398): a function of the function's
number and the input's code, the same on every core. `true` is the value of the larger magnitude. -/
opaque Config.faithfulUp (fn input : Nat) : Bool

/-- The RSA-4096 signature over a digest by the device identity key, which derives from a fused secret (R47). -/
opaque Config.deviceSign (digest : List Byte) : List Byte

/-- The bytes of an attestation log entry (R47): kind, SVN, owner key slot, SHA-512 of the image. Their layout is not part of
the spec. -/
opaque Config.attEntry (kind svn slot : Nat) (digest : List Byte) : List Byte

/-- The body of a quote from the log's entries, H and the nonce, and the quote from its body and signature (R47): layouts
that are not part of the spec. -/
opaque Config.quoteBody (entries : List (List Byte)) (h nonce : List Byte) : List Byte
opaque Config.quoteForm (body sig : List Byte) : List Byte

/-- The L2 set of a line within its slice: the spec does not give the index function (R161). -/
opaque Config.l2Set (asid line : Nat) : Nat

/-- The set of a translation unit's second-level TLB that an entry enters, and the memory controller that owns a 64 KiB
frame: the spec gives neither function (R170, R183). -/
opaque Config.tlbSet (asid vpn bits : Nat) : Nat
opaque Config.controllerOf (frame : Nat) : Nat

/-- The access descriptor of an operand-log entry (R176), of its opcode, space, width, destination, flag, scope and
ordering: its fields' places are not part of the spec. -/
opaque Config.accessDescriptor (fields : List Nat) : Nat

/-- The engine sections of a save record (R118), 1 copy and link, 2 matrix, 3 sweep, from what R114, R267 and R293 put into
them, and the image of the cached map words (R293): layouts that are not part of the spec. -/
opaque Config.engineSection (section_ : Nat) (data : List Nat) : List Byte
opaque Config.mapImage (tick : Nat) (maps : List Byte) : List Byte

/-- The victim way a full set gives up, among the ways that may leave (R164, R424). -/
opaque Config.victim (tick choices : Nat) : Nat

/-- The lowest core voltage, in mV above 600, that supports a cluster's clock of 3.3 GHz·k/16 (R34). -/
opaque Config.coreVoltage (cluster k : Nat) : Nat

end Sys2Proof
end

