-- ==== Sys2Proof/Machine/Sparse.lean ====
section
/-! DEFINITION. Maps from numbers to data as lists in ONE canonical form: keys strictly rising, and, where the map has
a default, no entry equal to it. Memory, register files and every table of the machine are such lists. -/

namespace Sys2Proof.Machine

/-- What a map holds at a key. -/
def sfind {α : Type} : List (Nat × α) → Nat → Option α
  | [], _ => none
  | (j, x) :: m, k => if k = j then some x else sfind m k

/-- The map with a key set. -/
def sset {α : Type} : List (Nat × α) → Nat → α → List (Nat × α)
  | [], k, y => [(k, y)]
  | (j, x) :: m, k, y => if k < j then (k, y) :: (j, x) :: m else if k = j then (k, y) :: m else (j, x) :: sset m k y

/-- The map without a key. -/
def sdel {α : Type} : List (Nat × α) → Nat → List (Nat × α)
  | [], _ => []
  | (j, x) :: m, k => if k = j then sdel m k else (j, x) :: sdel m k

/-- What a map with a default holds at a key. -/
def sget {α : Type} (d : α) (m : List (Nat × α)) (k : Nat) : α := (sfind m k).getD d

/-- The map with a key set; setting the default removes the entry. -/
def sput {α : Type} [DecidableEq α] (d : α) (m : List (Nat × α)) (k : Nat) (y : α) : List (Nat × α) :=
  if y = d then sdel m k else sset m k y

/-- The map with a key changed, if it is there. -/
def smod {α : Type} (m : List (Nat × α)) (k : Nat) (f : α → α) : List (Nat × α) :=
  match sfind m k with
  | none => m
  | some x => sset m k (f x)

/-- Keys strictly rising, all above a bound. -/
def sortedFrom {α : Type} : Nat → List (Nat × α) → Bool
  | _, [] => true
  | b, (j, _) :: m => b ≤ j && sortedFrom (j + 1) m

/-- The canonical form of a map with a default. -/
def swf {α : Type} [DecidableEq α] (d : α) (m : List (Nat × α)) : Bool :=
  sortedFrom 0 m && m.all fun e => decide (e.2 ≠ d)

/-- A sorted set of numbers as a map to Unit. -/
abbrev NatSet := List (Nat × Unit)

def nsHas (s : NatSet) (k : Nat) : Bool := (sfind s k).isSome
def nsAdd (s : NatSet) (k : Nat) : NatSet := sset s k ()
def nsDel (s : NatSet) (k : Nat) : NatSet := sdel s k

end Sys2Proof.Machine
end

