-- ==== Sys2Proof/Machine/State.lean ====
section
/-! DEFINITION. The state of the device as plain data, the reasons a step can stop, and the state after reset. -/

namespace Sys2Proof.Machine

/-- Why the machine stops. -/
inductive Fault where
  /-- Raised by an instruction's meaning where no quarter is issuing a run (State.focus names none): no instruction
  word of the device issues outside a run (R217). The model's own; safe. -/
  | noRun
  deriving DecidableEq, Repr

/-- Why the machine refuses. -/
inductive Refusal where
  /-- Raised by Dispatch for an instruction that has no meaning yet. Safe. -/
  | notModelled (mnemonic : String)
  deriving DecidableEq, Repr

/-! ### Lanes, groups and runs (chapters 07 and 11) -/

/-- A lane's program counter: a byte address and a word position (R322). -/
structure Pc where
  addr : Va
  ofs : Nat
  deriving DecidableEq, Repr

/-- The lane states, in the order of their codes 0 to 5 (R211). -/
inductive LaneSt where
  | unblocked | parked | faultParked | onCall | exited | inactive
  deriving DecidableEq, Repr

/-- One lane: program counter, state, ageing counter, generator state (R311), rewritten mark (R241), and for a
fault-parked lane the flags it waits for, with bit 15 for a clause fetch and bit 16 once that fetch has failed, and the
address at which the fetch faulted (R231). -/
structure Lane where
  pc : Pc
  st : LaneSt
  age : Nat
  gen : W32
  rewritten : Bool
  fpark : Nat
  fva : Nat
  deriving DecidableEq, Repr

/-- A write with fixed latency (R218): a vector register of one lane, a scalar register, a predicate in the lanes of a
mask, a pattern table (R407), a system register (R473), a reservation record (R442; an empty image clears VALID, R443). -/
inductive Wr where
  | v (reg lane : Nat) (x : W32)
  | s (reg : Nat) (x : W32)
  | p (n : Nat) (mask bits : Mask)
  | table (n : Nat) (bytes : List Byte)
  | sys (num : Nat) (x : W32)
  | obrec (n : Nat) (image : List Byte)
  deriving DecidableEq, Repr

/-- The exception a run records: the lowest-slot faulting instruction (R236). -/
structure ExcRec where
  code : Nat
  idx : Nat
  taddr : Nat
  deriving DecidableEq, Repr

/-- How a run came to its end (R217, R319, R363, R469): still going; after an instruction word; by a clause-ending
instruction that moved its own lanes; or held back before the instruction word it stands at. -/
inductive RunEnd where
  | going | after | moved | heldBack
  deriving DecidableEq, Repr

/-- A run in progress in a quarter (R217): its group's slot, its lanes, its clause, the next word, the cycle it has
reached, the fixed-latency writes not yet visible with the cycle each issued in, its exception, how it ends, whether the
last issue attempt stalled, and the number of the system call that ended it. -/
structure Run where
  slot : Nat
  lanes : Mask
  head : Va
  header : W64
  words : List W64
  widx : Nat
  cycle : Nat
  pend : List (Nat × Wr)
  exc : Option ExcRec
  ends : RunEnd
  stalled : Bool
  trapped : Option Nat
  deriving DecidableEq, Repr

/-- What one outstanding variable-latency operation of a group waits for (R219). -/
inductive OpKind where
  /-- A local access, or a global one all of whose lanes have been served. -/
  | access
  /-- A fence: its holds last until it completes (R430). -/
  | fence (rel acq : Bool) (scope : Nat)
  /-- FENCE.X: the second path is held until it completes (R431). -/
  | fenceX (first second : Nat)
  /-- A barrier wait on a named barrier of the workgroup (R234), and once its phase is complete the accesses before its
  arrivals that were still to be performed: group key, operations below a number, lanes (R439). -/
  | barrier (n : Nat) (debts : List (Nat × Nat × Mask))
  /-- WAITA (R436), with the acquire modifier or not. -/
  | waita (acq : Bool)
  /-- ACQ of an object (R434): the lanes that execute it, and the group's later accesses, are held until it is done. -/
  | acquire
  /-- A multicast read (R423): first line, count, where line 0 lands, and the clause that holds it (R176). -/
  | mcast (ob : Bool) (start n dst clause : Nat)
  /-- A command of an engine (R440): 0 matrix, 1 copy, 2 sweep, 3 link. -/
  | engine (e : Nat) (cmd : Nat)
  /-- A bank switch (R425): the banks asked for. -/
  | banks (mask : Nat)
  /-- A stop request (R480). -/
  | stop (core wg : Nat) (gang : Bool)
  deriving DecidableEq, Repr

/-- An outstanding operation: its number, its flag (15 for none), what it waits for, the lanes not yet served, the
destination keys it names, the results so far, and the keys a fixed-latency write has overwritten since (R221). `joins`
are the rejoin sets that released since it issued (R199): while one of the first lanes is not served, the later accesses of
the second ones follow it as theirs do.
A vector register of a lane has key 32·register + lane, a scalar register key 65536 + register. -/
structure POp where
  id : Nat
  flag : Nat
  kind : OpKind
  lanes : Mask
  dests : List Nat
  results : List (Nat × W32)
  clobbered : List Nat
  ready : Bool
  joins : List (Mask × Mask)
  deriving DecidableEq, Repr

/-- The trap registers of a group and the mode bits INH and MASKED (R238); TEPC keeps its OFS beside it (R323). -/
structure Trap where
  tvec0 : W32
  tvec1 : W32
  tcause : W32
  tmask : Mask
  tepc : Pc
  taddr : W64
  lpcsel : Nat
  staged : Option W32
  hchk : Bool
  masked : Bool
  inh : Bool
  rngsel : Nat
  deriving DecidableEq, Repr

/-- The trap registers at release (R212, R238). -/
def Trap.reset : Trap := ⟨0, 0, 0, 0, ⟨0, 0⟩, 0, 0, none, false, false, false, 0⟩

/-! ### Memory, caches and translation (chapter 05) -/

/-- The kinds of access a translation is asked for (R170, R180). -/
inductive Access where
  | read | write | atomic | fetch | wait
  deriving DecidableEq, Repr

/-- A translation fault: its kind (R180), the level at which the walk stopped and the entry that failed. -/
structure Flt where
  kind : Nat
  level : Nat
  entry : Nat
  deriving DecidableEq, Repr

/-- A leaf: the physical address of the page, its size in bits, its compression kind and permissions (R168), and the
entry it was read from, which a fault of kind 6 names (R180). -/
structure Leaf where
  base : Nat
  bits : Nat
  ck : Nat
  r : Bool
  w : Bool
  x : Bool
  entry : Nat
  deriving DecidableEq, Repr

/-- A TLB entry: ASID, virtual page number at the leaf's size, leaf (R170). -/
structure TlbEnt where
  asid : Nat
  vpn : Nat
  leaf : Leaf
  deriving DecidableEq, Repr

/-- A page-walk cache entry: a pointer of levels 4 to 1 by ASID and address bits above its level (R170). -/
structure PwcEnt where
  asid : Nat
  level : Nat
  tag : Nat
  next : Nat
  deriving DecidableEq, Repr

/-- One translation unit: its TLBs and page-walk cache (R170). -/
structure UnitSt where
  tlb1 : List TlbEnt
  tlb2 : List TlbEnt
  pwc : List PwcEnt
  deriving DecidableEq, Repr

def UnitSt.reset : UnitSt := ⟨[], [], []⟩

/-- A cluster L2 line (R161): its 128 bytes, the mask of bytes the cluster wrote (R192), permissions, zero flag, and per
sector valid, poison, and `bad`: a dirty sector whose check bits no longer hold, not found yet (R145); whether it is a
host page's, the leaf's entry at its fill (R180), binding number (R201) and the stamp of its kept mark (R424). -/
structure L2Line where
  data : List Byte
  dirty : Nat
  r : Bool
  w : Bool
  x : Bool
  zero : Bool
  valid : Nat
  poison : Nat
  bad : Nat
  host : Bool
  entry : Nat
  bind : Option Nat
  kept : Option Nat
  deriving DecidableEq, Repr

/-- A merge entry of a slice (R165): ASID, start, length, the cores joined with their destinations, open or closed. -/
structure MergeEnt where
  asid : Nat
  start : Nat
  len : Nat
  reqs : List (Nat × Nat)
  deriving DecidableEq, Repr

/-- What a parked access does when it is replayed (R176, R178): the descriptor of an operand-log entry. -/
inductive Acc where
  | load (w : LdW) (d : Opnd)
  | store (size : Nat)
  | stu
  | atom (op : Nat) (ty : Nat) (scope : Nat) (order : Nat) (d : Opnd)
  | wait (cond : WaX) (scope : Nat) (acq w64 : Bool) (d : Opnd)
  | mcast (ob : Bool) (dst : Nat)
  | acqRead (d : Opnd)
  | relOp (op : Nat)
  /-- A prefetch or residency hint that waits for the wash of its slice (R144, R179): 0 PREF.L1, 1 PREF.L2, 2 RESID.KEEP. -/
  | hint (act : Nat)
  deriving DecidableEq, Repr

/-- One lane of an access: its address, up to 16 bytes of data or operands, and the bytes of a store that are not to be
written any more: they have been, or a higher lane of the store writes them (R418). -/
structure LaneAcc where
  lane : Nat
  addr : Nat
  data : List Byte
  done : Nat
  deriving DecidableEq, Repr

/-- Where a parked access stands: the operand log (R176), a unit's overflow list, NAKed at the core for want of room
there, or held: behind a range hold (its place in State.holds, R174), a recovering peer (2^20 + its number, R22), an
earlier operation of the group (2^21 + twice its number, R428, R434), or its workgroup's store buffer (2^21 + 1, R134). -/
inductive ParkPlace where
  | log
  | overflow (unit : Nat)
  | nak
  | held (hold : Nat)
  deriving DecidableEq, Repr

/-- A parked access of a group (key of the group, its operation), in the order they were parked. -/
structure Parked where
  group : Nat
  op : Nat
  acc : Acc
  lanes : List LaneAcc
  kind : Nat
  first : Nat
  clause : Nat
  place : ParkPlace
  deriving DecidableEq, Repr

/-- A wait of one lane on a word (R436): the operation it belongs to, where it is observed (a cluster's L2 or the
controller, with the physical address), the value that satisfied it once one did, and its clause (R176). -/
structure WaitRec where
  group : Nat
  op : Nat
  lane : Nat
  cluster : Option Nat
  asid : Nat
  va : Nat
  pa : Nat
  w64 : Bool
  cond : WaX
  cmp : Nat
  scope : Nat
  acq : Bool
  d : Opnd
  sat : Option Nat
  clause : Nat
  deriving DecidableEq, Repr

/-- A held range (R174). -/
structure Hold where
  asid : Nat
  va : Nat
  len : Nat
  deriving DecidableEq, Repr

/-- A migration in progress (R184): the page, its size in bits, the new address and kind, its phase (1 freeze, 2 copy,
3 cut-over, 4 thaw); the leaf entry as it was before the cut-over, with its address; the lines at which a write of an
engine or an agent was refused. -/
structure Migration where
  asid : Nat
  va : Nat
  bits : Nat
  newPa : Nat
  ck : Nat
  phase : Nat
  old : Option (Nat × Nat)
  refused : NatSet
  deriving DecidableEq, Repr

/-- A binding (R201). -/
structure Binding where
  base : Nat
  len : Nat
  obj : Nat
  num : Nat
  deriving DecidableEq, Repr

/-! ### Engine commands (chapters 08, 09 and 15) -/

/-- A command of an engine as it stands after its issue (R440): what it read from registers and records. -/
inductive EngCmd where
  /-- MMA: the eight words, the copies of its two records, the register-sourced A (R255, R443), elected lane (R444). -/
  | mma (block : List Nat) (arec brec areg : List Byte) (elect : Nat)
  /-- MSMLD, MSMST: 64-bit or not, destination, and offset and data per executing lane (R446). -/
  | msmld (w64 : Bool) (d : Opnd) (lanes : List (Nat × Nat))
  | msmst (w64 : Bool) (lanes : List (Nat × Nat × Nat))
  /-- BOND.ACQ with log2 of the tile's rows and columns; BOND.REL (R447). -/
  | bondAcq (lr lc : Nat)
  | bondRel
  /-- CPY and LXFER with their blocks, CPY's generator seed (R453), the next segment, and the patch list (R457). -/
  | cpy (block : List Nat) (seed : W32)
  | lxfer (block : List Nat)
  /-- The sweep commands (R464). -/
  | swdecl (d : Opnd) (blk part mapoff : Nat)
  | swstart (wrd val : Nat)
  | swpull (d s : Opnd) (lanes : Mask)
  | swcommit (kind : Nat) (lanes : List (Nat × Nat × Nat))
  | swwake (blk : Nat) (lanes : List (Nat × Nat))
  | swstat (d : Opnd)
  deriving DecidableEq, Repr

/-- A command with the operation it belongs to (its number within the group; 0 for a packet's copy), the issuing
group's key, the ASID and the workgroup. -/
structure Cmd where
  op : Nat
  group : Nat
  asid : Nat
  wg : Nat
  cmd : EngCmd
  deriving DecidableEq, Repr

/-- A patched segment of a copy or link command: its number (fills count on after the segments, the completion word
last), the fault kind and address (R457, R462). -/
structure PatchEnt where
  seg : Nat
  kind : Nat
  va : Nat
  deriving DecidableEq, Repr

/-- A copy or link command accepted by its engine: the packet it came from (queue, index) if any, the next segment and
the patch list; `aside` once only patch replay remains (R458). -/
structure DmaEnt where
  cmd : Cmd
  packet : Option (Nat × Nat)
  pos : Nat
  patch : List PatchEnt
  aside : Bool
  deriving DecidableEq, Repr

/-- What an operand link does in a bond (R259): nothing, it carries A east, or B and partial sums south. -/
inductive LinkRole where
  | idle | operandA | sums
  deriving DecidableEq, Repr

/-- A bond configuration of an engine (R263): the shape, the member's bond row and column, the corner of its tile in the
lease's rectangle, the role of each of its links. -/
structure BondCfg where
  rows : Nat
  cols : Nat
  bi : Nat
  bj : Nat
  top : Nat
  left : Nat
  north : LinkRole
  west : LinkRole
  south : LinkRole
  east : LinkRole
  deriving DecidableEq, Repr

/-- The configuration of the lease's place (i, j) in tiles of r × c. -/
def tileCfg (r c i j : Nat) : BondCfg :=
  { rows := r, cols := c, bi := i % r, bj := j % c, top := i - i % r, left := j - j % c
    north := if i % r = 0 then .idle else .sums, west := if j % c = 0 then .idle else .operandA
    south := if i % r + 1 = r then .idle else .sums, east := if j % c + 1 = c then .idle else .operandA }

def BondCfg.single : BondCfg := tileCfg 1 1 0 0

/-- A command in the matrix queue: the bond commands its engine had accepted before it, which must have taken effect
(R264, R449), its number modulo 16, its place among the bonded operations since the last of them (R265), the next row
(R267), and the tokens of other members' slices of B that it has sent (R249). -/
structure MxEnt where
  cmd : Cmd
  ver : Nat
  opseq : Nat
  place : Nat
  row : Nat
  sent : Nat
  deriving DecidableEq, Repr

/-- Elements of an operand as they stand in memory, and the scale word of each where the operand has scales (R245, R246). -/
structure Strip where
  bytes : List Byte
  scales : List Nat
  deriving DecidableEq, Repr

/-- A stationary slot of an engine (R248): OPSEQ of the operation it is loaded for, whether its slice of B is all there, and
the slice, column by column. -/
structure Slot where
  op : Nat
  full : Bool
  strip : Strip
  deriving DecidableEq, Repr

/-- A token on its way or held by a receiver (R261): the receiver's link (0 north, 1 west), the header, the payload, the
scale words of its elements, the shape of its operation in the first token (R265), the bond row that a stationary slice is
for. -/
structure Token where
  link : Nat
  header : Nat
  payload : List Byte
  scales : List Nat
  shape : List Nat
  dest : Nat
  deriving DecidableEq, Repr

/-- A matrix engine (R248, R257, R261 to R263, R268, R269): queue, the two configurations, issue version, whether it stands
in a lease, stopped by a mismatch; CAP, BUDGET, the budget in force in this window, steps in it, when the ramp at start
began; MXSTALL; ELECT and SLOT; the counts of operations and of bonded operations accepted since the last bond command, and
between earlier ones; the stationary slots; receive queues; the send windows by receiver; the channels (receiver, link,
virtual channel) that a NAK has stopped. -/
structure MxSt where
  queue : List MxEnt
  cfg0 : BondCfg
  cfg1 : BondCfg
  iv : Nat
  bonded : Bool
  relIssued : Bool
  itr : Nat
  itc : Nat
  stopped : Bool
  cap : Nat
  budget : Nat
  limit : Nat
  steps : Nat
  ramp : Option Nat
  stall : Nat
  elect : Nat
  slot : Nat
  ops : Nat
  bondOps : Nat
  past : List (Nat × Nat)
  slots : List (Nat × Slot)
  rx : List Token
  tx : List (Nat × Token)
  resend : List (Nat × Nat × Nat)
  deriving DecidableEq, Repr

def MxSt.reset : MxSt :=
  { queue := [], cfg0 := BondCfg.single, cfg1 := BondCfg.single, iv := 0, bonded := false, relIssued := false, itr := 1
    itc := 1, stopped := false, cap := 64, budget := 8, limit := 8, steps := 0, ramp := none, stall := 0, elect := 0
    slot := 0, ops := 0, bondOps := 0, past := [], slots := [], rx := [], tx := [], resend := [] }

/-- A tensor declaration that SWDECL accepted (R270, R274). -/
structure SwDecl where
  blk : Nat
  dbase : Nat
  cbase : Nat
  rank : Nat
  csize : Nat
  nnbr : Nat
  nwatch : Nat
  scope : Nat
  esize : Nat
  ext : List Nat
  st : List Int
  off : List (List Int)
  watch : Nat
  ptab : Nat
  pcount : Nat
  dstat : Nat
  part : Nat
  mapoff : Nat
  first : Nat
  count : Nat
  wplane : Nat
  deriving DecidableEq, Repr

/-- A tensor's run as engines share it: the domain status word, the partition table and its entries (R274, R289). -/
structure Domain where
  dstat : Nat
  ptab : Nat
  pcount : Nat
  deriving DecidableEq, Repr

/-- A wake between partitions or of SWWAKE (R286): the run, the partition, the plane word's address and the bit in it, and
the SWWAKE's group and operation (0 and 0 for a commit's). -/
structure WakeTo where
  dom : Domain
  part : Nat
  plane : Nat
  bit : Nat
  group : Nat
  op : Nat
  deriving DecidableEq, Repr

/-- What a patch-list entry of a sweep engine does when it replays (R295). -/
inductive SwWork where
  /-- SWDECL of a command again; the entry's address lies in the piece whose read faulted. -/
  | decl (c : Cmd)
  /-- The context reads of SWSTART from element n to the end of its 4 KiB. -/
  | start (n : Nat)
  /-- The context read of element n at a pull. -/
  | pull (n : Nat)
  /-- The commit of a lane's element n with word w: 1 SWPARK, 2 SWDONE, 3 SWKEEP. -/
  | commit (c : Cmd) (kind lane n w : Nat)
  /-- The neighbour check of element n with offset number k. -/
  | check (n k : Nat)
  /-- The wake that a merge brought to element n. -/
  | apply (n : Nat)
  /-- The block and table reads of SWWAKE for a lane. -/
  | wake (c : Cmd) (lane : Nat)
  /-- A wake from a step of R286 on. -/
  | send (w : WakeTo) (step : Nat)
  /-- The decision's notification of a partition (R290). -/
  | tell (d : Domain) (part : Nat)
  /-- CORE write, change of STALLED and DONE, domain status read, plane merge, completion word, the read of a watch slot. -/
  | core (x : Nat)
  | stat (stalled done : Int)
  | readStat
  | merge
  | word (addr val : Nat)
  | watch (slot : Nat)
  deriving DecidableEq, Repr

structure SwPatch where
  work : SwWork
  kind : Nat
  va : Nat
  deriving DecidableEq, Repr

/-- A batch a sweep group holds: the operation of the SWPULL that gave it, the uncommitted element of each lane, and the
lanes whose commit has issued (R278, R279, R465). -/
structure Batch where
  group : Nat
  op : Nat
  lanes : List (Nat × Nat)
  sent : Mask
  deriving DecidableEq, Repr

/-- A wake that waits for an engine's acknowledgement (R286): the sender's core. -/
structure Notice where
  core : Nat
  wake : WakeTo
  deriving DecidableEq, Repr

/-- A sweep engine (R275 to R296): the workgroup it serves and that workgroup's view, with the number of SWDECLs outstanding
(R465); the declaration; the run state of SWSTAT; the commands behind a commit whose release waits (R282); the SWSTART whose
steps are not done; the completion word; p, the sweep number, the baked count, wake-seen marks, sweep groups, batches, held
pulls, the elements whose watch slot was satisfied at the start of the sweep (R287), wakes to acknowledge, whether the
decision was notified, partition done, patch list, and the groups stalled on SWWAKE's read with its address (R466). -/
structure SwSt where
  wg : Option Nat
  declOut : Nat
  declOk : Bool
  started : Bool
  decl : Option SwDecl
  run : Nat
  dec : Nat
  held : List Cmd
  starting : Option Cmd
  waddr : Nat
  cval : Nat
  p : Nat
  sweep : Nat
  baked : Nat
  marks : NatSet
  groups : List Nat
  batches : List Batch
  pulls : List Cmd
  satisfied : NatSet
  notices : List Notice
  told : Bool
  done : Bool
  patch : List SwPatch
  readFaults : List (Nat × Nat)
  deriving DecidableEq, Repr

def SwSt.reset : SwSt :=
  ⟨none, 0, false, false, none, 0, 0, [], none, 0, 0, 0, 0, 0, [], [], [], [], [], [], false, false, [], []⟩

/-! ### Groups, workgroups and cores -/

/-- A command in a group's replay window for an engine (R108): 0 matrix, 1 copy, 2 sweep, 3 link; whether it was sent
and NAKed; its instruction word and executing lanes (R119). -/
structure WinCmd where
  engine : Nat
  naked : Bool
  word : W64
  lanes : Mask
  cmd : Cmd
  deriving DecidableEq, Repr

/-- A parked system call of a group (R86, R468): posted or not, its sequence number, the parked lanes, trap number and
clause, the address of the resume word its record names, and whether that word has been written since. -/
structure CallSt where
  posted : Bool
  seq : Nat
  lanes : Mask
  num : Nat
  clause : Nat
  word : Nat
  written : Bool
  deriving DecidableEq, Repr

/-- A group in its slot (R119, R212). Vector registers have key 32·register + lane; unlisted registers read zero. -/
structure Group where
  wg : Nat
  num : Nat
  role : Nat
  ubase : Nat
  vregs : Nat
  lanes : List Lane
  preds : List Mask
  members : List Mask
  arrivals : List Mask
  vreg : List (Nat × W32)
  sreg : List (Nat × W32)
  tables : List (List Byte)
  ops : List POp
  failed : List (Nat × Nat)
  trap : Trap
  window : List WinCmd
  call : Option CallSt
  waiting : List CallSt
  yielded : Option Pc
  stamp : Nat
  waitAge : Nat
  watchdog : Nat
  recovery : Nat
  deriving DecidableEq, Repr

/-- A named barrier (R232): expected count, arrivals, the waits (group key, operation), and the arrivals whose earlier
accesses were still to be performed when they came (R439). -/
structure Barrier where
  expected : Nat
  arrivals : Nat
  waiting : List (Nat × Nat)
  debts : List (Nat × Nat × Mask)
  deriving DecidableEq, Repr

def Barrier.reset : Barrier := ⟨0, 0, [], []⟩

/-- What a restartable workgroup's store buffer holds (R133): the lanes of a store (STU or not), a non-returning atomic of
one lane, or a release (a fence, a REL). -/
inductive SbAct where
  | store (stu : Bool) (ys : List LaneAcc)
  | atom (op ty scope order : Nat) (va : Nat) (data : List Byte)
  | fence (scope : Nat)
  | rel (op : Nat) (obj val : Nat)
  deriving DecidableEq, Repr

/-- An entry of a store buffer: the issuing group's key, the operation's number, the lanes that executed it, its clause,
and whether its drain has left lanes to the operand log, where they fault (R175, R209). -/
structure SbEnt where
  gk : Nat
  id : Nat
  lanes : Mask
  act : SbAct
  clause : Nat
  logged : Bool
  deriving DecidableEq, Repr

/-- A workgroup on a core, or a core's firmware slot (R210, R478); `image` is the save record it is being restored from.
A ticket of 2^64 stands for none yet (R106). -/
structure Wg where
  asid : Nat
  firmware : Bool
  ngroups : Nat
  slots : List Nat
  barBase : Nat
  nbar : Nat
  barriers : List Barrier
  mx : Bool
  sw : Bool
  restartable : Bool
  committed : Bool
  bonded : Bool
  fifo : Nat
  index : Nat
  ticket : Nat
  gridX : Nat
  gridY : Nat
  gridZ : Nat
  scratchOff : Nat
  scratchLen : Nat
  obOff : Nat
  obLen : Nat
  msOff : Nat
  msLen : Nat
  record : Nat
  brow : Nat
  bcol : Nat
  banks : List Nat
  obrecs : List (List Byte)
  sbuf : List SbEnt
  spill : Nat
  restores : Nat
  attempt : Nat
  sliceEnd : Nat
  drain : Nat
  stopping : Bool
  released : Bool
  image : Option Nat
  deriving DecidableEq, Repr

/-! ### Saved workgroups (R101, R115, R118, R119) -/

/-- A bond lease (R107): its cores with their bond rows and columns, its shape, record and ticket, the members that have
retired and those whose BOND.REL was accepted (R449), the shape of its tiles,
each member's accepted bond commands as (kind, log2 r', log2 c') and the number that have taken effect (R448), and the
engines' states once a stop has released its links (R116 step 4, R480), by core. -/
structure Lease where
  members : List (Nat × Nat × Nat)
  rows : Nat
  cols : Nat
  record : Nat
  ticket : Nat
  retired : List Nat
  released : List Nat
  trows : Nat
  tcols : Nat
  cmds : List (Nat × List (Nat × Nat × Nat))
  flips : Nat
  cut : List (Nat × MxSt)
  deriving DecidableEq, Repr

/-- The parts of a save record, as the device wrote them: the workgroup, its groups by number, its local bytes with poison,
its share of the engines, the lease it stood in with its engine's state, its parked accesses (waits among them, R437), and the
record's size. The record's address is its key. -/
structure SaveImg where
  wg : Wg
  groups : List (Nat × Group)
  sp : List Byte
  ob : List Byte
  ms : List Byte
  spPoison : NatSet
  obPoison : NatSet
  mx : List MxEnt
  bond : Option (Lease × MxSt)
  dma : List (Nat × DmaEnt)
  sw : Option SwSt
  parked : List Parked
  size : Nat
  deriving DecidableEq, Repr

/-- An entry of a record's save list, oldest first: a workgroup's index or a gang's ticket, the addresses of its members'
records or none for a restart from the beginning (R124, R137), the attempt count, the cluster to avoid (R138), and how
many restores and restarts it has had (R312). -/
structure SaveEnt where
  record : Nat
  ticket : Nat
  addrs : List Nat
  attempt : Nat
  avoid : Option Nat
  restores : Nat
  deriving DecidableEq, Repr

/-! ### Contexts and the event ring (chapter 02) -/

/-- A context (R58), with the counters of OP 0x15 (R172), its bindings and pull masks (R201, R202), its registered
signals with HOSTVIS (R62), PROD of its system-call ring (R86) and its drain debt (R112). -/
structure Ctx where
  drain : Nat
  rstok : Bool
  prioMax : Nat
  root : Nat
  scring : Nat
  sclog : Nat
  wdog : Nat
  scctl : Nat
  resarr : Nat
  slice : Nat
  scvec : Nat
  killed : Bool
  bindings : List Binding
  pulls : List (Nat × Nat)
  signals : List (Nat × Bool)
  prod : Nat
  hintDrops : Nat
  faults : Nat
  sidecars : Nat
  migrated : Nat
  debt : Nat
  deriving DecidableEq, Repr

/-- The event ring (R63, R90): size exponent, base, vector; EVPROD, EVCONS, EVLOST; the reference time before which the
vector is not raised again, and whether a raise is owed then. -/
structure EvRing where
  set : Bool
  log : Nat
  base : Nat
  vec : Nat
  prod : Nat
  cons : Nat
  ovf : Bool
  lost : Nat
  next : Nat
  owed : Bool
  deriving DecidableEq, Repr

def EvRing.reset : EvRing := ⟨false, 0, 0, 0, 0, 0, false, 0, 0, false⟩

/-! ### Queues, the mailbox and pending agent work (chapter 02) -/

/-- The packet at a queue's head as it was read once (R66): its eight words, whether it has begun to wait and since when,
the DEP entries observed at 0 (R77), and whether its suspected cycle was reported (R72). -/
structure HeadPkt where
  words : List Nat
  waiting : Bool
  since : Nat
  observed : Nat
  reported : Bool
  deriving DecidableEq, Repr

/-- A processed packet that is not complete (R67): its index, its kind, the launch record or copy number it stands for,
and its signal operation (R78) with IRQ (R68). `done` tells that only the signal operation remains. -/
structure OutPkt where
  index : Nat
  kind : Nat
  id : Nat
  csop : Nat
  csig : Nat
  cval : Nat
  irq : Bool
  done : Bool
  tag : Nat
  deriving DecidableEq, Repr

/-- A user queue (R60, R65, R69 to R71). `unwritten`: its line of the control block is still to be written; `moved`: it was
reassigned and no scan has met it since (R73). -/
structure Queue where
  asid : Nat
  qlog : Nat
  ring : Nat
  qctl : Nat
  qvec : Nat
  cluster : Nat
  ridx : Nat
  qstate : Nat
  qerr : Nat
  waitSince : Nat
  markTag : Nat
  slotted : Bool
  order : Option Nat
  emptySince : Nat
  widx : Nat
  head : Option HeadPkt
  out : List OutPkt
  unwritten : Bool
  moved : Bool
  deriving DecidableEq, Repr

/-- The driver mailbox (R54, R57): REQ0 to REQ7, GO, OP, RESULT, STATUS, the copy of the words that the request in
progress took, and its outcome once it is decided. -/
structure Mailbox where
  req : List W64
  go : Bool
  op : Nat
  result : Nat
  status : Nat
  copy : List W64
  outcome : Option (Nat × Nat)
  deriving DecidableEq, Repr

def Mailbox.reset : Mailbox := ⟨List.replicate 8 0, false, 0, 0, 0, List.replicate 8 0, none⟩

/-! ### Scheduling, saving and containment (chapters 03 and 04) -/

/-- A role of a kernel descriptor (R91). -/
structure KRole where
  entry : Nat
  groups : Nat
  vregs : Nat
  deriving DecidableEq, Repr

/-- A kernel descriptor as the lead agent read it (R91, R92). -/
structure Desc where
  mx : Bool
  sw : Bool
  nbar : Nat
  drain : Nat
  scratch : Nat
  obuf : Nat
  msm : Nat
  roles : List KRole
  kbind : List Nat
  deriving DecidableEq, Repr

/-- A launch record of the work board (R80): its fields, the descriptor held with it, and its state. -/
structure LaunchRec where
  asid : Nat
  queue : Nat
  tag : Nat
  prio : Nat
  restart : Bool
  irq : Bool
  csop : Nat
  brows : Nat
  bcols : Nat
  kdesc : Nat
  args : Nat
  gx : Nat
  gy : Nat
  gz : Nat
  dynscr : Nat
  total : Nat
  ticket : Nat
  done : Nat
  csig : Nat
  cval : Nat
  posted : Nat
  st : Nat
  desc : Desc
  ran : NatSet
  deriving DecidableEq, Repr

/-- A drain in progress on a core (R110 to R116): when its stop request arrived, none while it is on its way; D in
reference ticks; whether the drain is an ironing drain (not charged, R147). -/
structure Drain where
  core : Nat
  wg : Nat
  since : Option Nat
  limit : Nat
  ironing : Bool
  deriving DecidableEq, Repr

/-- A kill in progress or done for which the event is not yet posted (R139): where it was detected and what it names. -/
structure KillRec where
  asid : Nat
  cause : Nat
  place : Nat
  va : Nat
  pa : Nat
  frames : Nat
  deriving DecidableEq, Repr

/-- An entry of a core's provisional table (R149). -/
structure ProvEnt where
  asid : Nat
  queue : Nat
  tag : Nat
  count : Nat
  deriving DecidableEq, Repr

/-- Ironing of a core (R147 to R150): its third-skip count, the time of its last passing pass, its provisional table,
launches waiting for the pass to end, the pass in progress (0 none, 1 draining, 2 scanning), and the EN in force in the
cluster until that pass ends, where EN was written while it runs (R151). -/
structure IronSt where
  skips : Nat
  lastPass : Nat
  table : List ProvEnt
  waiting : List ProvEnt
  phase : Nat
  late : Option Bool
  deriving DecidableEq, Repr

def IronSt.reset : IronSt := ⟨0, 0, [], [], 0, none⟩

/-- The failed reservations of a core's agent for a record: since when they are measured while the record stands first
(R100), the last of them (R111), and whether the agent claims from that record only. -/
structure FailRec where
  core : Nat
  record : Nat
  since : Option Nat
  last : Nat
  hold : Bool
  deriving DecidableEq, Repr

/-- A hold request of a die-0 lead agent (R106), kept by its cluster: the record, the columns, the answer (0 none yet, 1
held, 2 refused), and the save-list entry that the gang is restored from, if any. -/
structure HoldReq where
  record : Nat
  cols : Nat
  col : Nat
  answer : Nat
  entry : Option SaveEnt
  deriving DecidableEq, Repr

/-- A core (R154 to R160, R96): bank modes, pending switches with the mode they left, scratch space, operand buffer and
matrix-side memory bytes, poisoned sectors, L1 lines by ASID and line with the bank that is their way, NAK count and
back-off. `owed`: a switch in progress kept a scratch bank from going back to L1, `owedFifo`: FIFO banks (R96). -/
structure CoreSt where
  bankMode : List Nat
  bankFrom : List (Nat × Nat)
  owed : Bool
  owedFifo : NatSet
  sp : List Host.Cell
  ob : List Host.Cell
  ms : List Host.Cell
  spPoison : NatSet
  obPoison : NatSet
  l1 : List (Nat × Nat × List Byte)
  naks : Nat
  backoff : Nat
  deriving DecidableEq, Repr

def CoreSt.reset : CoreSt :=
  ⟨List.replicate 16 0, [], false, [], [], [], [], [], [], [], 0, 0x40⟩

/-- A cluster (R34, R144, R161, R167): L2, MERGEWIN, merge entries by slice; the clock's k, VCORE, whether a droop
stretches the clock, stretches since the loop last ran, the cycle count in sixteenths (R333), slices being washed, and
ironing's next core of the cluster with the time of its turn (R147). -/
structure ClusterSt where
  l2 : List (Nat × L2Line)
  mergewin : Nat
  merges : List (Nat × MergeEnt)
  k : Nat
  vcore : Nat
  droop : Bool
  stretches : Nat
  cycles16 : Nat
  washing : NatSet
  turn : Nat
  turnAt : Nat
  deriving DecidableEq, Repr

/-- A cluster at reset: MERGEWIN 256 (R167); k and VCORE as log entry 6 says. -/
def ClusterSt.reset : ClusterSt := ⟨[], 256, [], 16, 0, false, 0, 0, [], 0, 0⟩

/-! ### The package (chapter 01) -/

/-- The request that a flit carries, and on whose behalf (R22, R130): the context, the requester's core, the virtual and the
physical address. `waits`: its access waits until the port has recovered (R27). -/
structure FlitReq where
  asid : Nat
  core : Nat
  va : Nat
  pa : Nat
  waits : Bool
  dma : Option (Nat × Nat × Nat)
  deriving DecidableEq, Repr

/-- A flit in a sender's window (R19): its header's fields, its payload, and whether the checkpoint stream sent it: then
the local offset of its first byte and the poisoned sectors it touches; the request it carries, if any. -/
structure Flit where
  seq : Nat
  kind : Nat
  vc : Nat
  devid : Nat
  payload : List Byte
  ckpt : Bool
  start : Nat
  bad : NatSet
  req : Option FlitReq
  deriving DecidableEq, Repr

/-- A flit that a port received in sequence (R21, R23) and has not delivered: its KIND, VC, DEVID and payload. -/
structure RxFlit where
  kind : Nat
  vc : Nat
  devid : Nat
  payload : List Byte
  deriving DecidableEq, Repr

/-- A chip-link port, or one direction of the seam (R12, R21 to R26). `consec` counts the resends of sequence
`stuck` that advanced no acknowledgement; `resend` is the sequence a back-off waits to resend from; `ackedRx` and `nakRx`
are what this side last acknowledged and last named in a NAK; `sinceAck` the flits received since; `crcBad` that the flit
awaited came with a bad CRC. `upper`: at half width it runs on lanes 4 to 7 (R18). `rxq` holds what was received and not
delivered, `outq` the flits that wait for room in the window, `wire` the 256-byte flits sent, for the line to take. -/
structure Port where
  state : Nat
  half : Bool
  peerid : Nat
  replays : Nat
  enable : Bool
  backoff : Nat
  proterr : Nat
  nakign : Nat
  nextSeq : Nat
  window : List Flit
  resend : Option Nat
  consec : Nat
  rxSeq : Nat
  discarding : Bool
  sinceAck : Nat
  ackedRx : Nat
  nakRx : Option Nat
  stuck : Nat
  crcBad : Bool
  upper : Bool
  rxq : List RxFlit
  outq : List Flit
  wire : List (List Byte)
  deriving DecidableEq, Repr

/-- A port at reset: BACKOFF 0x0040, every other field 0 (R24 to R26). -/
def Port.reset : Port :=
  { state := 0, half := false, peerid := 0, replays := 0, enable := false, backoff := 0x40, proterr := 0, nakign := 0,
    nextSeq := 0, window := [], resend := none, consec := 0, rxSeq := 0, discarding := false, sinceAck := 0,
    ackedRx := 4095, nakRx := none, stuck := 0, crcBad := false, upper := false, rxq := [], outq := [], wire := [] }

/-- What is left of a port's part of the stream (R31): the next offset, the end, the bytes of its block that are already
read, and the poisoned sectors found as they were. -/
structure Part where
  port : Nat
  lo : Nat
  hi : Nat
  data : List Byte
  bad : NatSet
  deriving DecidableEq, Repr

/-- The checkpoint stream (R30, R31): CKPTSTAT's BUSY, FAIL, ABORTED, SENT; receiver, start addresses, ports, when it
began; the ranges still to be sent. -/
structure Ckpt where
  busy : Bool
  fail : Bool
  aborted : Bool
  sent : Nat
  devid : Nat
  src : Nat
  dst : Nat
  mask : Nat
  since : Nat
  parts : List Part
  deriving DecidableEq, Repr

def Ckpt.reset : Ckpt := ⟨false, false, false, 0, 0, 0, 0, 0, 0, []⟩

/-- The ownership mailbox and the persistent fused state (R46 to R51). -/
structure Owner where
  go : Bool
  op : Nat
  status : Nat
  nonce : List Byte
  fetched : Bool
  relrec : List Byte
  serial : Nat
  epoch : Nat
  keys : List (List Byte)
  released : Bool
  makerHash : List Byte
  minSvn : List Nat
  deriving DecidableEq, Repr

/-- An attestation log entry (R47): image kind, SVN, owner key slot, SHA-512 of the image. -/
structure AttEnt where
  kind : Nat
  svn : Nat
  slot : Nat
  digest : List Byte
  deriving DecidableEq, Repr

/-- The boot and security block and the package's own registers (R36 to R52, R152). `fatals` are device-fatal errors, by
cause and address, whose event waits for the kills to end (R142); `agentCode` is the payload of the authenticated agent
image, `agentEntry` where it stands in memory, `loaded` that start step 6 has put it there. -/
structure Boot where
  power : Bool
  perst : Bool
  pcie : Bool
  started : Bool
  phase : Nat
  failcode : Nat
  hbmok : Nat
  wash : Bool
  owned : Bool
  clustok : Nat
  pairs : Nat
  clusters : Nat
  sets : Nat
  attLog : List AttEnt
  attH : List Byte
  featlock : Bool
  feaerr : Bool
  apercfg : List W64
  fatal : Bool
  fatals : List (Nat × Nat)
  killCount : Nat
  ceCount : Nat
  ironEn : Bool
  ironPeriod : Nat
  coresok : List Nat
  loaded : Bool
  agentCode : List Byte
  agentEntry : Nat
  deriving DecidableEq, Repr

def Boot.reset : Boot :=
  { power := true, perst := true, pcie := false, started := false, phase := 0, failcode := 0, hbmok := 0, wash := false,
    owned := false, clustok := 0, pairs := 0, clusters := 0, sets := 0, attLog := [], attH := List.replicate 64 0,
    featlock := false, feaerr := false, apercfg := List.replicate 16 0, fatal := false, fatals := [], killCount := 0, ceCount := 0,
    ironEn := true, ironPeriod := 10, coresok := List.replicate 12 0, loaded := false, agentCode := [], agentEntry := 0 }

/-- The model's own: what the outside world supplies with an event. Each event's meaning names the fields it reads. -/
structure Env where
  core : Nat
  slot : Nat
  port : Nat
  queue : Nat
  asid : Nat
  index : Nat
  lane : Nat
  kind : Nat
  addr : Nat
  size : Nat
  value : Nat
  mask : Nat
  outcome : Nat
  flag : Bool
  bytes : List Byte
  blobs : List (List Byte)
  deriving DecidableEq, Repr

def Env.reset : Env := ⟨0, 0, 0, 0, 0, 0, 0, 0, 0, 0, 0, 0, 0, false, [], []⟩

/-- What a step met on its way, for which contexts die as it ends: a walk's poisoned table entry (ASID, virtual and
physical address; R130), a dirty sector found bad at a write-back (cluster, ASID, virtual and physical address of the
sector; R145), a write-back to a peer that no port leads to (ASID, L2 slice, virtual and physical address; R27). -/
inductive Trouble where
  | badWalk (asid va pa : Nat)
  | badSector (cl asid va pa : Nat)
  | linkDown (asid place va pa : Nat)
  deriving DecidableEq, Repr

/-- The model's own: what happens next. An event of the opcode table with its environment; the next cycle of the run
a quarter issues; reference-clock ticks that pass; a write from outside (host, peer) to a physical address; a read of
BAR0 by the host; errors that ECC corrects (R129); a port's oldest received flit of a VC is delivered; the line takes a
port's oldest sent flit; a transfer of a context enters the seam (R12); the host reads and writes BAR4 (R14); a
temperature sensor's reading, in °C, and firmware's read of one (R52). -/
inductive Item where
  | event (i : Instr) (env : Env)
  | issue (core quarter : Nat)
  | elapse (ticks : Nat)
  | outside (pa : Nat) (bytes : List Byte)
  | hostRead (offset size : Nat)
  | corrected (n : Nat)
  | deliver (port vc : Nat)
  | lineTakes (port : Nat)
  | seam (port asid core : Nat)
  | bar4Read (offset size : Nat)
  | bar4Write (offset : Nat) (bytes : List Byte)
  | temperature (sensor : Nat) (celsius : Int)
  | sensorRead (sensor : Nat)
  deriving DecidableEq, Repr

/-- The state of the device. `tick`, `focus`, `env`, `agenda` and `completion` are the model's own: a counter that free
values are drawn with, the run being issued, the environment of the event being taken, what happens next, and the
last answer to the host (a status byte: 0 data, 1 Configuration Request Retry Status, 2 poisoned data; then bytes);
`troubles` too: what the step met for which contexts die as it ends. `quarantined` gives each frame the context concerned
(R153). `retries` are host writes that a migration's freeze refused (R184) or that wait for a port (R27):
aperture + 32·offset, ASID, virtual address, bytes; `hostReads` the host's reads through apertures that wait for a port. -/
structure State where
  tick : Nat
  focus : Option (Nat × Nat)
  env : Env
  agenda : List Item
  completion : Option (List Byte)
  refclk : Nat
  boot : Boot
  owner : Owner
  ports : List (Nat × Port)
  routes : List (Nat × NatSet)
  ckpt : Ckpt
  featacc : List W32
  mailbox : Mailbox
  ctxs : List (Nat × Ctx)
  queues : List (Nat × Queue)
  board : List (Nat × LaunchRec)
  evring : EvRing
  msix : List (Nat × Nat)
  msixTab : List (Nat × Nat)
  msixPend : NatSet
  saves : List SaveEnt
  images : List (Nat × SaveImg)
  leases : List Lease
  drains : List Drain
  kills : List KillRec
  irons : List (Nat × IronSt)
  fails : List FailRec
  claims : List (Nat × HoldReq)
  mem : List Host.Cell
  poison : NatSet
  quarantined : List (Nat × Nat)
  retired : NatSet
  sidecar : NatSet
  reported : NatSet
  residency : NatSet
  units : List (Nat × UnitSt)
  holds : List Hold
  migration : Option Migration
  parked : List Parked
  waits : List WaitRec
  clusters : List (Nat × ClusterSt)
  cores : List (Nat × CoreSt)
  wgs : List (Nat × Wg)
  groups : List (Nat × Group)
  runs : List (Nat × Run)
  mx : List (Nat × MxSt)
  cp : List (Nat × List DmaEnt)
  lk : List (Nat × List DmaEnt)
  sw : List (Nat × SwSt)
  sensors : List (Nat × Int)
  troubles : List Trouble
  retries : List (Nat × Nat × Nat × List Byte)
  hostReads : List Env
  nextOp : Nat
  deriving DecidableEq, Repr

/-- The ownership state at reset: a device in the provisioning state (log entry 7). -/
def Owner.reset : Owner :=
  { go := false, op := 0, status := 0, nonce := List.replicate 32 0, fetched := false,
    relrec := List.replicate 1280 0, serial := 0, epoch := 0, keys := [], released := false,
    makerHash := List.replicate 64 0, minSvn := [0, 0, 0, 0] }

/-- The device right after a cold reset (R40): PHASE 0, PERST# asserted, no context, no work, memory unlisted. -/
def State.reset : State :=
  { tick := 0, focus := none, env := Env.reset, agenda := [], completion := none, refclk := 0, boot := Boot.reset,
    owner := Owner.reset, ports := [], routes := [], ckpt := Ckpt.reset, featacc := [0, 0, 0, 0],
    mailbox := Mailbox.reset, ctxs := [], queues := [], board := [], evring := EvRing.reset, msix := [], msixTab := [],
    msixPend := [], saves := [],
    images := [], leases := [], drains := [], kills := [], irons := [], fails := [], claims := [], mem := [],
    poison := [], quarantined := [], retired := [], sidecar := [], reported := [], residency := [], units := [],
    holds := [], migration := none, parked := [], waits := [], clusters := [], cores := [], wgs := [], groups := [],
    runs := [], mx := [], cp := [], lk := [], sw := [], sensors := [],
    troubles := [], retries := [], hostReads := [], nextOp := 1 }

end Sys2Proof.Machine
end

