-- ==== Sys2Proof/Machine/Phys.lean ====
section
/-! DEFINITION. Physical memory: bytes, poison, the memory controller with compression (R28, R131, R181 to R183), and
the words that waits watch (R436). -/

namespace Sys2Proof.Machine

/-- The byte an unlisted physical address reads as (assumption log 2) (DESIGN CHOICE, log 2). -/
def memDefault : Byte := 0

/-- One byte of physical memory. -/
def memByte (s : State) (pa : Nat) : Byte := sget memDefault s.mem pa

/-- `n` bytes of physical memory. -/
def memBytes (s : State) (pa n : Nat) : List Byte := (List.range n).map fun k => memByte s (pa + k)

/-- A little-endian number of `n` bytes of physical memory. -/
def memNat (s : State) (pa n : Nat) : Nat := ofLeBytes (memBytes s pa n)

/-- Bytes written over a list of cells. -/
def putBytes (m : List Host.Cell) (a : Nat) : List Byte → List Host.Cell
  | [] => m
  | b :: bs => putBytes (sput memDefault m a b) (a + 1) bs

/-- Physical memory with bytes written. -/
def memPut (s : State) (pa : Nat) (bs : List Byte) : State := { s with mem := putBytes s.mem pa bs }

/-- The canonical form of a cell list. -/
def Memory.wf (m : List Host.Cell) : Bool := swf memDefault m

/-- The targets of a physical address (R28). -/
inductive Target where
  | hbm | firmware | aboveHbm | host | peer | reserved
  deriving DecidableEq, Repr

def hbmTop : Nat := 0xC000000000
def firmwareBase : Nat := 0xBE00000000
def sidecarBase : Nat := 0xBFA0000000

def targetOf (pa : Nat) : Target :=
  match pa / 2 ^ 50 % 4 with
  | 0 => if pa < firmwareBase then .hbm else if pa < hbmTop then .firmware else .aboveHbm
  | 1 => .host
  | 2 => .peer
  | _ => .reserved

/-- Sectors of 32 bytes that are poisoned, as a mask from the sector of an address on (R131). -/
def poisonMask (p : NatSet) (addr n : Nat) : Nat :=
  (List.range n).foldl (fun m k => if nsHas p (addr / 32 + k) then m + 2 ^ k else m) 0

/-- Set or clear the poison of `n` sectors by a mask. -/
def setPoison (p : NatSet) (addr n mask : Nat) : NatSet :=
  (List.range n).foldl (fun q k => if mask.testBit k then nsAdd q (addr / 32 + k) else nsDel q (addr / 32 + k)) p

/-! Compression (R181, R182): blocks of 256 bytes as numbers, little-endian. -/

def wordAt (blk w i : Nat) : Nat := field blk (w * i) w

/-- Pack fields of `w` bits, the first lowest. -/
def packFields (w : Nat) : List Nat → Nat
  | [] => 0
  | x :: xs => x % 2 ^ w + 2 ^ w * packFields w xs

/-- The smallest width in 0..`most` for which a test holds, or `most`. -/
def leastWidth (most : Nat) (ok : Nat → Bool) : Nat := (firstBelow (most + 1) ok).getD most

def fitsSigned (w x : Nat) : Bool := wrapInt 32 (toSigned w (x % 2 ^ w)) == x || (w == 0 && x == 0)

/-- The compressed form of a block under a kind and its length in bytes (R182). -/
def compressBlock (ck blk : Nat) : Nat × Nat :=
  match ck with
  | 1 =>
    let b := wordAt blk 32 0
    let ds := (List.range 64).map fun i => (wordAt blk 32 i + 2 ^ 32 - b) % 2 ^ 32
    let w := leastWidth 32 fun w => ds.all fun d => if w = 0 then d == 0 else fitsSigned w d
    (b + w * 2 ^ 32 + packFields w ds * 2 ^ 64, 8 + 8 * w)
  | 2 =>
    let h := field blk 8 8
    let ds := (List.range 128).map fun i => (field blk (16 * i + 8) 8 + 256 - h) % 256
    let w := leastWidth 8 fun w => ds.all fun d => d < 2 ^ w
    let lows := packFields 8 ((List.range 128).map fun i => field blk (16 * i) 8)
    (h + w * 2 ^ 8 + packFields w ds * 2 ^ 16 + lows * 2 ^ (16 + 128 * w), 2 + 16 * w + 128)
  | _ =>
    let ws := (List.range 32).map fun i => wordAt blk 64 i
    let mask := packFields 1 (ws.map fun x => if x = 0 then 0 else 1)
    let nz := ws.filter fun x => x != 0
    (mask + packFields 64 nz * 2 ^ 64, 8 + 8 * nz.length)

/-- The non-zero words of a zero-run form placed by its mask. -/
def placeWords : Nat → Nat → Nat → Nat → Nat → Nat
  | 0, _, _, _, acc => acc
  | n + 1, i, mask, stream, acc =>
    if mask.testBit i then placeWords n (i + 1) mask (stream / 2 ^ 64) (acc + stream % 2 ^ 64 * 2 ^ (64 * i))
    else placeWords n (i + 1) mask stream acc

/-- The block a compressed form stands for (R182). -/
def decompressBlock (ck raw : Nat) : Nat :=
  match ck with
  | 1 =>
    let b := field raw 0 32
    let w := field raw 32 8
    packFields 32 ((List.range 64).map fun i =>
      (b + if w = 0 then 0 else wrapInt 32 (toSigned w (field raw (64 + w * i) w))) % 2 ^ 32)
  | 2 =>
    let h := field raw 0 8
    let w := field raw 8 8
    packFields 8 ((List.range 256).map fun k =>
      if k % 2 = 0 then field raw (16 + 128 * w + 8 * (k / 2)) 8
      else (h + if w = 0 then 0 else field raw (16 + w * (k / 2)) w) % 256)
  | _ => placeWords 32 0 (field raw 0 32) (raw / 2 ^ 64) 0

/-- The sidecar byte and half of a block (R181). -/
def sidecarAddr (pa : Nat) : Nat := sidecarBase + 128 * (pa / 2 ^ 16) + pa / 256 % 256 / 2

def sidecarCode (s : State) (pa : Nat) : Nat :=
  let b := (memByte s (sidecarAddr pa)).toNat
  if pa / 256 % 2 = 0 then b % 16 else b / 16

def setSidecar (s : State) (pa code : Nat) : State :=
  let b := (memByte s (sidecarAddr pa)).toNat
  memPut s (sidecarAddr pa)
    [BitVec.ofNat 8 (if pa / 256 % 2 = 0 then b / 16 * 16 + code else b % 16 + 16 * code)]

/-- A block of 256 bytes as the controller gives it, with the poison of its eight sectors (R181, R183). -/
def readBlock (s : State) (ck pa : Nat) : Nat × Nat :=
  let base := pa / 256 * 256
  if ck = 0 then (memNat s base 256, poisonMask s.poison base 8)
  else
    let code := sidecarCode s base
    if code = 0 then (0, poisonMask s.poison base 8)
    else if code ≤ 7 then
      (decompressBlock ck (memNat s base (32 * code)), if poisonMask s.poison base code = 0 then 0 else 255)
    else if code = 8 then (memNat s base 256, poisonMask s.poison base 8)
    else (memNat s base 256, 255)

/-- A block written by the controller in its smallest form (R182), with the poison of its sectors: of an all-zero block it
stays with the sectors' places, and in a compressed form it poisons all the sectors stored (R131, R183) (DEDUCED, log 50). -/
def writeBlock (s : State) (ck pa blk poison : Nat) : State :=
  let base := pa / 256 * 256
  if ck = 0 then { memPut s base (leBytes 256 blk) with poison := setPoison s.poison base 8 poison }
  else if blk = 0 then { setSidecar s base 0 with poison := setPoison s.poison base 8 poison }
  else
    let c := compressBlock ck blk
    let sectors := (c.2 + 31) / 32
    if 8 ≤ sectors then
      { setSidecar (memPut s base (leBytes 256 blk)) base 8 with poison := setPoison s.poison base 8 poison }
    else
      { setSidecar (memPut s base (leBytes (32 * sectors) c.1)) base sectors with
        poison := setPoison s.poison base 8 (if poison = 0 then 0 else 2 ^ sectors - 1) }

/-- A 128-byte line of physical memory through its controller: its bytes and the poison of its four sectors. -/
def ctrlReadLine (s : State) (ck pa : Nat) : List Byte × Nat :=
  let base := pa / 128 * 128
  if ck = 0 then (memBytes s base 128, poisonMask s.poison base 4)
  else
    let b := readBlock s ck pa
    let half := base / 128 % 2
    (leBytes 128 (b.1 / 2 ^ (1024 * half)), b.2 / 2 ^ (4 * half) % 16)

/-- The bytes of a line with those of a mask replaced. -/
def mergeBytes : Nat → Nat → List Byte → List Byte → List Byte
  | _, _, [], _ => []
  | _, _, o :: os, [] => o :: os
  | k, mask, o :: os, n :: ns => (if mask.testBit k then n else o) :: mergeBytes (k + 1) mask os ns

/-- Runs of a masked line written straight to cells (uncompressed pages). -/
def putMasked : List Byte → Nat → Nat → Nat → List Host.Cell → List Host.Cell
  | [], _, _, _, m => m
  | b :: bs, a, k, mask, m =>
    putMasked bs (a + 1) (k + 1) mask (if mask.testBit k then sput memDefault m a b else m)

/-- The sector mask of a line that a byte mask covers fully, or touches. -/
def sectorsFull (mask : Nat) : Nat :=
  (List.range 4).foldl (fun m k => if mask / 2 ^ (32 * k) % 2 ^ 32 = 2 ^ 32 - 1 then m + 2 ^ k else m) 0
def sectorsTouched (mask : Nat) : Nat :=
  (List.range 4).foldl (fun m k => if mask / 2 ^ (32 * k) % 2 ^ 32 = 0 then m else m + 2 ^ k) 0

/-- The condition of WAITA on a word (R435). -/
def waitHolds (c : WaX) (word cmp : Nat) : Bool :=
  match c with
  | .eq => word == cmp
  | .ne => word != cmp
  | .lt => decide (word < cmp)
  | .ge => decide (cmp ≤ word)

/-- The word a wait watches at the controller, through the page's compression. -/
def ctrlWord (s : State) (ck pa n : Nat) : Nat :=
  bytesAt (ctrlReadLine s ck pa).1 (pa % 128) n

/-- After a write at the controller: every wait there on a word the write touched is tested (R436). -/
def testWaitsCtrl (ck pa mask : Nat) (s : State) : State :=
  if s.waits.isEmpty then s
  else
    { s with waits := s.waits.map fun w =>
        let n := if w.w64 then 8 else 4
        if w.cluster = none ∧ w.sat = none ∧ w.pa / 128 = pa / 128
            ∧ mask / 2 ^ (w.pa % 128) % 2 ^ n ≠ 0 then
          let x := ctrlWord s ck w.pa n
          if waitHolds w.cond x w.cmp then { w with sat := some x } else w
        else w }

/-- A masked write of a 128-byte line at its controller (R183, R192): the sectors written whole lose their poison, and
`poison` names sectors that become poisoned (R131). A reserved target drops writes. -/
def ctrlWriteLine (s : State) (ck pa mask : Nat) (data : List Byte) (poison : Nat) : State :=
  let base := pa / 128 * 128
  match targetOf base with
  | .reserved => s
  | .aboveHbm => s
  | _ =>
    let old := poisonMask s.poison base 4
    let full := sectorsFull mask
    let newPoison := (List.range 4).foldl (fun m k =>
      if poison.testBit k || (old.testBit k && !full.testBit k) then m + 2 ^ k else m) 0
    let s' :=
      if ck = 0 then
        { s with mem := putMasked data base 0 mask s.mem, poison := setPoison s.poison base 4 newPoison }
      else
        let b := readBlock s ck base
        let half := base / 128 % 2
        let line := mergeBytes 0 mask (leBytes 128 (b.1 / 2 ^ (1024 * half))) data
        let blk := if half = 0 then b.1 / 2 ^ 1024 * 2 ^ 1024 + ofLeBytes line
          else b.1 % 2 ^ 1024 + ofLeBytes line * 2 ^ 1024
        let oldB := b.2
        let keep := (List.range 4).foldl (fun m k =>
          if poison.testBit k || (oldB.testBit (4 * half + k) && !full.testBit k) then m + 2 ^ (4 * half + k) else m) 0
        let other := if half = 0 then oldB / 16 * 16 else oldB % 16
        writeBlock s ck base blk (keep + other)
    testWaitsCtrl ck base mask s'

/-- A mask of `n` bytes from an offset within a line. -/
def byteMask (off n : Nat) : Nat := (2 ^ n - 1) * 2 ^ off

/-- Bytes placed at an offset of a 128-byte line. -/
def lineAt (off : Nat) (bs : List Byte) : List Byte := List.replicate off 0 ++ bs

/-- Bytes read through the controller, line by line; reserved targets read all ones (R476). -/
def ctrlRead (s : State) (ck pa n : Nat) : List Byte :=
  match targetOf pa with
  | .reserved => List.replicate n 0xFF
  | .aboveHbm => List.replicate n 0xFF
  | _ =>
    if ck = 0 then memBytes s pa n
    else (List.range n).map fun k => ((ctrlReadLine s ck (pa + k)).1.getD ((pa + k) % 128) 0)

/-- Cut bytes at an address into pieces that each lie within one 128-byte line. -/
def linePieces : Nat → Nat → List Byte → List (Nat × List Byte)
  | 0, _, _ => []
  | _ + 1, _, [] => []
  | fuel + 1, a, bs =>
    let n := 128 - a % 128
    (a, bs.take n) :: linePieces fuel (a + n) (bs.drop n)

/-- Bytes written through the controller. -/
def ctrlWrite (s : State) (ck pa : Nat) (bs : List Byte) : State :=
  (linePieces (bs.length / 128 + 2) pa bs).foldl
    (fun s p => ctrlWriteLine s ck p.1 (byteMask (p.1 % 128) p.2.length) (lineAt (p.1 % 128) p.2) 0) s

/-- Whether any byte of a range is poisoned. -/
def rangePoisoned (p : NatSet) (addr n : Nat) : Bool :=
  n != 0 && poisonMask p addr ((addr % 32 + n + 31) / 32) != 0

end Sys2Proof.Machine
end

