-- ==== Sys2Proof/Machine/Translate.lean ====
section
/-! DEFINITION. Events (R88 to R90), translation units, walks and TLBs (R168 to R171), translation faults (R175, R180). -/

namespace Sys2Proof.Machine

/-- An entry of the MSI-X table as it stands before the host writes it: masked, all else 0 (R14; PRESUMED, log 60). -/
def msixEntry (s : State) (v : Nat) : Nat := sget (2 ^ 96) s.msixTab v

def vectorMasked (s : State) (v : Nat) : Bool := (msixEntry s v).testBit 96

/-- An MSI-X vector is raised: the count of its messages rises (R13, R57, R90). -/
def raiseMsix (s : State) (v : Nat) : State :=
  { s with
    msix := sset s.msix v (sget 0 s.msix v + 1)
    msixPend := if vectorMasked s v then nsAdd s.msixPend v else s.msixPend }

/-- Raise the event ring's vector, at most once per 1 µs (100 reference ticks); else the raise is owed (R90). -/
def ringVector (s : State) : State :=
  let r := s.evring
  if s.refclk < r.next then { s with evring := { r with owed := true } }
  else raiseMsix { s with evring := { r with next := s.refclk + 100, owed := false } } r.vec

/-- Post an event record of a kind with the body from offset 0x18 (R88, R90): a full ring, or none set yet (R63), drops
and counts it. -/
def postEvent (kind asid : Nat) (body : List Byte) (s : State) : State :=
  let r := s.evring
  if !r.set || (r.prod + 2 ^ 64 - r.cons) % 2 ^ 64 == 2 ^ r.log then
    { s with evring := { r with ovf := true, lost := min (r.lost + 1) (2 ^ 31 - 1) } }
  else
    let rec64 := leBytes 8 r.prod ++ [BitVec.ofNat 8 kind, 0] ++ leBytes 2 asid ++ leBytes 4 0
      ++ leBytes 8 s.refclk ++ fitBytes 40 body
    let s' := ctrlWrite s 0 (r.base + 64 * (r.prod % 2 ^ r.log)) rec64
    ringVector { s' with evring := { r with prod := (r.prod + 1) % 2 ^ 64 } }

def ctxOf (s : State) (asid : Nat) : Option Ctx := sfind s.ctxs asid
def modCtx (s : State) (asid : Nat) (f : Ctx → Ctx) : State := { s with ctxs := smod s.ctxs asid f }

/-- Whether feature `n` was accepted (R42 to R44). -/
def featureOn (s : State) (n : Nat) : Bool := ((s.featacc.getD (n / 32) 0).getLsbD (n % 32))

/-- The unit of a virtual address (R169). -/
def unitOf (va : Nat) : Nat := xorAll ((List.range 6).map fun k => field va (16 + 4 * k) 4)

/-- The lowest VA bit a level's entries index (R168). -/
def levelShift : Nat → Nat
  | 0 => 16 | 1 => 21 | 2 => 30 | 3 => 39 | _ => 48

/-- Whether a physical address is a local page-table address outside the firmware region (R168). -/
def tableTarget (pa : Nat) : Bool := targetOf pa == .hbm

/-- The check of a leaf entry found at a level, in the order of R170's table. -/
def leafCheck (s : State) (level entry : Nat) : Except Flt Leaf :=
  let addr := field entry 8 44 * 256
  let ck := field entry 5 3
  let sh := levelShift level
  let bad (k : Nat) : Except Flt Leaf := .error ⟨k, level, if k = 2 ∨ k = 5 then 0 else entry⟩
  if 3 ≤ level ∨ field entry 56 8 ≠ 0 ∨ addr % 2 ^ sh ≠ 0 then bad 3
  else if 4 ≤ ck ∨ (ck ≠ 0 ∧ !featureOn s 5) ∨ (ck ≠ 0 ∧ (targetOf addr == .host || targetOf addr == .peer)) then bad 4
  else if targetOf addr == .reserved || targetOf addr == .aboveHbm || targetOf addr == .firmware then bad 6
  else if targetOf addr == .peer && !featureOn s 7 then bad 6
  else .ok ⟨addr, sh, ck, entry.testBit 2, entry.testBit 3, entry.testBit 4, entry⟩

/-- The physical address a leaf gives a virtual one. -/
def leafPa (l : Leaf) (va : Nat) : Nat := l.base + va % 2 ^ l.bits

/-- The level at which a leaf stands. -/
def leafLevel (l : Leaf) : Nat := if l.bits = 16 then 0 else if l.bits = 21 then 1 else 2

/-- Whether a 64 KiB frame is quarantined (R143). -/
def frameBad (s : State) (frame : Nat) : Bool := (sfind s.quarantined frame).isSome

/-- The last case of R170's table: the frame of an address that a leaf maps is quarantined, whether the leaf came from a
walk or from a TLB (R143). -/
def soundFrame (s : State) (va : Nat) (l : Leaf) : Except Flt Leaf :=
  if frameBad s (leafPa l va / 2 ^ 16) then .error ⟨5, leafLevel l, 0⟩ else .ok l

/-- A walk from a table at a level down, with the pointers it passes (R168, R170). A poisoned entry ends it with the kind 0
and the entry's address (R130). -/
def walk (s : State) (asid va : Nat) : Nat → Nat → List PwcEnt → Except Flt Leaf × List PwcEnt
  | 0, table, acc =>
    let at' := table + 8 * field va 16 5
    let e := memNat s at' 8
    if rangePoisoned s.poison at' 8 then (.error ⟨0, 0, at'⟩, acc)
    else if e % 2 = 0 then (.error ⟨1, 0, e⟩, acc)
    else if !e.testBit 1 then (.error ⟨3, 0, e⟩, acc)
    else
      match leafCheck s 0 e with
      | .ok l => (soundFrame s va l, acc)
      | .error f => (.error f, acc)
  | n + 1, table, acc =>
    let at' := table + 8 * field va (levelShift (n + 1)) 9
    let e := memNat s at' 8
    if rangePoisoned s.poison at' 8 then (.error ⟨0, n + 1, at'⟩, acc)
    else if e % 2 = 0 then (.error ⟨1, n + 1, e⟩, acc)
    else if e.testBit 1 then
      match leafCheck s (n + 1) e with
      | .ok l => (soundFrame s va l, acc)
      | .error f => (.error f, acc)
    else
      let addr := field e 8 44 * 256
      let misaligned := if n + 1 = 1 then false else addr % 4096 != 0
      if field e 56 8 ≠ 0 ∨ field e 5 3 ≠ 0 ∨ misaligned ∨ !tableTarget addr then (.error ⟨3, n + 1, e⟩, acc)
      else walk s asid va n addr (⟨asid, n + 1, va / 2 ^ levelShift (n + 1), addr⟩ :: acc)

/-- Whether a TLB entry translates an address of an ASID. -/
def tlbHit (asid va : Nat) (e : TlbEnt) : Bool := e.asid == asid && e.vpn == va / 2 ^ e.leaf.bits

/-- Insert into a cache of a capacity; a full one gives up a victim. -/
def insertCap {α : Type} (cap tick : Nat) (x : α) (l : List α) : List α :=
  if l.length < cap then x :: l else x :: l.eraseIdx (Config.victim tick cap % cap)

/-- The set of the second-level TLB that an entry belongs to: 4,096 sets of 8 ways. -/
def tlbSetOf (e : TlbEnt) : Nat := Config.tlbSet e.asid e.vpn e.leaf.bits % 4096

/-- Insert into the second-level TLB: a full set gives up a victim. -/
def insertTlb2 (tick : Nat) (e : TlbEnt) (l : List TlbEnt) : List TlbEnt :=
  let set := l.filter fun x => tlbSetOf x == tlbSetOf e
  insertCap 8 tick e set ++ l.filter fun x => tlbSetOf x != tlbSetOf e

/-- The deepest cached pointer for an address: the level to walk from and its table. -/
def pwcStart (u : UnitSt) (asid va root : Nat) : Nat × Nat :=
  let at' (lv : Nat) := u.pwc.find? fun e => e.asid == asid && e.level == lv && e.tag == va / 2 ^ levelShift lv
  match at' 1, at' 2, at' 3, at' 4 with
  | some e, _, _, _ => (0, e.next)
  | none, some e, _, _ => (1, e.next)
  | none, none, some e, _ => (2, e.next)
  | none, none, none, some e => (3, e.next)
  | none, none, none, none => (4, root)

/-- The identity leaf of ASID 0, in which the firmware slots run (R210; assumption log 5). -/
def identityLeaf (va : Nat) : Leaf := ⟨va / 65536 * 65536, 16, 0, true, true, true, 0⟩

/-- The leaf of a virtual address, through the unit's TLBs and page-walk cache (R170). -/
def lookupLeaf (s : State) (asid va : Nat) : Except Flt Leaf × State :=
  if asid = 0 then (.ok (identityLeaf va), s)
  else
    let n := unitOf va
    let u := sget UnitSt.reset s.units n
    match u.tlb1.find? (tlbHit asid va) with
    | some e => (soundFrame s va e.leaf, s)
    | none =>
      match u.tlb2.find? (tlbHit asid va) with
      | some e =>
        (soundFrame s va e.leaf, { s with units := sset s.units n ({ u with tlb1 := insertCap 1024 s.tick e u.tlb1 }) })
      | none =>
        match ctxOf s asid with
        | none => (.error ⟨1, 4, 0⟩, s)
        | some c =>
          let st := pwcStart u asid va c.root
          let r := walk s asid va st.1 st.2 []
          let pwc := r.2.foldl (fun l e => insertCap 4096 s.tick e l) u.pwc
          match r.1 with
          | .error f =>
            (.error f, { s with
              units := sset s.units n ({ u with pwc := pwc })
              troubles := if f.kind = 0 then s.troubles ++ [.badWalk asid va f.entry] else s.troubles })
          | .ok l =>
            let e : TlbEnt := ⟨asid, va / 2 ^ l.bits, l⟩
            let u' : UnitSt := ⟨insertCap 1024 s.tick e u.tlb1, insertTlb2 s.tick e u.tlb2, pwc⟩
            (.ok l, { s with units := sset s.units n u' })

/-- The permission check after translation; atomics and waits on host pages are unsupported (R170, R185). -/
def permCheck (a : Access) (l : Leaf) : Option Nat :=
  let ok := match a with
    | .read => l.r
    | .write => l.w
    | .atomic => l.r && l.w
    | .fetch => l.x
    | .wait => l.r
  if !ok then some 2
  else if (a == .atomic || a == .wait) && targetOf l.base == .host then some 6
  else none

/-- The translation of an access: its leaf, or a fault (R170) (DESIGN CHOICE, log 5). -/
def translate (s : State) (asid va : Nat) (a : Access) : Except Flt Leaf × State :=
  match lookupLeaf s asid va with
  | (.error f, s') => (.error f, s')
  | (.ok l, s') =>
    match permCheck a l with
    | some k => (.error ⟨k, leafLevel l, l.entry⟩, s')
    | none => (.ok l, s')

/-- The held range an address lies in, by its place in State.holds (R174). -/
def heldBy (s : State) (asid va : Nat) : Option Nat :=
  (List.range s.holds.length).find? fun k =>
    match s.holds[k]? with
    | some h => h.asid == asid && decide (h.va ≤ va) && decide (va < h.va + h.len)
    | none => false

/-- Whether a write to an address is refused by a migration's freeze (R184). -/
def frozen (s : State) (asid va : Nat) : Bool :=
  match s.migration with
  | none => false
  | some m => m.asid == asid && va / 2 ^ m.bits == m.va / 2 ^ m.bits

/-- A write of an engine or an agent that the freeze refuses: its line is noted, for the count of writes retried (R180). -/
def noteRefused (va : Nat) (s : State) : State :=
  { s with migration := s.migration.map fun m => { m with refused := nsAdd m.refused (va / 128) } }

/-- How a peer can be reached now: through a port that is up, only through ports in recovery, or not at all (R22, R27). -/
inductive PeerPath where
  | up | recovering | down
  deriving DecidableEq, Repr

def peerOf (pa : Nat) : Nat := field pa 40 10

def peerPath (s : State) (devid : Nat) : PeerPath :=
  let ports := (sget [] s.routes devid).map fun e => sget Port.reset s.ports e.1
  if ports.any fun p => p.state == 2 then .up
  else if ports.any fun p => p.state == 3 then .recovering
  else .down

/-- The number of the hold that stands for waiting on a port to a peer, and what it names. -/
def peerHold (port devid : Nat) : Nat := 2 ^ 20 + 1024 * port + devid
def isPeerHold (h : Nat) : Bool := decide (2 ^ 20 ≤ h) && decide (h < 2 ^ 21)
def holdPort (h : Nat) : Nat := (h - 2 ^ 20) / 1024
def holdPeer (h : Nat) : Nat := h % 1024

/-- Who issued an access, for the event's body (R180). -/
structure Issuer where
  core : Nat
  client : Nat
  slot : Nat
  tag : Nat
  queue : Nat
  deriving DecidableEq, Repr

def accessCode : Access → Nat
  | .read => 0 | .write => 1 | .atomic => 2 | .fetch => 3 | .wait => 4

def regionKey (asid va : Nat) : Nat := asid * 2 ^ 41 + va / 2 ^ 16

/-- Report a translation fault: one event per ASID and 64 KiB region until it is resolved (R175, R180); the context counts
the faults reported (R172) (DEDUCED, log 26). -/
def reportFault (who : Issuer) (asid va : Nat) (a : Access) (f : Flt) (s : State) : State :=
  if f.kind = 0 ∨ nsHas s.reported (regionKey asid va) then s
  else
    let s1 := modCtx s asid fun c => { c with faults := c.faults + 1 }
    let body := leBytes 2 who.core ++ leBytes 1 who.client ++ leBytes 1 (accessCode a) ++ leBytes 1 f.kind
      ++ leBytes 1 f.level ++ leBytes 1 who.slot ++ [0] ++ leBytes 8 va
      ++ leBytes 8 (if f.kind = 2 ∨ f.kind = 5 then 0 else f.entry) ++ leBytes 2 who.tag ++ leBytes 2 who.queue
    postEvent 0x28 asid body { s1 with reported := nsAdd s1.reported (regionKey asid va) }

/-- The sidecar line of a frame enters the cache of the controller that owns the frame: 2,048 lines, of which a full cache
gives up a victim (DESIGN CHOICE, log 14). -/
def cacheSidecar (frame : Nat) (s : State) : State :=
  let mine := s.sidecar.filter fun e => Config.controllerOf e.1 % 16 == Config.controllerOf frame % 16
  if mine.length < 2048 then { s with sidecar := nsAdd s.sidecar frame }
  else
    let gone := (mine.getD (Config.victim s.tick 2048 % 2048) (frame, ())).1
    { s with sidecar := nsAdd (nsDel s.sidecar gone) frame, tick := s.tick + 1 }

/-- The first access to a compressed page that misses its controller's sidecar cache fetches its line (R183). -/
def touchSidecar (asid ck pa : Nat) (s : State) : State :=
  if ck = 0 ∨ nsHas s.sidecar (pa / 2 ^ 16) then s
  else modCtx (cacheSidecar (pa / 2 ^ 16) s) asid fun c => { c with sidecars := c.sidecars + 1 }

end Sys2Proof.Machine
end

