-- ==== Sys2Proof/Machine/Flits.lean ====
section
/-! DEFINITION. Ports and their flits: the forms sent, the replay window, the requests to peers (R12, R19, R21 to R23,
R27). Ports 18 and 19 are the two directions of the seam. -/

namespace Sys2Proof.Machine

def portOf (s : State) (n : Nat) : Port := sget Port.reset s.ports n
def modPort (n : Nat) (f : Port → Port) (s : State) : State :=
  { s with ports := sput Port.reset s.ports n (f (portOf s n)) }

/-- The lowest port number of the seam. -/
def seamPort : Nat := 18

/-- Whether a port carries flits: the seam always does. -/
def portUp (s : State) (n : Nat) : Bool := decide (seamPort ≤ n) || (portOf s n).state == 2

/-- The largest number of unacknowledged flits (R12, R21). -/
def windowMax (n : Nat) : Nat := if seamPort ≤ n then 256 else 512

def hasRoom (s : State) (n : Nat) : Bool := decide ((portOf s n).window.length < windowMax n)

/-! ### Forms (R19) -/

/-- CRC-64 over bytes, each byte's high bit first (DEDUCED, log 32). -/
def crc64 (bs : List Byte) : Nat :=
  (bs.foldl (fun c b => (List.range 8).foldl (fun c k => crcStep 64 0x42F0E1EBA9EA3693 c (if b.getLsbD (7 - k) then 1 else 0)) c)
    (2 ^ 64 - 1)) ^^^ (2 ^ 64 - 1)

/-- Whether a flit's length and CRC hold. -/
def flitSound (bs : List Byte) : Bool := bs.length == 256 && bytesAt bs 248 8 == crc64 (bs.take 248)

/-- The 256 bytes of a flit: header, payload, CRC-64 (R19). The header and the CRC stand little-endian (DESIGN CHOICE,
log 56: the rules number a header's bits and give no byte order). -/
def flitForm (seq ack kind vc devid : Nat) (payload : List Byte) : List Byte :=
  let h := seq % 4096 * 2 ^ 52 + ack % 4096 * 2 ^ 40 + kind % 16 * 2 ^ 36 + vc % 4 * 2 ^ 34 + devid % 1024 * 2 ^ 22
    + min 30 ((payload.length + 7) / 8) * 2 ^ 16
  let body := leBytes 8 h ++ fitBytes 240 payload
  body ++ leBytes 8 (crc64 body)

/-- The highest sequence a port has received in order. -/
def lastRx (p : Port) : Nat := (p.rxSeq + 4095) % 4096

/-- Bytes go on the line of a port; any flit acknowledges what was received in order (R21). -/
def transmit (bs : List Byte) (p : Port) : Port := { p with wire := p.wire ++ [bs], sinceAck := 0, ackedRx := lastRx p }

def flitBytes (p : Port) (f : Flit) : List Byte := flitForm f.seq (lastRx p) f.kind f.vc f.devid f.payload

/-- An idle flit, which takes no sequence number of its own (DEDUCED, log 32) and carries SEQ 0 (DESIGN CHOICE, log 56). -/
def sendIdle (p : Port) : Port := transmit (flitForm 0 (lastRx p) 0 3 p.peerid []) p

/-- A NAK that names the first sequence not accepted is sent, and flits are discarded until it arrives (R21). The NAK flit
names it in SEQ (DESIGN CHOICE, log 56). -/
def nakPort (p : Port) : Port :=
  { transmit (flitForm p.rxSeq (lastRx p) 4 3 p.peerid []) p with discarding := true, nakRx := some p.rxSeq }

def sendNak (n : Nat) (s : State) : State := modPort n nakPort s

/-! ### Sending (R21) -/

/-- A flit with the next sequence number enters a port's window, and goes out where the port is up. -/
def enterWindow (up : Bool) (f : Flit) (p : Port) : Port :=
  let g := { f with seq := p.nextSeq }
  let q := { p with window := p.window ++ [g], nextSeq := (p.nextSeq + 1) % 4096 }
  if up then transmit (flitBytes p g) q else q

def pushFlit (n : Nat) (f : Flit) (s : State) : State := modPort n (enterWindow (portUp s n) f) s

/-- Flits that waited for room enter the window, in order. -/
def drainOut (n : Nat) : Nat → State → State
  | 0, s => s
  | fuel + 1, s =>
    match (portOf s n).outq with
    | [] => s
    | f :: fs => if hasRoom s n then drainOut n fuel (pushFlit n f (modPort n (fun p => { p with outq := fs }) s)) else s

/-- A flit is to be sent: behind those that wait for room. -/
def sendFlit (n : Nat) (f : Flit) (s : State) : State :=
  drainOut n ((portOf s n).outq.length + 1) (modPort n (fun p => { p with outq := p.outq ++ [f] }) s)

/-- The flits of a window from a sequence on. -/
def fromSeq (seq : Nat) : List Flit → List Flit
  | [] => []
  | f :: fs => if f.seq = seq then f :: fs else fromSeq seq fs

/-- Every flit of the window from a sequence on goes out again, in order. -/
def resendFrom (seq : Nat) (p : Port) : Port := (fromSeq seq p.window).foldl (fun p f => transmit (flitBytes p f) p) p

/-! ### Requests to peers (R22, R23, R27) -/

/-- What becomes of an access to a line: it can proceed, it faults, it is held behind a range hold (R174) or on a port in
recovery or with a full window (R21, R22), a migration's freeze refuses it (R184), or no port leads to its peer (R27). -/
inductive LineRes where
  | ready
  | fault (f : Flt)
  | held (h : Nat)
  | refused
  | linkDown (pa : Nat)
  deriving DecidableEq, Repr

/-- The live ports that lead to a peer, those in recovery among them. -/
def livePorts (s : State) (devid : Nat) : List Nat :=
  (sget [] s.routes devid).filterMap fun e =>
    if (portOf s e.1).state == 2 || (portOf s e.1).state == 3 then some e.1 else none

/-- The port of a physical address: a hash of bits [51:12] among the live ones (R23); the function is not stated. -/
def portFor (s : State) (pa : Nat) : Option Nat :=
  match livePorts s (peerOf pa) with
  | [] => none
  | [n] => some n
  | l => l[Config.portHash (pa / 2 ^ 12 % 2 ^ 40) % l.length]?

/-- Whether a request for the line waits in a port's window. -/
def waitsInWindow (p : Port) (pa : Nat) : Bool :=
  p.window.any fun f => match f.req with | some r => r.waits && r.pa / 128 == pa / 128 | none => false

/-- Whether a physical address can be reached now (R21, R22, R27). -/
def reach (s : State) (pa : Nat) : LineRes :=
  if targetOf pa == .peer then
    match portFor s pa with
    | none => .linkDown pa
    | some n =>
      if (portOf s n).state == 2 && (hasRoom s n || waitsInWindow (portOf s n) pa) then .ready
      else .held (peerHold n (peerOf pa))
  else .ready

/-- A request for a peer's memory, one flit for an access of a line, its payload free (DESIGN CHOICE, log 56). `dma` names
the engine command that writes (1 copy, 4 link; its group and operation), if any: a link engine's travel as bulk flits (R461). -/
def reqFlit (dma : Option (Nat × Nat × Nat)) (tick asid core va pa : Nat) (waits : Bool) : Flit :=
  let bulk := match dma with | some d => d.1 == 4 | none => false
  { seq := 0, kind := if bulk then 3 else 1, vc := if bulk then 2 else 0, devid := peerOf pa
    payload := (Config.linkPayload tick).take 240, ckpt := false, start := 0
    bad := [], req := some ⟨asid, core, va, pa, waits, dma⟩ }

/-- The request that waited for the line waits no more. -/
def endWaitFor (pa : Nat) (p : Port) : Port :=
  { p with window := p.window.map fun f =>
      { f with req := f.req.map fun r => if r.pa / 128 = pa / 128 then { r with waits := false } else r } }

/-- An access asks for a physical address: where it lies in a peer the request enters the window of its port, also while
that is in recovery (R27), unless it stands there already. -/
def requestFor (dma : Option (Nat × Nat × Nat)) (asid core va pa : Nat) (s : State) : LineRes × State :=
  (reach s pa,
    if targetOf pa == .peer then
      match portFor s pa with
      | none => s
      | some n =>
        let ready := reach s pa == .ready
        if waitsInWindow (portOf s n) pa then (if ready then modPort n (endWaitFor pa) s else s)
        else if hasRoom s n then pushFlit n (reqFlit dma s.tick asid core va pa !ready) { s with tick := s.tick + 1 }
        else s
    else s)

def request (asid core va pa : Nat) (s : State) : LineRes × State := requestFor none asid core va pa s

/-- Whether a write of an engine command waits for the acknowledgement of the peer that performs it (R463). -/
def unacked (s : State) (dma : Nat × Nat × Nat) : Bool :=
  s.ports.any fun e => e.2.window.any fun f => match f.req with | some r => r.dma == some dma | none => false

/-- A write on its way to a physical address that nothing waits for: where that lies in a peer its request is sent, behind
those that wait for room. -/
def postWrite (asid core va pa : Nat) (s : State) : LineRes × State :=
  if targetOf pa == .peer then
    match portFor s pa with
    | none => (.linkDown pa, s)
    | some n => (.ready, sendFlit n (reqFlit none s.tick asid core va pa false) { s with tick := s.tick + 1 })
  else (.ready, s)

end Sys2Proof.Machine
end

