-- ==== Sys2Proof/Machine/Cache.lean ====
section
/-! DEFINITION. L1 and cluster L2 (R154, R161 to R164), write-back, release and acquire at a scope (R187, R192, R196,
R197), range invalidation (R173). -/

namespace Sys2Proof.Machine

/-- The cluster and die of a core (R10, R53). -/
def clusterOf (core : Nat) : Nat := core / 16
def dieOf (core : Nat) : Nat := core / 16 / 12

def coreSt (s : State) (k : Nat) : CoreSt := sget CoreSt.reset s.cores k
def clusterSt (s : State) (k : Nat) : ClusterSt := sget ClusterSt.reset s.clusters k
def putCore (s : State) (k : Nat) (c : CoreSt) : State := { s with cores := sput CoreSt.reset s.cores k c }
def putCluster (s : State) (k : Nat) (c : ClusterSt) : State := { s with clusters := sput ClusterSt.reset s.clusters k c }
def modCore (s : State) (k : Nat) (f : CoreSt → CoreSt) : State := putCore s k (f (coreSt s k))
def modCluster (s : State) (k : Nat) (f : ClusterSt → ClusterSt) : State := putCluster s k (f (clusterSt s k))

/-- The tag of a line: its number and ASID (R154, R161). -/
def lineKey (asid va : Nat) : Nat := va / 128 * 65536 + asid
def keyVa (k : Nat) : Nat := k / 65536 * 128
def keyAsid (k : Nat) : Nat := k % 65536

/-- The slice of an address (R161). -/
def sliceOf (va : Nat) : Nat := field va 7 2 ^^^ field va 11 2

def l2Line (s : State) (cl asid va : Nat) : Option L2Line := sfind (clusterSt s cl).l2 (lineKey asid va)
def putL2 (s : State) (cl key : Nat) (ln : L2Line) : State :=
  modCluster s cl fun c => { c with l2 := sset c.l2 key ln }
def dropL2 (s : State) (cl key : Nat) : State := modCluster s cl fun c => { c with l2 := sdel c.l2 key }
def dropL1 (s : State) (core key : Nat) : State := modCore s core fun c => { c with l1 := sdel c.l1 key }

/-- The 128 bytes are all zero. -/
def allZero (bs : List Byte) : Bool := bs.all fun b => b == 0

/-- The binding an address lies in (R201). -/
def bindingAt (s : State) (asid va : Nat) : Option Binding :=
  (ctxOf s asid).bind fun c => c.bindings.find? fun b => decide (b.base ≤ va) && decide (va < b.base + b.len)

/-- A trouble of the step, for its end. -/
def addTrouble (t : Trouble) (s : State) : State := { s with troubles := s.troubles ++ [t] }

/-- What a look at a translation costs the context where its walk meets a poisoned entry (R130). -/
def noteWalk (asid va : Nat) (s : State) : State := { s with troubles := (lookupLeaf s asid va).2.troubles }

/-- The troubles of a written-back line's bad sectors (R145): their places in memory are poisoned. -/
def noteBad (cl asid va pa bad : Nat) (s : State) : State :=
  (List.range 4).foldl (fun s k =>
    if bad.testBit k then addTrouble (.badSector cl asid (va + 32 * k) (pa + 32 * k)) s else s) s

/-- A line's dirty bytes arrive where its leaf says: a sector that is poisoned or found bad arrives poisoned (R131, R145);
at a peer that no port leads to they are lost, and their context with them (R27, R185). -/
def writeHome (cl asid va : Nat) (l : Leaf) (ln : L2Line) (s : State) : State :=
  let pa := leafPa l va
  match postWrite asid (16 * cl) va pa s with
  | (.linkDown _, s1) => addTrouble (.linkDown asid (4 * cl + sliceOf va) va pa) s1
  | (_, s1) =>
    noteBad cl asid va pa ln.bad
      (ctrlWriteLine (touchSidecar asid l.ck pa s1) l.ck pa ln.dirty ln.data ((ln.poison ||| ln.bad) &&& sectorsTouched ln.dirty))

/-- Write a line's dirty bytes back under the translation in force (R164, R192); a translation that faults loses them and
posts event 0x2A (R173, R180). -/
def writeBack (s : State) (cl key : Nat) : State :=
  match sfind (clusterSt s cl).l2 key with
  | none => s
  | some ln =>
    if ln.dirty = 0 then s
    else
      let va := keyVa key
      let asid := keyAsid key
      let s0 := putL2 s cl key { ln with dirty := 0, bad := 0 }
      match lookupLeaf s0 asid va with
      | (.ok l, s1) => writeHome cl asid va l ln s1
      | (.error _, s1) =>
        let lost := ((List.range 4).filter fun k => (sectorsTouched ln.dirty).testBit k).length
        postEvent 0x2A asid (leBytes 8 va ++ leBytes 4 lost) s1

/-- Write back and drop a line. -/
def evictLine (s : State) (cl key : Nat) : State := dropL2 (writeBack s cl key) cl key

/-- The keys of a cluster's lines that a test picks. -/
def linesWhere (s : State) (cl : Nat) (p : Nat → L2Line → Bool) : List Nat :=
  ((clusterSt s cl).l2.filter fun e => p e.1 e.2).map fun e => e.1

def writeBackWhere (s : State) (cl : Nat) (p : Nat → L2Line → Bool) : State :=
  (linesWhere s cl p).foldl (fun s k => writeBack s cl k) s
def evictWhere (s : State) (cl : Nat) (p : Nat → L2Line → Bool) : State :=
  (linesWhere s cl p).foldl (fun s k => evictLine s cl k) s
def dropL1Where (s : State) (core : Nat) (p : Nat → Bool) : State :=
  modCore s core fun c => { c with l1 := c.l1.filter fun e => !p e.1 }
def dropL1All (s : State) (p : Nat → Bool) : State :=
  { s with cores := s.cores.filterMap fun e =>
      let c := { e.2 with l1 := e.2.l1.filter fun x => !p x.1 }
      if c = CoreSt.reset then none else some (e.1, c) }

/-- Whether a line key lies in a range of an ASID. -/
def keyInRange (asid va len key : Nat) : Bool :=
  keyAsid key == asid && decide (keyVa key < va + len) && decide (va < keyVa key + 128)

/-- Write back, then invalidate, every line of a range in every cluster, and its L1 lines (R173, R201). -/
def flushRange (s : State) (asid va len : Nat) : State :=
  let s1 := (List.range 24).foldl (fun s cl => evictWhere s cl fun k _ => keyInRange asid va len k) s
  dropL1All s1 (keyInRange asid va len)

/-- Drop the TLB and page-walk cache entries that meet a range (R173). -/
def dropTranslations (s : State) (asid va len : Nat) : State :=
  let meets (a : Nat) (bits tag : Nat) : Bool :=
    a == asid && rangesMeet (tag * 2 ^ bits) (2 ^ bits) va len
  { s with units := s.units.map fun u => (u.1,
      { tlb1 := u.2.tlb1.filter fun e => !meets e.asid e.leaf.bits e.vpn
        tlb2 := u.2.tlb2.filter fun e => !meets e.asid e.leaf.bits e.vpn
        pwc := u.2.pwc.filter fun e => !meets e.asid (levelShift e.level) e.tag }) }

/-- A release of an ASID's lines by a cluster at a scope (R197): below die scope the stores stand in the L2 already. -/
def releaseScope (s : State) (core asid scope : Nat) : State :=
  if scope < 3 then s else writeBackWhere s (clusterOf core) fun k _ => keyAsid k == asid

/-- An acquire at a scope (R197). -/
def acquireScope (s : State) (core asid scope : Nat) : State :=
  if scope < 2 then s
  else
    let s1 := if scope < 3 then s else evictWhere s (clusterOf core) fun k _ => keyAsid k == asid
    dropL1Where s1 core fun k => keyAsid k == asid

def isWrite : Access → Bool
  | .write => true
  | .atomic => true
  | _ => false

/-- The permissions copied into a line (R161, R162). -/
def linePerm (a : Access) (ln : L2Line) : LineRes :=
  let ok := match a with
    | .read => ln.r
    | .write => ln.w
    | .atomic => ln.r && ln.w
    | .fetch => ln.x
    | .wait => ln.r
  if !ok then .fault ⟨2, 0, 0⟩
  else if (a == .atomic || a == .wait) && ln.host then .fault ⟨6, 0, ln.entry⟩
  else .ready

/-- The number of the hold that stands for waiting on the wash of a slice (R144). -/
def washHold (cl slice : Nat) : Nat := 2 ^ 19 + 4 * cl + slice

/-- The set of a line within its slice, of 2,048; which set a line has is not stated (R161). -/
def l2SetOf (key : Nat) : Nat := Config.l2Set (keyAsid key) (keyVa key / 128) % 2048

/-- Whether two lines share a set of a slice. -/
def sameSet (k j : Nat) : Bool := sliceOf (keyVa k) == sliceOf (keyVa j) && l2SetOf k == l2SetOf j

/-- Room for a new line in its set of 16 ways: a full set gives up a line that is not kept (R424) (DESIGN CHOICE, log 14). -/
def makeRoom (s : State) (cl key : Nat) : State :=
  let set := (clusterSt s cl).l2.filter fun e => sameSet e.1 key && e.1 != key
  if set.length < 16 then s
  else
    let free := set.filter fun e => e.2.kept.isNone
    match free[Config.victim s.tick free.length % free.length]? with
    | some e => { evictLine s cl e.1 with tick := s.tick + 1 }
    | none => s

/-- The sectors of a line that an access must find in it: all but those that a store writes completely (R162). -/
def missing (ln : Option L2Line) (full : Nat) : Nat :=
  let have' := match ln with | some l => l.valid | none => 0
  (List.range 4).foldl (fun m k => if have'.testBit k || full.testBit k then m else m + 2 ^ k) 0

/-- The byte mask of a mask of sectors. -/
def sectorBytes (m : Nat) : Nat := (List.range 4).foldl (fun k i => if m.testBit i then k + (2 ^ 32 - 1) * 2 ^ (32 * i) else k) 0

/-- A new line under a leaf, none of whose sectors is valid. -/
def emptyLine (s : State) (asid va : Nat) (l : Leaf) : L2Line :=
  { data := List.replicate 128 0, dirty := 0, r := l.r, w := l.w, x := l.x, zero := false, valid := 0, poison := 0, bad := 0
    host := targetOf (leafPa l va) == .host, entry := l.entry, bind := (bindingAt s asid va).map fun b => b.num, kept := none }

/-- The missing sectors of a line read from memory: data, poison, and the zero flag of a line that is all zero (R163). -/
def fillLine (ln : L2Line) (miss : Nat) (d : List Byte × Nat) : L2Line :=
  let data := mergeBytes 0 (sectorBytes miss) ln.data d.1
  let valid := ln.valid ||| miss
  { ln with data := data, valid := valid, poison := ln.poison ||| (d.2 &&& miss), zero := valid == 15 && allZero data }

/-- A line's missing sectors enter a cluster's L2 under a leaf. -/
def fillFrom (s : State) (cl asid va full : Nat) (l : Leaf) : LineRes × State :=
  let key := lineKey asid va
  let old := sfind (clusterSt s cl).l2 key
  let miss := missing old full
  let pa := leafPa l va / 128 * 128
  let r := if miss = 0 then (.ready, s) else request asid (16 * cl) va pa s
  if r.1 ≠ .ready then r
  else
    let s1 := if old.isSome then r.2 else makeRoom r.2 cl key
    let s2 := if miss = 0 then s1 else touchSidecar asid l.ck pa s1
    let ln := fillLine (old.getD (emptyLine s2 asid va l)) miss (ctrlReadLine s2 l.ck pa)
    (.ready, { putL2 s2 cl key ln with residency := nsAdd s2.residency ((4 * cl + sliceOf va) * 65536 + asid) })

/-- A dirty sector whose check bits fail is found as its line is accessed (R145): its owner dies as the step ends, so the
access itself consumes nothing. -/
def findBad (s : State) (cl key : Nat) (ln : L2Line) : State := if ln.bad = 0 then s else writeBack s cl key

/-- Bring a line into a cluster's L2 for an access (R161 to R163); `full` are the sectors that it writes completely. -/
def ensureFor (s : State) (cl asid va full : Nat) (a : Access) : LineRes × State :=
  if isWrite a && frozen s asid va then (.refused, s)
  else if nsHas (clusterSt s cl).washing (sliceOf va) then (.held (washHold cl (sliceOf va)), s)
  else
    let old := l2Line s cl asid va
    match old.map (linePerm a) with
    | some (.fault f) => (.fault f, s)
    | _ =>
      let s := match old with
        | some ln => findBad s cl (lineKey asid va) ln
        | none => s
      if old.isSome && missing old full == 0 then (.ready, s)
      else
        match heldBy s asid va with
        | some h => (.held h, s)
        | none =>
          match translate s asid va a with
          | (.error f, s1) => (.fault f, s1)
          | (.ok l, s1) => fillFrom s1 cl asid va full l

def ensureLine (s : State) (cl asid va : Nat) (a : Access) : LineRes × State := ensureFor s cl asid va 0 a

/-- The ways of a core's L1: its banks in L1 mode (R154). -/
def l1Ways (c : CoreSt) : List Nat := (List.range 16).filter fun b => c.bankMode.getD b 0 == 0

/-- The set of an L1 line: virtual address bits [14:7] (R154). -/
def l1Set (key : Nat) : Nat := key / 65536 % 256

/-- Allocate an L1 line: in the lowest free way of its set, or in that of a victim (DESIGN CHOICE, log 14). -/
def fillL1 (s : State) (core key : Nat) (data : List Byte) : State :=
  let c := coreSt s core
  let l1 := sdel c.l1 key
  let set := l1.filter fun e => l1Set e.1 == l1Set key
  match (l1Ways c).find? fun b => !set.any fun e => e.2.1 == b with
  | some b => putCore s core { c with l1 := sset l1 key (b, data) }
  | none =>
    let free := set.filter fun e => (l1Ways c).contains e.2.1
    match free[Config.victim s.tick free.length % free.length]? with
    | some e => { putCore s core { c with l1 := sset (sdel l1 e.1) key (e.2.1, data) } with tick := s.tick + 1 }
    | none => s

/-- The bytes of a line that a core's L1 holds. -/
def l1Data (s : State) (core key : Nat) : Option (List Byte) := (sfind (coreSt s core).l1 key).map fun e => e.2

/-- A write of bytes to a line that a core's L1 may hold updates its copy (R154). -/
def patchL1 (s : State) (core key mask : Nat) (data : List Byte) : State :=
  match sfind (coreSt s core).l1 key with
  | some old => modCore s core fun c => { c with l1 := sset c.l1 key (old.1, mergeBytes 0 mask old.2 data) }
  | none => s

/-- A read of a line by a core: L1, then L2, then memory (R154, R161). The line's bytes and sector poison. -/
def readLine (s : State) (core asid va : Nat) : LineRes × State × List Byte × Nat :=
  match l1Data s core (lineKey asid va) with
  | some d => (.ready, s, d, 0)
  | none =>
    match ensureLine s (clusterOf core) asid va .read with
    | (.ready, s1) =>
      match l2Line s1 (clusterOf core) asid va with
      | none => (.ready, s1, List.replicate 128 0, 0)
      | some ln =>
        (.ready, if ln.poison = 0 then fillL1 s1 core (lineKey asid va) ln.data else s1, ln.data, ln.poison)
    | (r, s1) => (r, s1, [], 0)

/-- After a write to a cluster's L2: every wait there on a word it touched is tested (R436). -/
def testWaitsL2 (cl asid va mask : Nat) (data : List Byte) (s : State) : State :=
  if s.waits.isEmpty then s
  else
    { s with waits := s.waits.map fun w =>
        let n := if w.w64 then 8 else 4
        if w.cluster = some cl ∧ w.sat = none ∧ w.asid = asid ∧ w.va / 128 = va / 128
            ∧ mask / 2 ^ (w.va % 128) % 2 ^ n ≠ 0 then
          let x := bytesAt data (w.va % 128) n
          if waitHolds w.cond x w.cmp then { w with sat := some x } else w
        else w }

/-- The poison of a line's sectors after a masked write: sectors written whole lose it, `more` gain it (R131). -/
def poisonAfter (old mask more : Nat) : Nat :=
  (List.range 4).foldl (fun m k =>
    if more.testBit k || (old.testBit k && !(sectorsFull mask).testBit k) then m + 2 ^ k else m) 0

/-- A line after a masked write (R163): the sectors written whole are valid. -/
def patchLine (ln : L2Line) (mask : Nat) (data : List Byte) (more : Nat) : L2Line :=
  let d := mergeBytes 0 mask ln.data data
  { ln with
    data := d, valid := ln.valid ||| sectorsFull mask, poison := poisonAfter ln.poison mask more, bad := poisonAfter ln.bad mask 0
    zero := decide (mask = 2 ^ 128 - 1) && allZero d }

/-- A masked write to a line held in a cluster's L2 (R163, R192): written bytes become dirty; the core's L1 copy is
updated (R154), and waits on the words are tested. -/
def writeLine (s : State) (core asid va mask : Nat) (data : List Byte) : State :=
  let cl := clusterOf core
  let key := lineKey asid va
  match sfind (clusterSt s cl).l2 key with
  | none => s
  | some ln =>
    let ln' := { patchLine ln mask data 0 with dirty := ln.dirty ||| mask }
    testWaitsL2 cl asid va mask ln'.data (patchL1 (putL2 s cl key ln') core key mask data)

/-- Before an access at the memory controller: the issuing cluster writes back its dirty bytes of the line and drops it,
and the core drops its L1 copy (R193). -/
def surrenderLine (s : State) (core asid va : Nat) : State :=
  dropL1 (evictLine s (clusterOf core) (lineKey asid va)) core (lineKey asid va)

/-- An engine's read at the controller: the cluster writes back its dirty bytes of the line first (R456, R461). -/
def engineReadLine (s : State) (core asid va : Nat) : LineRes × State × List Byte × Nat :=
  let s0 := writeBack s (clusterOf core) (lineKey asid va)
  match heldBy s0 asid va with
  | some h => (.held h, s0, [], 0)
  | none =>
    match translate s0 asid va .read with
    | (.error f, s1) => (.fault f, s1, [], 0)
    | (.ok l, s1) =>
      match request asid core va (leafPa l va) s1 with
      | (.ready, s2) =>
        let s3 := touchSidecar asid l.ck (leafPa l va) s2
        let d := ctrlReadLine s3 l.ck (leafPa l va)
        (.ready, s3, d.1, d.2)
      | (r, s2) => (r, s2, [], 0)

/-- An engine's masked write of a line at the controller, which also updates the copy its cluster L2 holds (R456, R461).
`poison` names the sectors that become poisoned (R131); `dma` the command that writes, if any. -/
def engineWriteLineFor (dma : Option (Nat × Nat × Nat)) (s : State) (core asid va mask : Nat) (data : List Byte)
    (poison : Nat) : LineRes × State :=
  let cl := clusterOf core
  let key := lineKey asid va
  if frozen s asid va then (.refused, noteRefused va s)
  else match heldBy s asid va with
  | some h => (.held h, s)
  | none =>
    match translate s asid va .write with
    | (.error f, s1) => (.fault f, s1)
    | (.ok l, s1) =>
      let r := requestFor dma asid core va (leafPa l va) s1
      if r.1 ≠ .ready then r else
      let s2 := touchSidecar asid l.ck (leafPa l va) r.2
      let s3 := ctrlWriteLine s2 l.ck (leafPa l va) mask data poison
      let s4 := match sfind (clusterSt s3 cl).l2 key with
        | none => s3
        | some ln =>
          let ln' := { patchLine ln mask data poison with dirty := ln.dirty - (ln.dirty &&& mask) }
          testWaitsL2 cl asid va mask ln'.data (putL2 s3 cl key ln')
      (.ready, patchL1 s4 core key mask data)

def engineWriteLine (s : State) (core asid va mask : Nat) (data : List Byte) (poison : Nat) : LineRes × State :=
  engineWriteLineFor none s core asid va mask data poison

/-- Engine bytes read from global memory, line by line; the first obstacle stops the read. The poison tells whether any
byte lies in a poisoned sector. -/
def engineRead (core asid : Nat) : Nat → Nat → Nat → State → LineRes × State × List Byte × Bool
  | 0, _, _, s => (.ready, s, [], false)
  | fuel + 1, va, n, s =>
    if n = 0 then (.ready, s, [], false)
    else
      let k := min n (128 - va % 128)
      match engineReadLine s core asid va with
      | (.ready, s1, d, p) =>
        let bs := (d.drop (va % 128)).take k
        let bad := p &&& sectorsTouched (byteMask (va % 128) k) != 0
        match engineRead core asid fuel (va + k) (n - k) s1 with
        | (r, s2, rest, q) => (r, s2, bs ++ rest, bad || q)
      | (r, s1, _, _) => (r, s1, [], false)

/-- The first address of a range that lies in a poisoned sector, as an engine's reads of its 32-byte sectors show it. -/
def poisonedIn (core asid va n : Nat) (s : State) : Nat :=
  let at' (k : Nat) : Nat := max va ((va / 32 + k) * 32)
  (((List.range (n / 32 + 2)).map at').find? fun a =>
    decide (a < va + n) && (engineRead core asid 2 (a % 2 ^ 57) 1 s).2.2.2).getD va % 2 ^ 57

/-- Engine bytes written to global memory, line by line; the first obstacle stops the write. -/
def engineWrite (core asid : Nat) : List (Nat × List Byte) → Bool → State → LineRes × State
  | [], _, s => (.ready, s)
  | (va, bs) :: ps, bad, s =>
    let mask := byteMask (va % 128) bs.length
    match engineWriteLine s core asid va mask (lineAt (va % 128) bs) (if bad then sectorsTouched mask else 0) with
    | (.ready, s1) => engineWrite core asid ps bad s1
    | (r, s1) => (r, s1)

end Sys2Proof.Machine
end

