-- ==== Sys2Proof/Machine/Contain.lean ====
section
/-! DEFINITION. Keys of groups, workgroups and runs; freeing and discarding work; consumption of poison, rollback,
address-space kill and device-fatal errors (R129 to R142). -/

namespace Sys2Proof.Machine

/-- The keys of State's maps: a group by core and slot, a workgroup by core and number, a run by core and quarter. -/
def gkey (core slot : Nat) : Nat := core * 256 + slot
def wkey (core n : Nat) : Nat := core * 256 + n
def rkey (core q : Nat) : Nat := core * 4 + q
def keyCore (k : Nat) : Nat := k / 256
def keyNum (k : Nat) : Nat := k % 256

/-- The number of the firmware slot and of its workgroup (R53). -/
def fwSlot : Nat := 192

def modGroup (s : State) (gk : Nat) (f : Group → Group) : State := { s with groups := smod s.groups gk f }
def modWg (s : State) (wk : Nat) (f : Wg → Wg) : State := { s with wgs := smod s.wgs wk f }
def modRun (s : State) (rk : Nat) (f : Run → Run) : State := { s with runs := smod s.runs rk f }
def modMx (s : State) (core : Nat) (f : MxSt → MxSt) : State :=
  { s with mx := sput MxSt.reset s.mx core (f (sget MxSt.reset s.mx core)) }
def modSw (s : State) (core : Nat) (f : SwSt → SwSt) : State :=
  { s with sw := sput SwSt.reset s.sw core (f (sget SwSt.reset s.sw core)) }
def modQueue (s : State) (q : Nat) (f : Queue → Queue) : State := { s with queues := smod s.queues q f }

/-! ### The work board in memory (R80) -/

/-- Where the 128-byte launch record lies in the firmware region (DESIGN CHOICE, log 55: the rules place the board in HBM
and give no address). -/
def boardAddr (r : Nat) : Nat := firmwareBase + 2 ^ 29 + 128 * r

/-- The bytes of a launch record (R80). -/
def recBytes (r : LaunchRec) : List Byte :=
  leBytes 2 r.asid ++ leBytes 2 r.queue ++ leBytes 2 r.tag
    ++ leBytes 1 (r.prio + (if r.restart then 4 else 0) + (if r.irq then 8 else 0) + 16 * r.csop)
    ++ leBytes 1 (4 * r.brows + r.bcols) ++ leBytes 8 r.kdesc ++ leBytes 8 r.args
    ++ leBytes 4 r.gx ++ leBytes 4 r.gy ++ leBytes 4 r.gz ++ leBytes 4 r.dynscr
    ++ leBytes 8 r.total ++ leBytes 8 r.ticket ++ leBytes 8 r.done ++ leBytes 8 r.csig ++ leBytes 8 r.cval
    ++ leBytes 8 r.posted ++ leBytes 4 r.st ++ List.replicate 36 0

/-- Memory with the image of a record as the board now holds it. -/
def boardImage (board : List (Nat × LaunchRec)) (r : Nat) (mem : List Host.Cell) : List Host.Cell :=
  match sfind board r with
  | some x => putBytes mem (boardAddr r) (recBytes x)
  | none => mem

/-- Memory with STATE 0 in the image of a record that is free. -/
def freeImage (mem : List Host.Cell) (r : Nat) : List Host.Cell := putBytes mem (boardAddr r + 0x58) (leBytes 4 0)

def putRec (s : State) (r : Nat) (x : LaunchRec) : State :=
  { s with board := sset s.board r x, mem := boardImage (sset s.board r x) r s.mem }

def modRec (s : State) (r : Nat) (f : LaunchRec → LaunchRec) : State :=
  { s with board := smod s.board r f, mem := boardImage (smod s.board r f) r s.mem }

def freeRec (s : State) (r : Nat) : State := { s with board := sdel s.board r, mem := freeImage s.mem r }

/-- The key of a group's workgroup. -/
def wgOf (gk : Nat) (g : Group) : Nat := gk / 256 * 256 + g.wg

/-- The keys of a workgroup's groups that have not retired. -/
def groupsOfWg (s : State) (wk : Nat) : List Nat :=
  (s.groups.filter fun e => wgOf e.1 e.2 == wk).map fun e => e.1

/-- Discard a group: its run, its parked accesses and its waits go with it. -/
def dropGroup (gk : Nat) (s : State) : State :=
  { s with
    groups := sdel s.groups gk
    runs := s.runs.filter fun e => !(e.1 / 4 == keyCore gk && e.2.slot == keyNum gk)
    parked := s.parked.filter fun p => p.group != gk
    waits := s.waits.filter fun w => w.group != gk }

/-- A matrix engine without the commands that a test picks, and without the stationary slots of operations that have gone. -/
def dropMx (p : Cmd → Bool) (x : MxSt) : MxSt :=
  let q := x.queue.filter fun y => !p y.cmd
  { x with queue := q, slots := x.slots.filter fun y => q.any fun z => z.opseq == y.2.op }

/-- Discard the engine commands that a test picks, in every engine of every core and die. -/
def dropCmds (p : Cmd → Bool) (s : State) : State :=
  { s with
    mx := s.mx.map fun e => (e.1, dropMx p e.2)
    cp := s.cp.map fun e => (e.1, e.2.filter fun x => !p x.cmd)
    lk := s.lk.map fun e => (e.1, e.2.filter fun x => !p x.cmd) }

/-- The sweep engine of a core forgets the workgroup it serves. -/
def dropSweep (wk : Nat) (s : State) : State :=
  if (sget SwSt.reset s.sw (keyCore wk)).wg = some (keyNum wk) then modSw s (keyCore wk) fun _ => SwSt.reset else s

/-! ### Banks of a core (R96, R155 to R158) -/

/-- The bytes of scratch-space bank b: its place in the scratch space (R155). -/
def bankBase (b : Nat) : Nat := 32768 * (15 - b)

/-- Whether some workgroup of the core holds a granule of a bank. -/
def bankAllotted (s : State) (core b : Nat) : Bool :=
  s.wgs.any fun e => keyCore e.1 == core && rangesMeet e.2.scratchOff e.2.scratchLen (bankBase b) 32768

/-- Whether a bank in FIFO mode is bound to a workgroup's store buffer. -/
def fifoBound (s : State) (core b : Nat) : Bool := s.wgs.any fun e => keyCore e.1 == core && e.2.fifo == b

/-- Whether the table of R158 accepts a switch. -/
def switchOk (s : State) (core b m : Nat) : Bool :=
  match (coreSt s core).bankMode.getD b 0 with
  | 0 => true
  | 1 => !bankAllotted s core b
  | _ => !fifoBound s core b && m != 3

/-- One bank's request (R157, R158): mode 3 and the bank's own mode change nothing; a pending bank ignores it. -/
def switchBank (core m : Nat) (s : State) (b : Nat) : State :=
  let c := coreSt s core
  if 3 ≤ m ∨ c.bankMode.getD b 0 = m ∨ (sfind c.bankFrom b).isSome ∨ b < 2 ∨ !switchOk s core b m then s
  else modCore s core fun c =>
    { c with bankMode := setAt c.bankMode b m, bankFrom := sset c.bankFrom b (c.bankMode.getD b 0) }

/-- The bytes of a core's scratch space: its scratchpad banks, from bank 15 down (R96, R155). -/
def scratchTop (c : CoreSt) : Nat :=
  32768 * ((List.range 14).takeWhile fun k => c.bankMode.getD (15 - k) 0 == 1).length

/-- Scratch banks at the end of the scratch space whose granules are all free return to L1; one that is still switching
does so when its switch is complete (R96). -/
def giveBack (core : Nat) (s : State) : State := iter 14 (fun _ s => giveOne core s) s
where giveOne (core : Nat) (s : State) : State :=
  let c := coreSt s core
  let n := scratchTop c / 32768
  let b := 16 - n
  if n = 0 then s
  else if (sfind c.bankFrom b).isSome then modCore s core fun c => { c with owed := true }
  else switchBank core 0 s b

/-- A FIFO bank goes back to L1; one that is still switching does so when its switch is complete (R96). -/
def giveFifo (core b : Nat) (s : State) : State :=
  if b = 0 then s
  else if (sfind (coreSt s core).bankFrom b).isSome then modCore s core fun c => { c with owedFifo := nsAdd c.owedFifo b }
  else switchBank core 0 s b

/-- Free a workgroup's resources: slots, runs, barriers; its FIFO bank, and the scratch banks it leaves free at the end of
the scratch space, return to L1 (R96, R115). -/
def freeWg (wk : Nat) (s : State) : State :=
  match sfind s.wgs wk with
  | none => s
  | some w =>
    let core := keyCore wk
    let s1 := (groupsOfWg s wk).foldl (fun s gk => dropGroup gk s) s
    let s2 := { dropSweep wk (dropCmds (fun c => c.wg == wk) s1) with
      wgs := sdel s.wgs wk
      drains := s.drains.filter fun d => !(d.core == core && d.wg == keyNum wk) }
    giveBack core (giveFifo core w.fifo s2)

/-- The lease a core's matrix engine stands in. -/
def leaseOf (s : State) (core : Nat) : Option Lease := s.leases.find? fun l => l.members.any fun m => m.1 == core

/-- The links of a lease are released: both configurations of its members clear, and their links hold no token (R116 step 4). -/
def releaseLinks (l : Lease) (s : State) : State :=
  l.members.foldl (fun s m =>
    modMx s m.1 fun x =>
      { x with
        bonded := false, relIssued := false, itr := 1, itc := 1, cfg0 := BondCfg.single, cfg1 := BondCfg.single
        stopped := false, past := [], bondOps := 0, rx := [], tx := [], resend := [] }) s

/-- End a lease: its links are released, and the rectangle is placeable again (R107, R116, R449). -/
def endLease (l : Lease) (s : State) : State :=
  let s1 := releaseLinks l s
  { s1 with leases := s1.leases.filter fun x => !(x.record == l.record && x.ticket == l.ticket) }

/-- The workgroups of a gang that have not retired, or the workgroup alone. -/
def gangOf (s : State) (wk : Nat) : List Nat :=
  match sfind s.wgs wk with
  | none => []
  | some w =>
    if w.bonded then
      (s.wgs.filter fun e => e.2.bonded && e.2.record == w.record && e.2.ticket == w.ticket && e.2.asid == w.asid).map
        fun e => e.1
    else [wk]

/-- The lease of a workgroup's gang. -/
def gangLease (s : State) (w : Wg) : Option Lease :=
  s.leases.find? fun l => l.record == w.record && l.ticket == w.ticket

def tagOf (s : State) (record : Nat) : Nat := match sfind s.board record with | some r => r.tag | none => 0
def queueOf (s : State) (record : Nat) : Nat := match sfind s.board record with | some r => r.queue | none => 0

/-- Steps 2 and 3 of a kill for one ASID (R139): groups and engine commands go, leases are broken, nothing is saved. -/
def discardWork (asid : Nat) (s : State) : State :=
  let mine := s.wgs.filter fun e => e.2.asid == asid
  let broken := s.leases.filter fun l => mine.any fun e => e.2.record == l.record && e.2.ticket == l.ticket && e.2.bonded
  let s1 := mine.foldl (fun s e => freeWg e.1 s) s
  let s2 := broken.foldl (fun s l => endLease l s) s1
  dropCmds (fun c => c.asid == asid) s2

/-- Step 4 of a kill: save records and save-list entries of the ASID are freed. -/
def discardSaves (asid : Nat) (s : State) : State :=
  { s with
    saves := s.saves.filter fun e => match sfind s.board e.record with | some r => r.asid != asid | none => true
    images := s.images.filter fun e => e.2.wg.asid != asid }

/-- Step 5 of a kill, or the end of a context: its lines are written back and invalidated, its translations go. -/
def purgeCaches (asid : Nat) (s : State) : State :=
  let s1 := (List.range 24).foldl (fun s cl => evictWhere s cl fun k _ => keyAsid k == asid) s
  let s2 := dropL1All s1 fun k => keyAsid k == asid
  { s2 with units := s2.units.map fun u => (u.1,
      { tlb1 := u.2.tlb1.filter fun e => e.asid != asid
        tlb2 := u.2.tlb2.filter fun e => e.asid != asid
        pwc := u.2.pwc.filter fun e => e.asid != asid }) }

/-- An address-space kill (R139): steps 1 to 6; step 7, the event, is KILL_COMPLETE's. A second cause while the context
stands killed posts nothing (R140) (DEDUCED, log 39). -/
def killContext (asid cause place va pa : Nat) (s : State) : State :=
  match ctxOf s asid with
  | none => s
  | some c =>
    if c.killed then s
    else
      let s1 := modCtx s asid fun c => { c with killed := true }
      let s2 := purgeCaches asid (discardSaves asid (discardWork asid s1))
      { s2 with
        boot := { s2.boot with killCount := min (s2.boot.killCount + 1) 0xFFFF }
        claims := s2.claims.filter fun e =>
          match sfind s2.board e.2.record with | some r => r.asid != asid | none => true
        kills := s2.kills ++ [⟨asid, cause, place, va, pa, 0⟩] }

/-- The event of a device-fatal error follows those of the kills in progress (R142). -/
def postFatals (s : State) : State :=
  if s.kills.isEmpty then
    s.boot.fatals.foldl (fun s e => postEvent 0x1F 0 (leBytes 8 e.1 ++ leBytes 8 e.2) s)
      { s with boot := { s.boot with fatals := [] } }
  else s

/-- A device-fatal error (R142). The kills it makes name cause 0 and place 0: the list of causes has none for them (DESIGN
CHOICE, log 63). -/
def deviceFatal (cause pa : Nat) (s : State) : State :=
  let s1 := s.ctxs.foldl (fun s e => killContext e.1 0 0 0 0 s) s
  postFatals { s1 with boot :=
    { s1.boot with fatal := true, phase := 7, failcode := 0, fatals := s1.boot.fatals ++ [(cause, pa)] } }

/-- A rollback of a restartable workgroup or gang (R137), with the cause of event 0x10. -/
def rollback (wk cause va : Nat) (s : State) : State :=
  match sfind s.wgs wk with
  | none => s
  | some w =>
    let cl := clusterOf (keyCore wk)
    let s1 := (gangOf s wk).foldl (fun s k => freeWg k s) s
    let s2 := match gangLease s w with
      | some l => endLease l s1
      | none => s1
    let name := if w.bonded then w.ticket else w.index
    let s3 := { s2 with saves := s2.saves ++ [⟨w.record, name, [], w.attempt + 1, some cl, w.restores⟩] }
    postEvent 0x10 w.asid (leBytes 2 (keyCore wk) ++ leBytes 1 cause ++ leBytes 1 (w.attempt + 1) ++ leBytes 4 cl
      ++ leBytes 8 name ++ leBytes 8 va ++ leBytes 2 (tagOf s w.record) ++ leBytes 2 (queueOf s w.record)) s3

/-- Whether this step has found a dirty sector of an ASID bad (R145): its owner dies of that, and what the same step reads
consumes nothing more. -/
def dirtyFound (s : State) (asid : Nat) : Bool :=
  s.troubles.any fun t => match t with | .badSector _ a _ _ => a == asid | _ => false

/-- Poison consumed by a workgroup (R132, R138): rolled back while it can be, else its context is killed. What the firmware
slot consumes is loss of firmware state (R129) (DEDUCED, log 45). -/
def consumeBy (cause wk va pa : Nat) (s : State) : State :=
  match sfind s.wgs wk with
  | none => s
  | some w =>
    if dirtyFound s w.asid then s
    else if w.firmware then deviceFatal 2 pa s
    else if w.restartable && !w.committed then
      if 2 ≤ w.attempt then killContext w.asid 1 (keyCore wk) va pa s else rollback wk cause va s
    else killContext w.asid 0 (keyCore wk) va pa s

def consume (wk va pa : Nat) (s : State) : State := consumeBy 0 wk va pa s

/-- Poison consumed by an access that named the sector through a virtual address (R132, R153). -/
def consumeAt (asid wk va : Nat) (s : State) : State :=
  match lookupLeaf s asid va with
  | (.ok l, s1) => consume wk (va / 32 * 32) (leafPa l va / 32 * 32) s1
  | (.error _, s1) => consume wk (va / 32 * 32) 0 s1

/-- Poison consumed by an agent, which acts for a context and no workgroup: the kill names its 32-byte sector (R132, R153). -/
def poisonKill (asid core va : Nat) (s : State) : State :=
  let sector := va / 32 * 32
  if dirtyFound s asid then s
  else match lookupLeaf s asid va with
    | (.ok l, s1) => killContext asid 0 core sector (leafPa l va / 32 * 32) s1
    | (.error _, s1) => killContext asid 0 core sector 0 s1

/-- The link-fault event of a request to a peer that no live port leads to (R27). It names the first port of the peer's route,
or port 0 where it has none, with that port's STATE (DESIGN CHOICE, log 63). -/
def noPortEvent (peer : Nat) (s : State) : State :=
  let port := match sget [] s.routes peer with
    | e :: _ => e.1
    | [] => 0
  let st := (sget Port.reset s.ports port).state
  postEvent 0x04 0 (leBytes 1 port ++ leBytes 1 st ++ leBytes 2 peer ++ leBytes 4 0 ++ leBytes 8 1) s

/-- A request to a peer that no port leads to (R27): a link-fault event, with the port and STATE of noPortEvent (DESIGN
CHOICE, log 63), and its context is killed with cause 7 (R130). -/
def transferFails (asid core va pa : Nat) (s : State) : State := killContext asid 7 core va pa (noPortEvent (peerOf pa) s)

/-- The workgroup of a lease's gang that stands on a core, or one of another member where that one has retired. -/
def memberOn (s : State) (l : Lease) (core : Nat) : Option Nat :=
  let ks := (s.wgs.filter fun e => e.2.bonded && e.2.record == l.record && e.2.ticket == l.ticket).map fun e => e.1
  (ks.find? fun k => keyCore k == core).or ks.head?

/-- Poison consumed on a core by every member of a gang (R130, R132): one rollback covers the gang. -/
def consumeGang (cause core : Nat) (s : State) : State :=
  match (leaseOf s core).bind fun l => memberOn s l core with
  | some wk => consumeBy cause wk 0 0 s
  | none => s

/-- Count a corrected or refetched error (R129, R152). -/
def countCorrected (n : Nat) (s : State) : State :=
  { s with boot := { s.boot with ceCount := min (s.boot.ceCount + n) (2 ^ 31 - 1) } }

/-- The poisoned sectors of a 64 KiB frame. -/
def badInFrame (s : State) (frame : Nat) : Nat := (s.poison.filter fun e => e.1 / 2048 == frame).length

/-- Quarantine a 64 KiB frame for a context (R143): every translation to it faults from now on, and event 0x12 is posted;
the record of a kill of the context counts it (R153). A frame that is quarantined already stays so. -/
def quarantine (asid frame : Nat) (s : State) : State :=
  if frameBad s frame then s
  else
  let s1 := dropUnits frame { s with
    quarantined := sset s.quarantined frame asid
    kills := s.kills.map fun k => if k.asid = asid then { k with frames := k.frames + 1 } else k }
  postEvent 0x12 asid (leBytes 8 (frame * 65536) ++ leBytes 4 (badInFrame s frame)) s1
where
  /-- Cached leaves that map the frame go. -/
  dropUnits (frame : Nat) (s : State) : State :=
    let hits (e : TlbEnt) : Bool := rangesMeet e.leaf.base (2 ^ e.leaf.bits) (frame * 65536) 65536
    { s with units := s.units.map fun u => (u.1,
        { u.2 with tlb1 := u.2.tlb1.filter fun e => !hits e, tlb2 := u.2.tlb2.filter fun e => !hits e }) }

end Sys2Proof.Machine
end

