-- ==== Sys2Proof/Machine/Syscall.lean ====
section
/-! DEFINITION. Agents' accesses to a context's memory (R493) and the exchange of system-call records (R85, R86). -/

namespace Sys2Proof.Machine

/-- What an agent's access to a context's memory answers: done, a fault, or neither yet (held, or its context killed). -/
inductive AgRes where
  | ok | fault | wait
  deriving DecidableEq, Repr

/-- The client of an agent's access (R180), with the launch's or packet's TAG and queue; the slot reads 0xFF, for an agent
has no group slot (log entry 31). -/
def agentWho (core tag queue : Nat) : Issuer := ⟨core, 6, 0xFF, tag, queue⟩

/-- The answer to an agent of what a line answered: a fault is reported, an unreachable peer fails the transfer (R27). -/
def agentRes (who : Issuer) (asid va : Nat) (a : Access) : LineRes → State → AgRes × State
  | .ready, s => (.ok, s)
  | .fault f, s => (.fault, reportFault who asid va a f s)
  | .linkDown pa, s => (.wait, transferFails asid who.core va pa s)
  | _, s => (.wait, s)

/-- Bytes an agent reads from a context's memory, at the controller; poison among them costs the context (log entry 31)
(DEDUCED, log 23). -/
def agentRead (who : Issuer) (asid va n : Nat) (s : State) : AgRes × State × List Byte :=
  match engineRead who.core asid (n / 128 + 2) va n s with
  | (.ready, s1, bs, bad) => if bad then (.wait, poisonKill asid who.core (poisonedIn who.core asid va n s) s1, [])
    else (.ok, s1, bs)
  | (r, s1, _, _) =>
    let e := agentRes who asid va .read r s1
    (e.1, e.2, [])

/-- Bytes an agent writes to a context's memory. -/
def agentWrite (who : Issuer) (asid va : Nat) (bs : List Byte) (s : State) : AgRes × State :=
  match engineWrite who.core asid (linePieces (bs.length / 128 + 2) va bs) false s with
  | (r, s1) => agentRes who asid va .write r s1

def agentNat (who : Issuer) (asid va n : Nat) (s : State) : AgRes × State × Nat :=
  match agentRead who asid va n s with
  | (r, s1, bs) => (r, s1, ofLeBytes bs)

/-- A 64-bit word read, and written where `f` gives a value, as one package-scope atomic of an agent (R78). -/
def agentAtomic (who : Issuer) (asid va : Nat) (a : Access) (f : Nat → Option Nat) (s : State) : AgRes × State × Nat :=
  let s0 := surrenderLine s who.core asid va
  if isWrite a && frozen s0 asid va then (.wait, noteRefused va s0, 0)
  else if (heldBy s0 asid va).isSome then (.wait, s0, 0)
  else match translate s0 asid va a with
    | (.error e, s1) => ((agentRes who asid va a (.fault e) s1).1, (agentRes who asid va a (.fault e) s1).2, 0)
    | (.ok l, s1) =>
      let pa := leafPa l va
      match request asid who.core va pa s1 with
      | (.ready, s1) =>
        let s2 := touchSidecar asid l.ck pa s1
        let d := ctrlReadLine s2 l.ck pa
        let old := bytesAt d.1 (pa % 128) 8
        if (d.2 &&& sectorsTouched (byteMask (pa % 128) 8)) != 0 then
          (.wait, poisonKill asid who.core va s2, 0)
        else match f old with
          | some x =>
            (.ok, ctrlWriteLine s2 l.ck pa (byteMask (pa % 128) 8) (lineAt (pa % 128) (leBytes 8 x)) 0, old)
          | none => (.ok, s2, old)
      | (r, s1) => ((agentRes who asid va a r s1).1, (agentRes who asid va a r s1).2, 0)

/-- The resume word of a group (R85). -/
def resumeAddr (c : Ctx) (gk : Nat) : Nat := c.resarr + 8 * (192 * keyCore gk + keyNum gk)

/-- The record of a call (R85). -/
def callRecord (s : State) (gk : Nat) (g : Group) (w : Wg) (c : Ctx) (k : CallSt) : List Byte :=
  leBytes 8 c.prod ++ leBytes 2 w.asid ++ leBytes 2 (keyCore gk) ++ leBytes 1 (keyNum gk) ++ [0]
    ++ leBytes 2 (tagOf s w.record) ++ leBytes 4 k.num ++ leBytes 4 k.lanes.toNat ++ leBytes 8 k.clause
    ++ leBytes 8 w.index ++ leBytes 8 (resumeAddr c gk)
    ++ ((List.range 4).map fun i => leBytes 4 (sget (0 : W32) g.sreg i).toNat).flatten

/-- The agent's post of a record: the record, then PROD; the state and whether both were written. -/
def writeCall (who : Issuer) (gk : Nat) (g : Group) (w : Wg) (c : Ctx) (k : CallSt) (s : State) : Bool × State :=
  match agentWrite who w.asid (c.scring + 64 * (c.prod % 2 ^ c.sclog)) (callRecord s gk g w c k) s with
  | (.ok, s1) =>
    match agentWrite who w.asid (c.scctl + 0x40) (leBytes 8 (c.prod + 1)) s1 with
    | (.ok, s2) => (true, s2)
    | (_, s2) => (false, s2)
  | (_, s1) => (false, s1)

/-- Step 1 of R86: the agent writes the record, advances PROD and raises SCVEC, unless the ring is full or an access
faults; then the group stays parked and the agent retries. -/
def postCall (gk : Nat) (s : State) : State :=
  match sfind s.groups gk with
  | none => s
  | some g =>
    match g.call, sfind s.wgs (wgOf gk g) with
    | some k, some w =>
      let who := agentWho (keyCore gk) (tagOf s w.record) (queueOf s w.record)
      match ctxOf s w.asid with
      | none => s
      | some c =>
        if k.posted || c.killed then s
        else
          match agentNat who w.asid c.scctl 8 s with
          | (.ok, s1, cons) =>
            if (c.prod + 2 ^ 64 - cons) % 2 ^ 64 = 2 ^ c.sclog then s1
            else
              match writeCall who gk g w c k s1 with
              | (false, s3) => s3
              | (true, s3) =>
                let s4 := modCtx s3 w.asid fun c => { c with prod := (c.prod + 1) % 2 ^ 64 }
                let s5 := modGroup s4 gk fun g => { g with
                  call := some { k with posted := true, seq := c.prod, word := resumeAddr c gk, written := false } }
                raiseMsix s5 c.scvec
          | (_, s1, _) => s1
    | _, _ => s

/-- Lanes park on a call; the record of a second one waits until the first has resumed (R468, R469). -/
def startCall (gk : Nat) (k : CallSt) (s : State) : State :=
  match sfind s.groups gk with
  | none => s
  | some g =>
    match g.call with
    | none => postCall gk (modGroup s gk fun g => { g with call := some k })
    | some _ => modGroup s gk fun g => { g with waiting := g.waiting ++ [k] }

end Sys2Proof.Machine
end

