-- ==== Sys2Proof/Machine/Ops.lean ====
section
/-! DEFINITION. Operations shared by the instructions: lanes and rejoin sets (R211 to R228), registers and fixed-latency
writes (R218), outstanding operations and flags (R219 to R221), exceptions, handler entry and return (R235 to R241), runs
(R217), clause fetch (R231). -/

namespace Sys2Proof.Machine

/-! ### Lanes and rejoin sets -/

/-- A lane that does not exist reads as exited. -/
def noLane : Lane := ⟨⟨0, 0⟩, .exited, 0, 1, false, 0, 0⟩

def laneOf (g : Group) (l : Nat) : Lane := g.lanes.getD l noLane

/-- Change the lanes of a mask. -/
def onLanes (g : Group) (m : Mask) (f : Lane → Lane) : Group :=
  { g with lanes := g.lanes.mapIdx fun l x => if m.getLsbD l then f x else x }

/-- The lanes in a state. -/
def inState (g : Group) (st : LaneSt) : Mask := maskOf fun l => (laneOf g l).st == st

def lanesAt (g : Group) (pc : Pc) : Mask := maskOf fun l => (laneOf g l).st == .unblocked && (laneOf g l).pc == pc

/-- Lanes that would return to state 0: outside TMASK, while a handler runs, they enter state 5 (R239). -/
def wakeLanes (g : Group) (m : Mask) : Group :=
  let ok := if g.trap.inh then m &&& g.trap.tmask else m
  onLanes (onLanes g m fun x => { x with st := .inactive, fpark := 0 }) ok fun x => { x with st := .unblocked }

/-- The lanes whose later accesses follow an operation: those not served yet, and those joined to them (R199). -/
def opLanes (o : POp) : Mask :=
  o.joins.foldl (fun m j => if j.1 &&& o.lanes != 0 then m ||| j.2 else m) o.lanes

/-- The members of a rejoin set are released: what the accesses of one must precede, those of every other follow (R199). -/
def joinLanes (m : Mask) (o : POp) : POp :=
  let w := o.joins.foldl (fun w j => if j.2 &&& m != 0 then w ||| (j.1 &&& o.lanes) else w) (o.lanes &&& m)
  if o.ready || w == 0 then o else { o with joins := o.joins ++ [(w, m)] }

/-- Evaluate release of set n (R224, R239). -/
def evalSet (n : Nat) (g : Group) : Group :=
  let m := g.members.getD n 0
  if m ≠ 0 ∧ g.arrivals.getD n 0 = m ∧ !(g.trap.inh && (m &&& ~~~g.trap.tmask) != 0) then
    wakeLanes { g with arrivals := setAt g.arrivals n 0, ops := g.ops.map (joinLanes m) } m
  else g

def evalSets (g : Group) : Group := iter 16 evalSet g

/-- The set lane l has arrived at. -/
def arrivedAt (g : Group) (l : Nat) : Option Nat := firstBelow 16 fun n => (g.arrivals.getD n 0).getLsbD l

/-- The return of a handler (R241), in one step. -/
def handlerReturn (g : Group) : Group :=
  let back (l : Nat) : Bool :=
    let x := laneOf g l
    x.rewritten || (match arrivedAt g l with | some n => !(g.members.getD n 0).getLsbD l | none => false)
  let m := maskOf fun l => back l && ((laneOf g l).st == .parked || (laneOf g l).st == .faultParked)
  let g1 := { g with arrivals := g.arrivals.map fun a => a &&& ~~~m }
  let g2 := onLanes g1 m fun x => { x with st := .unblocked, fpark := 0 }
  let tm := g.trap.tmask &&& ~~~inState g .exited
  let g3 := onLanes g2 tm fun x => { x with st := .unblocked, pc := g.trap.tepc }
  let g4 := onLanes g3 (inState g3 .inactive) fun x => { x with st := .unblocked }
  let g5 := { g4 with
    lanes := g4.lanes.map fun x => { x with rewritten := false }
    trap := { g4.trap with inh := false, masked := false, staged := none } }
  evalSets g5

/-- The handler returns once every lane of TMASK is in state 4 or 5 (R241). -/
def checkReturn (g : Group) : Group :=
  if g.trap.inh && (g.trap.tmask &&& ~~~(inState g .exited ||| inState g .inactive)) == 0 then handlerReturn g else g

/-- EXIT of the lanes of a mask (R226). -/
def exitLanes (g : Group) (e : Mask) : Group :=
  let g1 := onLanes g e fun x => { x with st := .exited, fpark := 0 }
  let g2 := { g1 with members := g1.members.map fun m => m &&& ~~~e, arrivals := g1.arrivals.map fun a => a &&& ~~~e }
  checkReturn (evalSets g2)

/-- Withdraw arrivals of set n whose bit has left its members (R227); in a handler those of lanes outside TMASK are
marked and wait for TRET (R239, R241). -/
def withdraw (n : Nat) (g : Group) : Group :=
  let gone := g.arrivals.getD n 0 &&& ~~~g.members.getD n 0
  let now := if g.trap.inh then gone &&& g.trap.tmask else gone
  let g1 := wakeLanes { g with arrivals := setAt g.arrivals n (g.arrivals.getD n 0 &&& ~~~now) } now
  onLanes g1 (gone &&& ~~~now) fun x => { x with rewritten := true }

/-! ### Registers and fixed-latency writes -/

def vkey (reg lane : Nat) : Nat := 32 * reg + lane
def skey (reg : Nat) : Nat := 65536 + reg

def vreg (g : Group) (reg lane : Nat) : W32 := sget 0 g.vreg (vkey reg lane)
def sreg (g : Group) (reg : Nat) : W32 := sget 0 g.sreg reg
def predOf (g : Group) (n : Nat) : Mask := if n = 7 then BitVec.allOnes 32 else g.preds.getD n 0

/-- The registers a write names, as keys. -/
def wrKey : Wr → Option Nat
  | .v reg lane _ => some (vkey reg lane)
  | .s reg _ => some (skey reg)
  | _ => none

/-- A system register of the group written at landing (R238, R312, R473); whether the write is permitted was tested as it
issued (R218). -/
def landSys (num : Nat) (x : W32) (g : Group) : Group :=
  let t := g.trap
  let rewrite (l : Nat) (g : Group) (pc : Va) : Group :=
    let y := laneOf g l
    if t.tmask.getLsbD l then g
    else match y.st with
      | .parked | .faultParked | .inactive =>
        onLanes g (laneBit l) fun y =>
          { y with
            pc := if y.pc.addr = pc then y.pc else ⟨pc, 0⟩
            rewritten := y.rewritten || y.st != .inactive }
      | _ => g
  match num with
  | 0x040 => { g with trap := { t with tvec0 := x &&& 0xFFFFFFF8 } }
  | 0x041 => { g with trap := { t with tvec1 := x &&& 0x01FFFFFF } }
  | 0x044 =>
    let a : Va := BitVec.ofNat 57 (t.tepc.addr.toNat / 2 ^ 32 * 2 ^ 32 + (x &&& 0xFFFFFFF8).toNat)
    { g with trap := { t with tepc := if a = t.tepc.addr then t.tepc else ⟨a, 0⟩ } }
  | 0x045 =>
    let a : Va := BitVec.ofNat 57 (t.tepc.addr.toNat % 2 ^ 32 + (x &&& 0x01FFFFFF).toNat * 2 ^ 32)
    { g with trap := { t with tepc := if a = t.tepc.addr then t.tepc else ⟨a, 0⟩ } }
  | 0x048 => { g with trap := { t with lpcsel := x.toNat % 32 } }
  | 0x049 => { g with trap := { t with staged := some (x &&& 0xFFFFFFF8) } }
  | 0x04A =>
    let low := match t.staged with
      | some y => y.toNat
      | none => (laneOf g t.lpcsel).pc.addr.toNat % 2 ^ 32
    let g1 := { g with trap := { t with staged := none } }
    rewrite t.lpcsel g1 (BitVec.ofNat 57 (low + (x &&& 0x01FFFFFF).toNat * 2 ^ 32))
  | 0x04B => { g with trap := { t with hchk := x.getLsbD 2 } }
  | 0x050 => { g with trap := { t with rngsel := x.toNat % 32 } }
  | 0x051 => onLanes g (laneBit t.rngsel) fun y => { y with gen := if x = 0 then 1 else x }
  | _ => g

/-- The effect of a fixed-latency write on its group when it lands. -/
def landGroup (w : Wr) (g : Group) : Group :=
  match w with
  | .v reg lane x => { g with vreg := sput 0 g.vreg (vkey reg lane) x }
  | .s reg x => { g with sreg := sput 0 g.sreg reg x }
  | .p n mask bits => if n = 7 then g else { g with preds := modAt g.preds n fun p => (p &&& ~~~mask) ||| (bits &&& mask) }
  | .table n bytes => { g with tables := setAt g.tables n bytes }
  | .sys num x => landSys num x g
  | .obrec _ _ => g

/-- A record image written (R442); an empty image clears VALID (R443). -/
def landRec (n : Nat) (image : List Byte) (w : Wg) : Wg :=
  { w with obrecs := modAt w.obrecs n fun old => if image.isEmpty then setAt old 0x0A 0 else setAt image 0x0A 1 }

/-- A write to ENGNAK (R109). -/
def writeEngnak (core : Nat) (x : W32) (s : State) : State :=
  modCore s core fun c => { c with naks := if x.getLsbD 31 then 0 else c.naks, backoff := x.toNat % 4096 }

/-- The largest budget a CAP stands for (R269). -/
def capOf (cap : Nat) : Nat := max 8 (min 64 (cap / 8 * 8))

/-- A write to MXGOV (R268, R269): the budget never exceeds CAP. -/
def writeMxgov (core : Nat) (x : W32) (s : State) : State :=
  modMx s core fun m => { m with cap := field x.toNat 16 7, budget := min m.budget (capOf (field x.toNat 16 7)) }

/-- A write to BANKMODE (R157). -/
def writeBankMode (core : Nat) (x : W32) (s : State) : State :=
  (List.range 16).foldl (fun s b => switchBank core (field x.toNat (2 * b) 2) s b) s

/-- The system registers of a core or its cluster, written at landing (R109, R157, R167, R269, R473): MXGOV, MXSTALL.CLR,
ENGNAK, BANKMODE and MERGEWIN. -/
def landCoreSys (core num : Nat) (x : W32) (s : State) : State :=
  match num with
  | 0x060 => writeMxgov core x s
  | 0x070 => writeEngnak core x s
  | 0x080 => writeBankMode core x s
  | 0x061 => if x.getLsbD 31 then modMx s core fun m => { m with stall := 0 } else s
  | 0x090 => modCluster s (clusterOf core) fun c => { c with mergewin := x.toNat % 4096 }
  | _ => s

/-- A fixed-latency write lands. -/
def landWr (gk wk : Nat) (w : Wr) (s : State) : State :=
  match w with
  | .obrec n image => modWg s wk (landRec n image)
  | .sys num x => if num < 0x060 then modGroup s gk (landGroup w) else landCoreSys (keyCore gk) num x s
  | _ => modGroup s gk (landGroup w)

/-- The context in which an instruction issues: where, in which run, and the group and workgroup as they stand. -/
structure Cx where
  core : Nat
  q : Nat
  rk : Nat
  gk : Nat
  wk : Nat
  run : Run
  g : Group
  w : Wg
  deriving DecidableEq, Repr

/-- The run in focus, with its group and workgroup. -/
def cxOf (s : State) : Option Cx :=
  match s.focus with
  | none => none
  | some (core, q) =>
    match sfind s.runs (rkey core q) with
    | none => none
    | some r =>
      match sfind s.groups (gkey core r.slot) with
      | none => none
      | some g =>
        match sfind s.wgs (wkey core g.wg) with
        | none => none
        | some w => some ⟨core, q, rkey core q, gkey core r.slot, wkey core g.wg, r, g, w⟩

/-- The word a run issues next. -/
def nextInstr (cx : Cx) : W64 := cx.run.words.getD cx.run.widx 0

/-- The writes of a run issued four or more slots before its cycle land (R218). -/
def landDue (rk gk wk : Nat) (s : State) : State :=
  match sfind s.runs rk with
  | none => s
  | some r =>
    let due := r.pend.filter fun e => e.1 + 4 ≤ r.cycle
    let s1 := due.foldl (fun s e => landWr gk wk e.2 s) s
    modRun s1 rk fun r => { r with pend := r.pend.filter fun e => !(e.1 + 4 ≤ r.cycle) }

/-- The names of outstanding operations whose destination includes a key. -/
def opOn (g : Group) (key : Nat) : Option POp := g.ops.find? fun o => o.dests.contains key

/-- Fixed-latency writes of the instruction at issue: they join the run's pending writes, and mark the destinations of
outstanding operations they overwrite (R221) (DESIGN CHOICE, log 20). -/
def fixWrites (cx : Cx) (ws : List Wr) (s : State) : State :=
  let s1 := modRun s cx.rk fun r => { r with pend := r.pend ++ ws.map fun w => (r.cycle, w) }
  if cx.g.ops.isEmpty then s1
  else
    let keys := ws.filterMap wrKey
    modGroup s1 cx.gk fun g => { g with ops := g.ops.map fun o =>
      { o with clobbered := o.clobbered ++ keys.filter fun k => o.dests.contains k } }

/-- The instruction occupies its quarter for n cycles in all (R389); its results are written as if it issued in the
last. -/
def takeCycles (cx : Cx) (n : Nat) (s : State) : State := modRun s cx.rk fun r => { r with cycle := r.cycle + (n - 1) }

/-- The instruction cannot issue in this cycle: the run stalls (R217). -/
def stall (cx : Cx) (s : State) : State := modRun s cx.rk fun r => { r with stalled := true }

/-! ### Flags and outstanding operations -/

def flagCount (g : Group) (f : Nat) : Nat := (g.ops.filter fun o => o.flag == f).length

/-- The pending flags as a mask (R219). -/
def pendingMask (g : Group) : Nat :=
  iter 12 (fun f m => if flagCount g f = 0 then m else m + 2 ^ f) 0

/-- The faulted flags as a mask: those with a logged or overflowed access (R220). -/
def faultedMask (s : State) (gk : Nat) (g : Group) : Nat :=
  iter 12 (fun f m =>
    if g.ops.any fun o => o.flag == f && s.parked.any fun p => p.group == gk && p.op == o.id &&
        (match p.place with | .log => true | .overflow _ => true | _ => false)
    then m + 2 ^ f else m) 0

def failedMask (g : Group) : Nat :=
  iter 12 (fun f m => if g.failed.any fun e => e.1 == f then m + 2 ^ f else m) 0

/-- Lanes in state 2 return when the flags they wait for have cleared, or one of them has failed (R211, R220). -/
def settle (gk : Nat) (s : State) : State :=
  match sfind s.groups gk with
  | none => s
  | some g =>
    let past (fl : Nat) : Bool := fl &&& pendingMask g == 0 || fl &&& failedMask g != 0
    let m := maskOf fun l =>
      (laneOf g l).st == .faultParked && decide ((laneOf g l).fpark < 2 ^ 15) && past (laneOf g l).fpark
    if m = 0 then s else modGroup s gk fun g => wakeLanes g m

/-- Whether an access of a group is parked; hints are none (R212). -/
def accessParked (s : State) (gk : Nat) : Bool :=
  s.parked.any fun p => p.group == gk && match p.acc with
    | .hint _ => false
    | _ => true

/-- A group retires when every lane has exited and no operation or windowed command is outstanding (R212). Its slot and its
units are free from then on, before its workgroup retires (DESIGN CHOICE, log 51). -/
def retireGroup (gk : Nat) (s : State) : State :=
  match sfind s.groups gk with
  | none => s
  | some g =>
    if g.ops.isEmpty && g.window.isEmpty && !accessParked s gk && inState g .exited == BitVec.allOnes 32 then dropGroup gk s
    else s

/-- A variable-latency operation starts: its flag counts one more (R219). The number it gets is State.nextOp. -/
def startOp (cx : Cx) (flag : Nat) (kind : OpKind) (lanes : Mask) (dests : List Nat) (results : List (Nat × W32))
    (ready : Bool) (s : State) : State :=
  let s1 := modGroup s cx.gk fun g =>
    { g with ops := g.ops ++ [⟨s.nextOp, flag, kind, lanes, dests, results, [], ready, []⟩] }
  { s1 with nextOp := s1.nextOp + 1 }

def modOp (gk id : Nat) (f : POp → POp) (s : State) : State :=
  modGroup s gk fun g => { g with ops := g.ops.map fun o => if o.id == id then f o else o }

def findOp (s : State) (gk id : Nat) : Option POp :=
  (sfind s.groups gk).bind fun g => g.ops.find? fun o => o.id == id

/-- A result enters its register. -/
def putResult (g : Group) (e : Nat × W32) : Group :=
  if e.1 < 65536 then { g with vreg := sput 0 g.vreg e.1 e.2 } else { g with sreg := sput 0 g.sreg (e.1 - 65536) e.2 }

/-- The pending fixed-latency writes of a run to registers that an operation's results have just entered: they issued
before the operation, and fall away. -/
def dropPend (keys : List Nat) (r : Run) : Run :=
  let stays (w : Wr) : Bool := match wrKey w with
    | some k => !keys.contains k
    | none => true
  { r with pend := r.pend.filter fun e => stays e.2 }

/-- An operation completes: its results enter their registers, except where a fixed-latency write has overwritten them
and the open choice falls on that write (R221); its flag counts one less, and lanes it held are released. -/
def completeOp (gk id : Nat) (s : State) : State :=
  match findOp s gk id with
  | none => s
  | some o =>
    let keep := o.results.filter fun e => !(o.clobbered.contains e.1 && Config.freeBool s.tick e.1 id)
    let keys := keep.map fun e => e.1
    let s1 := modGroup s gk fun g =>
      { keep.foldl putResult g with ops := g.ops.filter fun x => x.id != id }
    let s2 := { s1 with
      tick := s1.tick + 1
      runs := s1.runs.map fun e =>
        if e.1 / 4 == keyCore gk && e.2.slot == keyNum gk then (e.1, dropPend keys e.2) else e }
    retireGroup gk (settle gk s2)

/-! ### Exceptions -/

/-- Record an exception of the instruction at issue; the run keeps its lowest-slot one (R236). -/
def raiseExc (cx : Cx) (code taddr : Nat) (s : State) : State :=
  modRun s cx.rk fun r => match r.exc with
    | some _ => r
    | none => { r with exc := some ⟨code, r.widx, taddr⟩ }

def tvecOf (t : Trap) : Va := BitVec.ofNat 57 (t.tvec1.toNat * 2 ^ 32 + t.tvec0.toNat)

/-- TCAUSE (R238). -/
def causeWord (code idx flag : Nat) (insn : Bool) : W32 :=
  BitVec.ofNat 32 (code + 256 * idx + 4096 * flag + if insn then 65536 else 0)

/-- Handler entry (R239). -/
def enterHandler (cause : W32) (tmask : Mask) (tepc : Pc) (taddr : Nat) (g : Group) : Group :=
  let t := { g.trap with
    tcause := cause, tmask := tmask, tepc := tepc, taddr := BitVec.ofNat 64 taddr, inh := true, masked := true }
  let others := inState g .unblocked &&& ~~~tmask
  let g1 := onLanes { g with trap := t } others fun x => { x with st := .inactive }
  onLanes g1 tmask fun x => { x with st := .unblocked, pc := ⟨tvecOf t, 0⟩, age := 0, fpark := 0 }

/-- An exception is taken: the handler is entered, or the context is killed with cause 9 (R237, R240) (DEDUCED, log 45). -/
def takeException (gk : Nat) (cause : W32) (tmask : Mask) (tepc : Pc) (taddr : Nat) (s : State) : State :=
  match sfind s.groups gk with
  | none => s
  | some g =>
    if g.trap.masked || tvecOf g.trap == 0 then
      match sfind s.wgs (wgOf gk g) with
      | some w =>
        if w.firmware then deviceFatal 2 0 s else killContext w.asid 9 (keyCore gk) tepc.addr.toNat 0 s
      | none => s
    else modGroup s gk (enterHandler cause tmask tepc taddr)

/-! ### Runs -/

/-- The next instruction word of a clause from word k on (R319). -/
def nextWord (litmap n k : Nat) : Option Nat := (List.range n).find? fun j => decide (k ≤ j) && !litmap.testBit j

def litmapOf (header : W64) : Nat := field header.toNat 20 16
def waitOf (header : W64) : Nat := field header.toNat 36 12
def unitsOf (header : W64) : Nat := field header.toNat 48 4
def wordsIn (header : W64) : Nat := field header.toNat 52 4 + 1

/-- The program counter of word k, and of the header that follows the clause (R316, R319). -/
def wordPc (h : Va) (k : Nat) : Pc := ⟨h + BitVec.ofNat 57 (8 * (k + 1)), k + 1⟩
def followPc (h : Va) (n : Nat) : Pc := ⟨h + BitVec.ofNat 57 (8 * (n + 1)), 0⟩

/-- The program counter after the run's current word (R319). -/
def afterPc (r : Run) : Pc :=
  match nextWord (litmapOf r.header) r.words.length (r.widx + 1) with
  | some k => wordPc r.head k
  | none => followPc r.head r.words.length

/-- The end of a run: every fixed-latency write lands, the lanes stand at their next word unless they were moved, a
system call parks them, and the recorded exception is taken (R217, R218, R236, R468). -/
def endRun (rk gk wk : Nat) (s : State) : State :=
  match sfind s.runs rk with
  | none => s
  | some r =>
    let pc := match r.ends with
      | .heldBack => wordPc r.head r.widx
      | _ => afterPc r
    let s1 := r.pend.foldl (fun s e => landWr gk wk e.2 s) s
    let s2 := { s1 with runs := sdel s1.runs rk }
    let s3 := match r.ends with
      | .moved => s2
      | _ => modGroup s2 gk fun g => onLanes g r.lanes fun x => { x with pc := pc }
    let s4 := match r.trapped with
      | some n =>
        startCall gk ⟨false, 0, r.lanes, n, r.head.toNat, 0, false⟩
          (modGroup s3 gk fun g => onLanes g r.lanes fun x => { x with st := .onCall })
      | none => s3
    let s5 := match r.exc with
      | some e => takeException gk (causeWord e.code e.idx 0 true) r.lanes pc e.taddr s4
      | none => s4
    retireGroup gk s5

/-- After the instruction at issue: a stalled attempt only lets a cycle pass; otherwise the run goes on at the next
word, or ends (R217, R319). `sw` is the switch marker. -/
def advance (rk gk wk : Nat) (sw : Bool) (s : State) : State :=
  match sfind s.runs rk with
  | none => s
  | some r =>
    if r.stalled then modRun s rk fun r => { r with stalled := false, cycle := r.cycle + 1 }
    else
      match r.ends with
      | .going =>
        if sw then endRun rk gk wk (modRun s rk fun r => { r with ends := .after })
        else
          match nextWord (litmapOf r.header) r.words.length (r.widx + 1) with
          | some k => modRun s rk fun r => { r with widx := k, cycle := r.cycle + 1 }
          | none => endRun rk gk wk (modRun s rk fun r => { r with ends := .after })
      | _ => endRun rk gk wk s

/-- The lanes of the run take the place a clause-ending instruction gives each (R366). -/
def moveLanes (cx : Cx) (target : Nat → Pc) (s : State) : State :=
  let s1 := modGroup s cx.gk fun g =>
    { g with lanes := g.lanes.mapIdx fun l x => if cx.run.lanes.getLsbD l then { x with pc := target l } else x }
  modRun s1 cx.rk fun r => { r with ends := .moved }

/-! ### Clause fetch -/

/-- The result of fetching a word of a clause. -/
inductive Fetched where
  | word (w : W64)
  | fault (f : Flt)
  | wait
  | poisoned
  deriving DecidableEq, Repr

/-- Fetch one 8-byte word through the cluster L2 (R170, R231). -/
def fetchWord (core asid va : Nat) (s : State) : Fetched × State :=
  match ensureLine s (clusterOf core) asid va .fetch with
  | (.ready, s1) =>
    match l2Line s1 (clusterOf core) asid va with
    | none => (.wait, s1)
    | some ln =>
      if ln.poison.testBit (va % 128 / 32) then (.poisoned, s1)
      else (.word (BitVec.ofNat 64 (bytesAt ln.data (va % 128) 8)), s1)
  | (.fault f, s1) => (.fault f, s1)
  | (_, s1) => (.wait, s1)

/-- Fetch `n` words (DEDUCED, log 15). -/
def fetchWords (core asid : Nat) : Nat → Nat → State → Except Fetched (List W64) × State
  | 0, _, s => (.ok [], s)
  | n + 1, va, s =>
    match fetchWord core asid (va % 2 ^ 57) s with
    | (.word w, s1) =>
      match fetchWords core asid n (va + 8) s1 with
      | (.ok ws, s2) => (.ok (w :: ws), s2)
      | (.error e, s2) => (.error e, s2)
    | (e, s1) => (.error e, s1)

end Sys2Proof.Machine
end

