-- ==== Sys2Proof/Machine/Flags.lean ====
section
/-! DEFINITION. Predicates, guards and comparisons (R328, R386, R385), and the completion flag a word may name (R326). -/

namespace Sys2Proof.Machine

/-- The class of an opcode's F column (R326, R339). -/
inductive FCls where
  | none | res | opt
  deriving DecidableEq, Repr

def flagOk (c : FCls) (f : Nat) : Bool :=
  match c with
  | .none => f == 15
  | .res => decide (f < 12)
  | .opt => decide (f < 12) || f == 15

/-- The executing lanes where the guard is true (R324, R328). -/
def guardMask (cx : Cx) (h : Hdr) : Mask :=
  let p := predOf cx.g (h.g.toNat % 8)
  (if h.g.getLsbD 3 then ~~~p else p) &&& cx.run.lanes

/-- A predicate position as a mask; Z reads false (R330). -/
def rdPred (cx : Cx) : Opnd → Mask
  | .p n => predOf cx.g n.toNat
  | _ => 0

/-- The writes of a predicate destination in the executing lanes: P7 and Z discard (R361). -/
def wrPred (cx : Cx) (o : Opnd) (bits : Mask) : List Wr :=
  match o with
  | .p n => if n = 7 then [] else [.p n.toNat cx.run.lanes bits]
  | _ => []

/-- The conditions of ICMP on integers (R385). -/
def intCond (c : Cc) (a b : Int) : Bool :=
  match c with
  | .eq => a == b
  | .ne => a != b
  | .lt => decide (a < b)
  | .le => decide (a ≤ b)
  | .gt => decide (b < a)
  | .ge => decide (b ≤ a)

end Sys2Proof.Machine
end

