-- ==== Sys2Proof/Machine/Formats.lean ====
section
/-! DEFINITION. Number formats, scales and rounding (R297 to R314): exact values as dyadic numbers, one rounding. -/

namespace Sys2Proof.Machine

/-- The floating-point formats (R297). -/
inductive FFmt where
  | f64 | f32 | tf32 | bf16 | f16 | e4m3 | e5m2 | e3m2 | e2m3 | e2m1
  deriving DecidableEq, Repr

/-- The types of R302. -/
inductive Ty where
  | fl (f : FFmt)
  | int (bits : Nat)
  | nat (bits : Nat)
  | plain (bits : Nat)
  deriving DecidableEq, Repr

/-- A value a float code stands for: NaN, an infinity, or ±m·2^e exactly (R298, R299). -/
inductive Fp where
  | nan
  | inf (neg : Bool)
  | fin (neg : Bool) (m : Nat) (e : Int)
  deriving DecidableEq, Repr

/-- The type of a code of R302; none where it is reserved. -/
def tyOf (c : Nat) : Option Ty :=
  match c with
  | 0 => some (.fl .f64) | 1 => some (.fl .f32) | 2 => some (.fl .tf32) | 3 => some (.fl .bf16)
  | 4 => some (.fl .f16) | 5 => some (.fl .e4m3) | 6 => some (.fl .e5m2) | 7 => some (.fl .e3m2)
  | 8 => some (.fl .e2m3) | 9 => some (.fl .e2m1)
  | 10 => some (.int 8) | 11 => some (.nat 8) | 12 => some (.int 4) | 13 => some (.nat 4)
  | 14 => some (.int 16) | 15 => some (.nat 16) | 16 => some (.int 32) | 17 => some (.nat 32)
  | 18 => some (.int 64) | 19 => some (.nat 64)
  | 20 => some (.plain 8) | 21 => some (.plain 16) | 22 => some (.plain 32) | 23 => some (.plain 64)
  | _ => none

/-- Exponent bits, fraction bits and bias of a format (R297). -/
def expBits : FFmt → Nat
  | .f64 => 11 | .f32 => 8 | .tf32 => 8 | .bf16 => 8 | .f16 => 5
  | .e4m3 => 4 | .e5m2 => 5 | .e3m2 => 3 | .e2m3 => 2 | .e2m1 => 2

def fracBits : FFmt → Nat
  | .f64 => 52 | .f32 => 23 | .tf32 => 10 | .bf16 => 7 | .f16 => 10
  | .e4m3 => 3 | .e5m2 => 2 | .e3m2 => 2 | .e2m3 => 3 | .e2m1 => 1

def bias : FFmt → Nat
  | .f64 => 1023 | .f32 => 127 | .tf32 => 127 | .bf16 => 127 | .f16 => 15
  | .e4m3 => 7 | .e5m2 => 15 | .e3m2 => 3 | .e2m3 => 1 | .e2m1 => 1

/-- Width of a format's code in bits. -/
def codeBits (f : FFmt) : Nat := 1 + expBits f + fracBits f

/-- Width of a type's element in memory, in bits (R245, R300): E3M2 and E2M3 in 8-bit and TF32 in 32-bit containers. -/
def tyBits : Ty → Nat
  | .fl .tf32 => 32
  | .fl .e3m2 => 8
  | .fl .e2m3 => 8
  | .fl f => codeBits f
  | .int n => n
  | .nat n => n
  | .plain n => n

/-- Formats that follow IEEE 754's special codes (R299): all but the four smallest and E4M3. -/
def ieeeLike : FFmt → Bool
  | .e4m3 | .e3m2 | .e2m3 | .e2m1 => false
  | _ => true

/-- The magnitude code of the largest finite value (R297). -/
def maxMag (f : FFmt) : Nat :=
  match f with
  | .e4m3 => 0x7E
  | .e3m2 => 31
  | .e2m3 => 31
  | .e2m1 => 7
  | _ => (2 ^ expBits f - 1) * 2 ^ fracBits f - 1

/-- The sign bit of a format. -/
def signBit (f : FFmt) (neg : Bool) : Nat := if neg then 2 ^ (expBits f + fracBits f) else 0

/-- The canonical NaN code (R299); the formats without NaN have none and give +0 (R314). -/
def nanCode : FFmt → Nat
  | .e4m3 => 0x7F
  | .e3m2 | .e2m3 | .e2m1 => 0
  | f => (2 ^ expBits f - 1) * 2 ^ fracBits f + 2 ^ (fracBits f - 1)

/-- The infinity code of a format that has one. -/
def infCode (f : FFmt) (neg : Bool) : Nat := signBit f neg + (2 ^ expBits f - 1) * 2 ^ fracBits f

/-- The exponent of a format's smallest subnormal. -/
def emin (f : FFmt) : Int := 1 - (bias f : Int) - (fracBits f : Int)

/-- The value of a magnitude code (R298), as a number of units 2^e. -/
def decodeMag (f : FFmt) (mag : Nat) : Nat × Int :=
  let e := mag / 2 ^ fracBits f
  let fr := mag % 2 ^ fracBits f
  if e = 0 then (fr, emin f) else (fr + 2 ^ fracBits f, emin f + (e : Int) - 1)

/-- The value of a code (R298, R299). -/
def decodeF (f : FFmt) (code : Nat) : Fp :=
  let w := expBits f + fracBits f
  let neg := code / 2 ^ w % 2 == 1
  let mag := code % 2 ^ w
  if maxMag f < mag then
    if ieeeLike f && mag == (2 ^ expBits f - 1) * 2 ^ fracBits f then .inf neg else .nan
  else
    let d := decodeMag f mag
    .fin neg d.1 d.2

/-- Whether the quantity above the truncated magnitude rounds up (R309, R310): the truncation `a`, the discarded part
`rem` of a unit of size `unit`, the sign and the lane's draw. -/
def roundsUp (mode : Rnd) (neg : Bool) (a rem unit : Nat) (draw : Nat) : Bool :=
  match mode with
  | .rn => unit < 2 * rem || (2 * rem == unit && a % 2 == 1)
  | .rz => false
  | .ru => rem != 0 && !neg
  | .rd => rem != 0 && neg
  | .rs => rem != 0 && 2 ^ 32 ≤ rem * 2 ^ 32 / unit + draw

/-- m·2^e rounded to a multiple of 2^q: the number of units (R309, R310). -/
def roundUnits (mode : Rnd) (neg : Bool) (m : Nat) (e q : Int) (draw : Nat) : Nat :=
  if q ≤ e then m <<< (e - q).toNat
  else
    let k := (q - e).toNat
    let a := m >>> k
    let rem := m - a <<< k
    if roundsUp mode neg a rem (2 ^ k) draw then a + 1 else a

/-- The overflow result (R313): `ovf` selects .OVF. -/
def overflowCode (f : FFmt) (mode : Rnd) (neg ovf : Bool) : Nat :=
  let away := match mode with
    | .rz => false
    | .ru => !neg
    | .rd => neg
    | _ => true
  if ovf && away && (ieeeLike f || f == .e4m3) then
    if f == .e4m3 then nanCode f else infCode f neg
  else signBit f neg + maxMag f

/-- The default overflow behaviour of a destination is .OVF (R313). -/
def defaultOvf : FFmt → Bool
  | .f64 | .f32 | .tf32 | .bf16 | .f16 => true
  | _ => false

/-- One rounding of the exact value ±m·2^e (R309, R313): precision with an unbounded exponent, then overflow. -/
def roundFin (f : FFmt) (mode : Rnd) (ovf : Bool) (draw : Nat) (neg : Bool) (m : Nat) (e : Int) : Nat :=
  if m = 0 then signBit f neg
  else
    let q := max (emin f) (e + (bitLen m : Int) - 1 - (fracBits f : Int))
    let n := roundUnits mode neg m e q draw
    let mag := (q - emin f).toNat * 2 ^ fracBits f + n
    if maxMag f < mag then overflowCode f mode neg ovf else signBit f neg + mag

/-- Rounding of an arithmetic result: an infinite exact result stays infinite under either behaviour (R313). -/
def roundArith (f : FFmt) (mode : Rnd) (ovf : Bool) (draw : Nat) : Fp → Nat
  | .nan => nanCode f
  | .inf neg => infCode f neg
  | .fin neg m e => roundFin f mode ovf draw neg m e

/-- Rounding in a conversion, whose special inputs are those of R314. -/
def roundConv (f : FFmt) (mode : Rnd) (ovf : Bool) (draw : Nat) : Fp → Nat
  | .nan => nanCode f
  | .inf neg =>
    if ovf && ieeeLike f then infCode f neg
    else if ovf && f == .e4m3 then nanCode f
    else signBit f neg + maxMag f
  | .fin neg m e => roundFin f mode ovf draw neg m e

/-- Conversion to an integer range (R314, R402): round, then saturate; NaN gives 0. -/
def roundInt (mode : Rnd) (lo hi : Int) (draw : Nat) : Fp → Int
  | .nan => 0
  | .inf neg => if neg then lo else hi
  | .fin neg m e =>
    let n : Int := roundUnits mode neg m e 0 draw
    clampInt lo hi (if neg then -n else n)

/-- The range of an integer type (R301). -/
def intRange : Ty → Int × Int
  | .int n => (-(2 ^ (n - 1)), 2 ^ (n - 1) - 1)
  | .nat n => (0, 2 ^ n - 1)
  | _ => (0, 0)

/-- The signed numerator of a finite value at a common exponent at or below its own. -/
def scaledTo (q : Int) (neg : Bool) (m : Nat) (e : Int) : Int :=
  let n : Int := m <<< (e - q).toNat
  if neg then -n else n

/-- The exact sum of two values; `down` tells .RD, which makes every exact zero sum negative (R390). -/
def fpAdd (down : Bool) : Fp → Fp → Fp
  | .nan, _ => .nan
  | _, .nan => .nan
  | .inf a, .inf b => if a == b then .inf a else .nan
  | .inf a, _ => .inf a
  | _, .inf b => .inf b
  | .fin n1 m1 e1, .fin n2 m2 e2 =>
    if m1 = 0 ∧ m2 = 0 then .fin ((n1 && n2) || down) 0 0
    else
      let q := min e1 e2
      let t := scaledTo q n1 m1 e1 + scaledTo q n2 m2 e2
      if t = 0 then .fin down 0 0 else .fin (t < 0) t.natAbs q

/-- The exact product (R390). -/
def fpMul : Fp → Fp → Fp
  | .nan, _ => .nan
  | _, .nan => .nan
  | .inf a, .inf b => .inf (a != b)
  | .inf a, .fin b m _ => if m = 0 then .nan else .inf (a != b)
  | .fin a m _, .inf b => if m = 0 then .nan else .inf (a != b)
  | .fin a m1 e1, .fin b m2 e2 => .fin (a != b) (m1 * m2) (e1 + e2)

/-- The sign modifiers of R391. -/
def fpSign (abs neg : Bool) : Fp → Fp
  | .nan => .nan
  | .inf s => .inf ((s && !abs) != neg)
  | .fin s m e => .fin ((s && !abs) != neg) m e

/-- The order of two values that are not NaN: less, equal (+0 and −0 included) or greater. -/
def fpCmp : Fp → Fp → Ordering
  | .inf a, .inf b => compare (if a then 0 else 1 : Nat) (if b then 0 else 1)
  | .inf a, _ => if a then .lt else .gt
  | _, .inf b => if b then .gt else .lt
  | .fin n1 m1 e1, .fin n2 m2 e2 =>
    let q := min e1 e2
    compare (scaledTo q n1 m1 e1) (scaledTo q n2 m2 e2)
  | _, _ => .eq

def fpIsNan : Fp → Bool
  | .nan => true
  | _ => false

def fpNeg : Fp → Bool
  | .nan => false
  | .inf n => n
  | .fin n _ _ => n

/-- The smaller of two codes, with −0 below +0 (R394). -/
def fminCode (f : FFmt) (a b : Nat) : Nat :=
  let x := decodeF f a; let y := decodeF f b
  if fpIsNan x && fpIsNan y then nanCode f
  else if fpIsNan x then b
  else if fpIsNan y then a
  else match fpCmp x y with
    | .lt => a
    | .gt => b
    | .eq => if fpNeg x then a else b

/-- The larger of two codes (R394). -/
def fmaxCode (f : FFmt) (a b : Nat) : Nat :=
  let x := decodeF f a; let y := decodeF f b
  if fpIsNan x && fpIsNan y then nanCode f
  else if fpIsNan x then b
  else if fpIsNan y then a
  else match fpCmp x y with
    | .lt => b
    | .gt => a
    | .eq => if fpNeg x then b else a

/-- The condition of FCMP (R395). -/
def fcmpHolds (c : FCc) (x y : Fp) : Bool :=
  let un := fpIsNan x || fpIsNan y
  let o := fpCmp x y
  match c with
  | .eq => !un && o == .eq
  | .ne => un || o != .eq
  | .lt => !un && o == .lt
  | .le => !un && o != .gt
  | .gt => !un && o == .gt
  | .ge => !un && o != .lt
  | .un => un
  | .ord => !un

/-- The value of a code of a type (R298, R301); plain bits have none and give zero. -/
def decodeTy (t : Ty) (bits : Nat) : Fp :=
  match t with
  | .fl .tf32 => decodeF .tf32 (bits / 2 ^ 13 % 2 ^ 19)
  | .fl f => decodeF f (bits % 2 ^ codeBits f)
  | .int n => let x := toSigned n bits; .fin (x < 0) x.natAbs 0
  | .nat n => .fin false (bits % 2 ^ n) 0
  | .plain _ => .fin false 0 0

/-- A converted value in its container (R401, R402): signed integers extended to 32 bits, TF32 in bits [31:13]. -/
def encodeTy (t : Ty) (mode : Rnd) (ovfx : Bool) (draw : Nat) (x : Fp) : Nat :=
  match t with
  | .fl f =>
    let c := roundConv f mode (defaultOvf f != ovfx) draw x
    if f == .tf32 then c * 2 ^ 13 else c
  | .int n => wrapInt (max n 32) (roundInt mode (intRange t).1 (intRange t).2 draw x)
  | .nat n => wrapInt (max n 32) (roundInt mode (intRange t).1 (intRange t).2 draw x)
  | .plain _ => 0

/-- The code an inline integer gives in a position of a type (R331). -/
def inlineCode (t : Ty) (i : Int) : Nat :=
  match t with
  | .fl .f64 => roundFin .f64 .rn true 0 (i < 0) i.natAbs 0
  | .fl .f32 => roundFin .f32 .rn true 0 (i < 0) i.natAbs 0
  | .fl .tf32 => roundFin .f32 .rn true 0 (i < 0) i.natAbs 0
  | .fl .f16 => roundFin .f16 .rn true 0 (i < 0) i.natAbs 0
  | .fl .bf16 => roundFin .bf16 .rn true 0 (i < 0) i.natAbs 0
  | .int 64 => wrapInt 64 i
  | .nat 64 => wrapInt 64 i
  | .plain 64 => wrapInt 64 i
  | _ => wrapInt 32 i

/-- One step of a lane's generator (R311). -/
def lfsrStep (s : W32) : W32 := if s.getLsbD 0 then (s >>> 1) ^^^ 0x80200003#32 else s >>> 1

/-- A draw: 32 steps, whose state is the draw (R311). -/
def lfsrDraw (s : W32) : W32 := (List.range 32).foldl (fun x _ => lfsrStep x) s

/-! Block scaling (R303 to R308). -/

/-- The scale field's exponent and fraction, the spare code (R303). -/
def metaE (w : W32) : Nat := field w.toNat 24 8
def metaG (w : W32) : Nat := field w.toNat 12 12
def metaSpare (w : W32) : Nat := field w.toNat 4 8

/-- The scale as m·2^e (R304); E = 255 is decided before. -/
def metaScale (w : W32) : Nat × Int :=
  if metaE w = 0 then (metaG w, -138) else (4096 + metaG w, (metaE w : Int) - 139)

/-- Whether code 0b1000 of an E2M1 block is the spare (R306). -/
def spareOn (f : FFmt) (feature6 : Bool) (w : W32) : Bool :=
  f == .e2m1 && feature6 && metaSpare w % 128 != 0 && metaE w != 255

/-- A value times the scale (R305). -/
def scaleFp (w : W32) : Fp → Fp
  | .nan => .nan
  | .inf n => if (metaScale w).1 = 0 then .nan else .inf n
  | .fin n m e => .fin n (m * (metaScale w).1) (e + (metaScale w).2)

/-- The value of an element code in its block (R305, R306). -/
def decodeBlock (f : FFmt) (feature6 : Bool) (w : W32) (code : Nat) : Fp :=
  if metaE w = 255 then .nan
  else if spareOn f feature6 w && code % 16 == 8 then scaleFp w (decodeF .e4m3 (metaSpare w))
  else scaleFp w (decodeF f (code % 2 ^ codeBits f))

/-- One representable magnitude on a side of zero: units at a common exponent, the code, and whether it is regular. -/
structure Rep where
  units : Nat
  code : Nat
  regular : Bool
  deriving DecidableEq, Repr

/-- Insert keeping magnitudes rising; a spare equal to a regular code gives way to it (R308). -/
def insertRep (r : Rep) : List Rep → List Rep
  | [] => [r]
  | x :: xs =>
    if r.units < x.units then r :: x :: xs
    else if r.units = x.units then (if x.regular then x else r) :: xs
    else x :: insertRep r xs

/-- The representable magnitudes of a block on one side of zero, in units of 2^(scale exponent − 9), rising (R308). -/
def blockSet (f : FFmt) (on : Bool) (w : W32) (neg : Bool) : List Rep :=
  let units (d : Nat × Int) : Nat := (d.1 * (metaScale w).1) <<< (d.2 + 16).toNat
  let zeroCode := if on then 0 else signBit f neg
  let regs := (List.range (maxMag f + 1)).map fun c =>
    (⟨units (decodeMag f c), if c = 0 then zeroCode else signBit f neg + c, true⟩ : Rep)
  let sp := metaSpare w
  if on && sp % 128 != 127 && (sp / 128 == 1) == neg then
    insertRep ⟨units (decodeMag .e4m3 (sp % 128)), 8, false⟩ regs
  else regs

/-- The exponent of blockSet's units. -/
def blockUnitExp (w : W32) : Int := (metaScale w).2 - 16

/-- The neighbours of a magnitude in a rising list: the last at or below it and the first above it. -/
def neighbours (x k : Nat) : List Rep → Option Rep → Option Rep × Option Rep
  | [], below => (below, none)
  | r :: rs, below => if r.units <<< k ≤ x then neighbours x k rs (some r) else (below, some r)

/-- Rounding between two neighbours of the set (R308, R309, R404). -/
def pickRep (mode : Rnd) (neg : Bool) (draw : Nat) (x k : Nat) (a b : Rep) : Rep :=
  let lo := a.units <<< k
  let hi := b.units <<< k
  if x = lo then a
  else
    let up := match mode with
      | .rn =>
        if x - lo = hi - x then
          if a.regular != b.regular then b.regular else b.code % 2 == 0
        else hi - x < x - lo
      | .rz => false
      | .ru => !neg
      | .rd => neg
      | .rs => decide (2 ^ 32 ≤ (x - lo) * 2 ^ 32 / (hi - lo) + draw)
    if up then b else a

/-- The last two distinct magnitudes of a rising list. -/
def topTwo : List Rep → Rep → Rep → Rep × Rep
  | [], p, q => (p, q)
  | r :: rs, _, q => topTwo rs q r

/-- An element code of a real value in a block (R404, R308, R313). -/
def encodeBlock (f : FFmt) (feature6 : Bool) (w : W32) (mode : Rnd) (ovfx : Bool) (draw : Nat) (x : Fp) : Nat :=
  let nanQ := match f with
    | .e4m3 => 0x7F
    | .e5m2 => 0x7E
    | _ => 0
  let on := spareOn f feature6 w
  if metaE w = 255 then nanQ
  else match x with
  | .nan => nanQ
  | .inf neg =>
    if (metaScale w).1 = 0 then (if on then 0 else signBit f neg)
    else if ovfx && f == .e4m3 then nanCode f
    else if ovfx && f == .e5m2 then infCode f neg
    else
      let set := blockSet f on w neg
      (topTwo set ⟨0, 0, true⟩ ⟨0, 0, true⟩).2.code
  | .fin neg m e =>
    if (metaScale w).1 = 0 then (if on then 0 else signBit f neg)
    else
      let set := blockSet f on w neg
      let ue := blockUnitExp w
      -- |x| and the set in units of 2^min(e, ue)
      let k := (ue - e).toNat
      let xs := m <<< (e - ue).toNat
      match neighbours xs k set none with
      | (some a, some b) => (pickRep mode neg draw xs k a b).code
      | (some a, none) =>
        if xs = a.units <<< k then a.code
        else
          let t := topTwo set ⟨0, 0, true⟩ ⟨0, 0, true⟩
          let beyond : Rep := ⟨2 * t.2.units - t.1.units, t.2.code + 1, true⟩
          let tooBig := beyond.units <<< k ≤ xs || pickRep mode neg draw xs k a beyond == beyond
          if tooBig && ovfx then
            (match f with
             | .e4m3 => overflowCode f mode neg true
             | .e5m2 => overflowCode f mode neg true
             | _ => a.code)
          else a.code
      | (none, _) => signBit f neg

end Sys2Proof.Machine
end

