-- ==== Sys2Proof/Machine/Operands.lean ====
section
/-! DEFINITION. Operand fields: their roles and checks (R329, R330, R335), the values sources supply (R331 to R333), the
registers destinations name; and the issue of an instruction with its checks in order (R325). -/

namespace Sys2Proof.Machine

/-- What a field is to its instruction (R330). Widths count 32-bit words. -/
inductive Role where
  /-- Not used: must hold Z (R335). -/
  | unused
  /-- A destination: its width, whether a V register and whether an S register may stand there; Z may. -/
  | dst (w : Nat) (v s : Bool)
  /-- A source: its width, and whether it must be uniform (R334, R362). -/
  | src (w : Nat) (uni : Bool)
  | pdst
  | psrc
  /-- An S register whose number is a multiple of m and at most top. -/
  | sMul (m top : Nat)
  /-- A variable-latency destination that must be a V, or an S, register whose number is a multiple of m and at most top. -/
  | out (v : Bool) (m top : Nat)
  /-- A V register whose number is a multiple of m; Z too where z holds. -/
  | vMul (m : Nat) (z : Bool)
  /-- The base of a global address: an even V or S pair, a constant-bank pair, a whole literal slot, or Z (R416). -/
  | base
  /-- The index of an address: a V or S register, or Z (R352). -/
  | index
  /-- The displacement of an address: no V register, no special value (R352). -/
  | disp
  deriving DecidableEq, Repr

/-- Whether a literal pattern names a literal slot of the clause (R330). -/
def litOk (r : Run) (k : Nat) : Bool := decide (k < r.words.length) && (litmapOf r.header).testBit k

/-- Whether a source pattern is accepted (R330, R333). -/
def srcOk (r : Run) (w : Nat) (uni : Bool) : Opnd → Bool
  | .v n => !uni && n.toNat % w == 0
  | .s n => n.toNat % w == 0
  | .k _ i => w == 1 || (w == 2 && i.toNat % 2 == 0)
  | .sp c => decide (c.toNat < 0x14) && (!uni || c != 0) && w != 4
  | .imm _ => w != 4
  | .lit k hi => w != 4 && litOk r k.toNat && !(w == 2 && hi)
  | .z => true
  | _ => false

/-- Whether a field's pattern suits its role (R329, R330, R335). -/
def roleOk (r : Run) : Role → Opnd → Bool
  | .unused, o => o == .z
  | .dst w v s, o => match o with
    | .v n => v && n.toNat % w == 0
    | .s n => s && n.toNat % w == 0
    | .z => true
    | _ => false
  | .src w uni, o => srcOk r w uni o
  | .pdst, o => match o with
    | .p _ => true
    | .z => true
    | _ => false
  | .psrc, o => match o with
    | .p _ => true
    | .z => true
    | _ => false
  | .sMul m top, o => match o with
    | .s n => n.toNat % m == 0 && decide (n.toNat ≤ top)
    | _ => false
  | .out v m top, o => match o with
    | .v n => v && n.toNat % m == 0
    | .s n => !v && n.toNat % m == 0 && decide (n.toNat ≤ top)
    | _ => false
  | .vMul m z, o => match o with
    | .v n => n.toNat % m == 0
    | .z => z
    | _ => false
  | .base, o => match o with
    | .sp _ => false
    | .imm _ => false
    | o => srcOk r 2 false o
  | .index, o => match o with
    | .v _ => true
    | .s _ => true
    | .z => true
    | _ => false
  | .disp, o => match o with
    | .v _ => false
    | .sp _ => false
    | o => srcOk r 1 false o

/-- The registers a field names, in words. -/
def roleWidth : Role → Nat
  | .dst w _ _ => w
  | .src w _ => w
  | .vMul m _ => m
  | .out _ m _ => m
  | .base => 2
  | _ => 1

/-- One past the highest vector register a field names. -/
def vTop (ro : Role) : Opnd → Nat
  | .v n => n.toNat + roleWidth ro
  | _ => 0

/-- The keys of the registers a field names in the lanes of a mask. -/
def fieldKeys (m : Mask) (ro : Role) : Opnd → List Nat
  | .v n => (lanesOf m).flatMap fun l => (List.range (roleWidth ro)).map fun j => vkey (n.toNat + j) l
  | .s n => (List.range (match ro with | .sMul _ top => 512 - top | ro => roleWidth ro)).map fun j => skey (n.toNat + j)
  | _ => []

def isDst : Role → Bool
  | .dst _ _ _ => true
  | .out _ _ _ => true
  | _ => false

/-- What the opcode tables and an instruction's description say of its word (R325, R339). -/
structure Form where
  /-- The bit of UNITS, 0 to 3 (R317). -/
  unit : Nat
  priv : Bool := false
  feature : Option Nat := none
  fcls : FCls := .none
  guarded : Bool := false
  /-- Ends its clause (R320). -/
  ends : Bool := false
  /-- Is not issued in a run that has recorded an exception (R469: TRAP). -/
  holds : Bool := false
  /-- Modifier fields hold no reserved bit or value. -/
  modOk : Bool := true
  ops : List (Opnd × Role)

/-- Whether no instruction word follows the current one in its clause (R320). -/
def isLast (r : Run) : Bool := (nextWord (litmapOf r.header) r.words.length (r.widx + 1)).isNone

/-- Check 1 of R325. -/
def illegal (f : Form) (h : Hdr) (cx : Cx) (s : State) : Bool :=
  (f.priv && !cx.w.firmware)
    || (match f.feature with | some n => !featureOn s n | none => false)
    || !(unitsOf cx.run.header).testBit f.unit
    || (!f.guarded && h.g != 7)
    || !flagOk f.fcls h.f.toNat
    || (f.ends && !isLast cx.run)
    || !f.modOk

/-- Checks 1 to 3 of R325: the code of the first that fails. -/
def checkForm (f : Form) (h : Hdr) (cx : Cx) (s : State) : Option Nat :=
  if illegal f h cx s then some 1
  else if f.ops.any fun e => !roleOk cx.run e.2 e.1 then some 2
  else if f.ops.any fun e => decide (cx.g.vregs < vTop e.2 e.1) then some 3
  else none

/-- The exception of a word that the opcode map does not assign (R325); X of BALLOT and VOTE is an operand (R411), seen after
the first check's other conditions (DEDUCED, log 53). -/
def refusalCode (cx : Cx) (w : W64) (s : State) : DecodeError → Nat
  | .operandX => if illegal { unit := 0, ops := [] } (hdrOf w) cx s then 1 else 2
  | _ => 1

/-- The hazard of R221: in hazard-check mode the instruction reads the destination of an outstanding operation, or writes
it with fixed latency. -/
def hazard (f : Form) (cx : Cx) : Bool :=
  cx.g.trap.hchk && !cx.g.ops.isEmpty &&
    (f.ops.any fun e =>
      (!isDst e.2 || f.fcls == .none) && (fieldKeys cx.run.lanes e.2 e.1).any fun k => (opOn cx.g k).isSome)

/-- Lanes that execute an ACQ which is not done are held (R434). -/
def acqHeld (cx : Cx) : Bool :=
  cx.g.ops.any fun o => !o.ready && o.kind == .acquire && o.lanes &&& cx.run.lanes != 0

/-- The issue of an instruction in a run: held back (R363, R469), refused by a check (R325), stalled by a full flag
(R219), or its effect. -/
def issueIn (f : Form) (h : Hdr) (eff : Cx → State → State) (cx : Cx) (s : State) : State :=
  if cx.run.exc.isSome && (f.holds || (f.ends && isLast cx.run)) then modRun s cx.rk fun r => { r with ends := .heldBack }
  else match checkForm f h cx s with
    | some c => raiseExc cx c 0 s
    | none =>
      if acqHeld cx then stall cx s
      else if hazard f cx then raiseExc cx 10 0 s
      else if h.f.toNat < 12 && decide (63 ≤ flagCount cx.g h.f.toNat) then stall cx s
      else eff cx { s with tick := s.tick + 1 }

/-- An instruction issues in the run in focus; with no run in focus no instruction can (the model's own stop). -/
def issue (f : Form) (h : Hdr) (eff : Cx → State → State) (s : State) : Host.Outcome State Fault Refusal :=
  match cxOf s with
  | none => .fault .noRun
  | some cx => .next (issueIn f h eff cx s)

/-! ### Values -/

/-- A register as an instruction at issue reads it: where an outstanding operation has a result for it, one of the two
values, by an open choice (R221) (DESIGN CHOICE, log 20). -/
def rdKey (cx : Cx) (s : State) (key : Nat) (x : W32) : W32 :=
  if cx.g.ops.isEmpty then x
  else match opOn cx.g key with
    | none => x
    | some o =>
      match o.results.find? fun e => e.1 == key with
      | some e => if Config.freeBool s.tick key o.id then e.2 else x
      | none => x

def rdV (cx : Cx) (s : State) (n l : Nat) : W32 := rdKey cx s (vkey n l) (vreg cx.g n l)
def rdS (cx : Cx) (s : State) (n : Nat) : W32 := rdKey cx s (skey n) (sreg cx.g n)

/-- A constant-bank word; an unbound bank reads 0 (R332). -/
def rdK (cx : Cx) (s : State) (b i : Nat) : W32 :=
  let pa := cx.w.banks.getD b 0
  if pa = 0 then 0 else BitVec.ofNat 32 (memNat s (pa + 4 * i) 4)

/-- The special values (R333). -/
def special (cx : Cx) (s : State) (l c : Nat) : W32 :=
  let n (x : Nat) : W32 := BitVec.ofNat 32 x
  match c with
  | 0x00 => n l
  | 0x01 => cx.run.lanes
  | 0x02 => n cx.g.num
  | 0x03 => n cx.w.ngroups
  | 0x04 => n cx.g.role
  | 0x05 => n cx.run.slot
  | 0x06 => n cx.q
  | 0x07 => n cx.core
  | 0x08 => n (clusterOf cx.core)
  | 0x09 => n (dieOf cx.core)
  | 0x0A => n (cx.w.index % cx.w.gridX)
  | 0x0B => n (cx.w.index / cx.w.gridX % cx.w.gridY)
  | 0x0C => n (cx.w.index / (cx.w.gridX * cx.w.gridY))
  | 0x0D => n cx.w.gridX
  | 0x0E => n cx.w.gridY
  | 0x0F => n cx.w.gridZ
  | 0x10 => n cx.w.index
  | 0x11 => n cx.w.brow
  | 0x12 => n cx.w.bcol
  | 0x13 => n ((clusterSt s (clusterOf cx.core)).cycles16 / 16)
  | _ => 0

/-- The whole 64 bits of literal slot k. -/
def literal (cx : Cx) (k : Nat) : W64 := cx.run.words.getD k 0

/-- A 32-bit source in lane l; `t` is the type of its position, which decides an inline value's bits (R331). -/
def rd32 (cx : Cx) (s : State) (t : Ty) (o : Opnd) (l : Nat) : W32 :=
  match o with
  | .v n => rdV cx s n.toNat l
  | .s n => rdS cx s n.toNat
  | .k b i => rdK cx s b.toNat i.toNat
  | .sp c => special cx s l c.toNat
  | .imm i => BitVec.ofNat 32 (inlineCode t i.toInt)
  | .lit k hi => if hi then hi32 (literal cx k.toNat) else lo32 (literal cx k.toNat)
  | _ => 0

/-- A 64-bit source in lane l (R331). -/
def rd64 (cx : Cx) (s : State) (t : Ty) (o : Opnd) (l : Nat) : W64 :=
  match o with
  | .v n => pair64 (rdV cx s n.toNat l) (rdV cx s (n.toNat + 1) l)
  | .s n => pair64 (rdS cx s n.toNat) (rdS cx s (n.toNat + 1))
  | .k b i => pair64 (rdK cx s b.toNat i.toNat) (rdK cx s b.toNat (i.toNat + 1))
  | .sp c => (special cx s l c.toNat).zeroExtend 64
  | .imm i => BitVec.ofNat 64 (inlineCode t i.toInt)
  | .lit k _ => literal cx k.toNat
  | _ => 0

/-- A 128-bit source in lane l, as a number (R331). -/
def rd128 (cx : Cx) (s : State) (o : Opnd) (l : Nat) : Nat :=
  match o with
  | .v n => iter 4 (fun j x => x + (rdV cx s (n.toNat + j) l).toNat * 2 ^ (32 * j)) 0
  | .s n => iter 4 (fun j x => x + (rdS cx s (n.toNat + j)).toNat * 2 ^ (32 * j)) 0
  | _ => 0

/-- An integer position's 32 and 64 bits. -/
def rdI (cx : Cx) (s : State) (o : Opnd) (l : Nat) : W32 := rd32 cx s (.plain 32) o l
def rdI64 (cx : Cx) (s : State) (o : Opnd) (l : Nat) : W64 := rd64 cx s (.plain 64) o l

/-- The lowest executing lane: the elected lane of a once-per-issue instruction. -/
def elected (cx : Cx) : Nat := (firstBelow 32 fun l => cx.run.lanes.getLsbD l).getD 0

/-- The writes of a 32-bit destination in the lanes of a mask: an S register takes the elected lane's value, Z
discards. -/
def wr32 (cx : Cx) (o : Opnd) (m : Mask) (x : Nat → W32) : List Wr :=
  match o with
  | .v n => (lanesOf m).map fun l => .v n.toNat l (x l)
  | .s n => [.s n.toNat (x (elected cx))]
  | _ => []

/-- The writes of a 64-bit destination. -/
def wr64 (cx : Cx) (o : Opnd) (m : Mask) (x : Nat → W64) : List Wr :=
  match o with
  | .v n => (lanesOf m).flatMap fun l => [.v n.toNat l (lo32 (x l)), .v (n.toNat + 1) l (hi32 (x l))]
  | .s n => [.s n.toNat (lo32 (x (elected cx))), .s (n.toNat + 1) (hi32 (x (elected cx)))]
  | _ => []

/-- The keys and values of a variable-latency result of `w` words in a lane. -/
def resultKeys (o : Opnd) (w l : Nat) (x : Nat) : List (Nat × W32) :=
  match o with
  | .v n => (List.range w).map fun j => (vkey (n.toNat + j) l, BitVec.ofNat 32 (field x (32 * j) 32))
  | .s n => (List.range w).map fun j => (skey (n.toNat + j), BitVec.ofNat 32 (field x (32 * j) 32))
  | _ => []

/-- Whether a destination field takes the scalar path (R334). -/
def isS : Opnd → Bool
  | .s _ => true
  | _ => false

/-- A 32-bit result in every executing lane, or once on the scalar path. -/
def put32 (cx : Cx) (d : Opnd) (f : Nat → W32) (s : State) : State := fixWrites cx (wr32 cx d cx.run.lanes f) s
def put64 (cx : Cx) (d : Opnd) (f : Nat → W64) (s : State) : State := fixWrites cx (wr64 cx d cx.run.lanes f) s
def putPred (cx : Cx) (d : Opnd) (f : Nat → Bool) (s : State) : State := fixWrites cx (wrPred cx d (maskOf f)) s

/-- The role of a source of `w` words, 0 for an unused field. -/
def srcRole (w : Nat) (uni : Bool) : Role := if w = 0 then .unused else .src w uni

end Sys2Proof.Machine
end

