-- ==== Sys2Proof/Machine/Special.lean ====
section
/-! DEFINITION. The lane special functions (R397 to R399): correctly rounded FRCP and FSQRT; for the faithful ones the
two adjacent representable values by fixed-point arithmetic, the choice between them a free value of Config. -/

namespace Sys2Proof.Machine

/-- Fractional bits of the fixed-point arithmetic below. -/
def fxBits : Nat := 384

/-- π and ln 2 in units of 2^-384, truncated. -/
def fxPi : Nat := 0x3243f6a8885a308d313198a2e03707344a4093822299f31d0082efa98ec4e6c89452821e638d01377be5466cf34e90c6c
def fxLn2 : Nat := 0xb17217f7d1cf79abc9e3b39803f2f6af40f343267298b62d8a0d175b8baafa2be7b876206debac98559552fb4afa1b10

/-- The integer square root, bit by bit from bit b-1 down. -/
def isqrtGo : Nat → Nat → Nat → Nat
  | 0, _, r => r
  | b + 1, n, r => if (r + 2 ^ b) * (r + 2 ^ b) ≤ n then isqrtGo b n (r + 2 ^ b) else isqrtGo b n r

def isqrt (n : Nat) : Nat := isqrtGo (bitLen n / 2 + 1) n 0

/-- e^x for x in [0, 1), fixed point: 90 terms of the series. -/
def fxExp (x : Nat) : Nat :=
  ((List.range 90).foldl (fun (r : Nat × Nat) k =>
    let t := (r.1 * x) >>> fxBits / (k + 1)
    (t, r.2 + t)) (2 ^ fxBits, 2 ^ fxBits)).2

/-- sin x for x in [0, 2), fixed point. -/
def fxSin (x : Nat) : Nat :=
  let x2 := (x * x) >>> fxBits
  ((List.range 60).foldl (fun (r : Nat × Nat) k =>
    let t := (r.1 * x2) >>> fxBits / ((2 * k + 2) * (2 * k + 3))
    (t, if k % 2 = 0 then r.2 - t else r.2 + t)) (x, x)).2

/-- log2 of f in [1, 2), fixed point, `n` bits by repeated squaring. -/
def fxLog2 (n f : Nat) : Nat :=
  ((List.range n).foldl (fun (r : Nat × Nat) _ =>
    let q := (r.1 * r.1) >>> fxBits
    if 2 ^ (fxBits + 1) ≤ q then (q / 2, 2 * r.2 + 1) else (q, 2 * r.2)) (f, 0)).2

/-- A quotient-like magnitude n/d·2^e correctly rounded by .RN, with a sticky bit (R397). -/
def roundRatio (f : FFmt) (neg : Bool) (n d : Nat) (e : Int) : Nat :=
  let k : Nat := 240
  let q := n * 2 ^ k / d
  let sticky := if n * 2 ^ k % d = 0 then 0 else 1
  roundFin f .rn true 0 neg (2 * q + sticky) (e - k - 1)

/-- 1 / a (R397, R399). -/
def frcp (f : FFmt) (x : Fp) : Nat :=
  match x with
  | .nan => nanCode f
  | .inf n => signBit f n
  | .fin n m e => if m = 0 then infCode f n else roundRatio f n 1 m (-e)

/-- √a (R397, R399). -/
def fsqrt (f : FFmt) (x : Fp) : Nat :=
  match x with
  | .nan => nanCode f
  | .inf n => if n then nanCode f else infCode f false
  | .fin n m e =>
    if m = 0 then signBit f n
    else if n then nanCode f
    else
      let odd := e % 2 = 1
      let m2 := if odd then 2 * m else m
      let e2 := if odd then e - 1 else e
      let big := m2 <<< 240
      let r := isqrt big
      roundFin f .rn true 0 false (2 * r + (if r * r = big then 0 else 1)) (e2 / 2 - 121)

/-- One of the two representable magnitudes adjacent to a magnitude that is not representable, given by a truncation of it
(R398); the choice is a free value (DEDUCED, log 19). -/
def faithful (f : FFmt) (fn input : Nat) (neg : Bool) (m : Nat) (e : Int) : Nat :=
  let q := max (emin f) (e + (bitLen m : Int) - 1 - (fracBits f : Int))
  let lo := (q - emin f).toNat * 2 ^ fracBits f + roundUnits .rz neg m e q 0
  let lo' := if m = 0 then 0 else min lo (maxMag f)
  signBit f neg + (if Config.faithfulUp fn input then lo' + 1 else lo')

/-- 1 / √a (R397 to R399): exact for a power of four. -/
def frsq (f : FFmt) (input : Nat) (x : Fp) : Nat :=
  match x with
  | .nan => nanCode f
  | .inf n => if n then nanCode f else 0
  | .fin n m e =>
    if m = 0 then infCode f n
    else if n then nanCode f
    else
      let odd := e % 2 = 1
      let m2 := if odd then 2 * m else m
      let e2 := if odd then e - 1 else e
      let k : Nat := 200
      let r := isqrt (2 ^ (2 * k) / m2)
      if r * r * m2 = 2 ^ (2 * k) then roundFin f .rn true 0 false r (-(e2 / 2) - k)
      else faithful f 2 input false r (-(e2 / 2) - k)

/-- A finite value as a fixed-point integer number of units 2^-384, truncated toward zero. -/
def fxOf (m : Nat) (e : Int) : Nat :=
  let k := e + fxBits
  if 0 ≤ k then m <<< k.toNat else m >>> (-k).toNat

/-- 2^a (R397 to R399). -/
def fexp2 (input : Nat) (x : Fp) : Nat :=
  match x with
  | .nan => nanCode .f32
  | .inf n => if n then 0 else infCode .f32 false
  | .fin neg m e =>
    if m = 0 then 0x3F800000
    else if 256 ≤ m <<< e.toNat >>> (-e).toNat ∧ neg then faithful .f32 3 input false 1 (-400)
    else if 128 ≤ m <<< e.toNat >>> (-e).toNat ∧ !neg then infCode .f32 false
    else
      let y : Int := if neg then -(fxOf m e : Int) else fxOf m e
      let n := y / 2 ^ fxBits
      let fr := (y % 2 ^ fxBits).toNat
      if fr = 0 then
        if n < -149 then faithful .f32 3 input false 1 (-400) else roundFin .f32 .rn true 0 false 1 n
      else faithful .f32 3 input false (fxExp ((fr * fxLn2) >>> fxBits)) (n - fxBits)

/-- log2 a (R397 to R399). -/
def flog2 (input : Nat) (x : Fp) : Nat :=
  match x with
  | .nan => nanCode .f32
  | .inf n => if n then nanCode .f32 else infCode .f32 false
  | .fin neg m e =>
    if m = 0 then infCode .f32 true
    else if neg then nanCode .f32
    else
      let k := e + (bitLen m : Int) - 1
      if m = 2 ^ (bitLen m - 1) then roundFin .f32 .rn true 0 (k < 0) k.natAbs 0
      else
        let fr := fxLog2 160 (m <<< (fxBits + 1 - bitLen m))
        if k < 0 then faithful .f32 4 input true (k.natAbs * 2 ^ 160 - fr - 1) (-160)
        else faithful .f32 4 input false (k.natAbs * 2 ^ 160 + fr) (-160)

/-- sin(π·t) for t in units of 2^-384 half-turns, 0 < t < 1/2, as a code of a sign. -/
def sinTurn (fn input : Nat) (neg : Bool) (t : Nat) : Nat :=
  faithful .f32 fn input neg (min (fxSin ((t * fxPi) >>> fxBits)) (2 ^ fxBits - 1)) (-fxBits)

/-- sin(π·r) for r in units of 2^-384, taken modulo 2 half-turns, not an integer; the sign of the argument is folded
in by the caller (R399). -/
def sinReduced (fn input : Nat) (neg : Bool) (r : Nat) : Nat :=
  let one := 2 ^ fxBits
  let neg' := neg != decide (one ≤ r)
  let q := r % one
  let t := if 2 * q ≤ one then q else one - q
  if 2 * t = one then signBit .f32 neg' + 0x3F800000 else sinTurn fn input neg' t

/-- sin(π·a) (R397 to R399). -/
def fsin (input : Nat) (x : Fp) : Nat :=
  match x with
  | .nan => nanCode .f32
  | .inf _ => nanCode .f32
  | .fin neg m e =>
    let r := fxOf m e % 2 ^ (fxBits + 1)
    if r % 2 ^ fxBits = 0 then signBit .f32 neg else sinReduced 5 input neg r

/-- cos(π·a) (R397 to R399). -/
def fcos (input : Nat) (x : Fp) : Nat :=
  match x with
  | .nan => nanCode .f32
  | .inf _ => nanCode .f32
  | .fin _ m e =>
    let one := 2 ^ fxBits
    let r := fxOf m e % (2 * one)
    if r % one = 0 then signBit .f32 (r = one) + 0x3F800000
    else if 2 * (r % one) = one then 0
    else sinReduced 6 input false ((r + one / 2) % (2 * one))

/-- tanh a (R397 to R399). -/
def ftanh (input : Nat) (x : Fp) : Nat :=
  match x with
  | .nan => nanCode .f32
  | .inf n => signBit .f32 n + 0x3F800000
  | .fin neg m e =>
    if m = 0 then signBit .f32 neg
    else
      let one := 2 ^ fxBits
      let z := 2 * fxOf m e
      if 64 * one ≤ z then faithful .f32 7 input neg (one - 1) (-fxBits)
      else
        let n := z / fxLn2
        let ex := fxExp (z - n * fxLn2) <<< n
        faithful .f32 7 input neg (min ((ex - one) * one / (ex + one)) (one - 1)) (-fxBits)

end Sys2Proof.Machine
end

