-- ==== Sys2Proof/Machine/Float.lean ====
section
/-! DEFINITION. Group 010: floating point (R388 to R399). -/

namespace Sys2Proof.Machine

/-! ### Elements, draws, results -/

/-- 32-bit words of a position of a format, and elements in it (R393). -/
def fpWords : FFmt → Nat
  | .f64 => 2
  | _ => 1

def fpElems : FFmt → Nat
  | .f16 => 2
  | .bf16 => 2
  | _ => 1

/-- The issue cycles of arithmetic in a format (R389). -/
def fpCycles : FFmt → Nat
  | .f64 => 4
  | _ => 1

/-- The bits of a position of a format; an inline value stands in both halves of a packed one (R331). -/
def rdFp (cx : Cx) (s : State) (f : FFmt) (o : Opnd) (l : Nat) : Nat :=
  match f, o with
  | .f64, o => (rd64 cx s (.fl .f64) o l).toNat
  | .f32, o => (rd32 cx s (.fl .f32) o l).toNat
  | f, .imm i => inlineCode (.fl f) i.toInt * (2 ^ 16 + 1)
  | f, o => (rd32 cx s (.fl f) o l).toNat

/-- Element e of a position, and its value. -/
def elemOf (f : FFmt) (x e : Nat) : Nat := field x (codeBits f * e) (codeBits f)
def elemVal (f : FFmt) (x e : Nat) : Fp := decodeF f (elemOf f x e)

/-- A position made of its elements. -/
def mapElems (f : FFmt) (g : Nat → Nat) : Nat := packFields (codeBits f) ((List.range (fpElems f)).map g)

/-- A position's result in every executing lane. -/
def putFp (cx : Cx) (f : FFmt) (d : Opnd) (x : Nat → Nat) (s : State) : State :=
  match f with
  | .f64 => put64 cx d (fun l => BitVec.ofNat 64 (x l)) s
  | _ => put32 cx d (fun l => BitVec.ofNat 32 (x l)) s

/-- The (k+1)-th draw from a generator state (R311). -/
def drawAt (gen : W32) : Nat → W32
  | 0 => lfsrDraw gen
  | k + 1 => lfsrDraw (drawAt gen k)

/-- The draw that element e of lane l uses (R310, R390). -/
def laneDraw (cx : Cx) (l e : Nat) : Nat := (drawAt (laneOf cx.g l).gen e).toNat

/-- Under .RS every executing lane takes n draws (R310). -/
def takeDraws (cx : Cx) (x : Rnd) (n : Nat) (s : State) : State :=
  match x, n with
  | .rs, n + 1 => modGroup s cx.gk fun g => onLanes g cx.run.lanes fun y => { y with gen := drawAt y.gen n }
  | _, _ => s

/-- .RS needs feature 4 (R348). -/
def rsFeature : Rnd → Option Nat
  | .rs => some 4
  | _ => none

/-- The checks of an arithmetic word: sources of the format, a V destination (R388). -/
def fpForm (f : FFmt) (x : Rnd) (d a b c : Opnd × Bool) : Form :=
  let src (o : Opnd × Bool) : Opnd × Role := (o.1, if o.2 then .src (fpWords f) false else .unused)
  { unit := 0, feature := rsFeature x
    ops := [(d.1, .dst (fpWords f) true false), src a, src b, src c] }

/-- An arithmetic result: each element rounded once, with its draw (R390, R393). -/
def fpArith (h : Hdr) (f : FFmt) (x : Rnd) (ovfx : Bool) (form : Form) (d : Opnd) (v : Cx → State → Nat → Nat → Fp)
    (s : State) : Host.Outcome State Fault Refusal :=
  issue form h (fun cx s =>
    let r (l : Nat) : Nat := mapElems f fun e => roundArith f x (defaultOvf f != ovfx) (laneDraw cx l e) (v cx s l e)
    putFp cx f d r (takeDraws cx x (fpElems f) (takeCycles cx (fpCycles f) s))) s

/-- The source modifiers of R391 on A and B. -/
def modA (c : BitVec 11) (v : Fp) : Fp := fpSign (c.getLsbD 2) (c.getLsbD 0) v
def modB (c : BitVec 11) (v : Fp) : Fp := fpSign (c.getLsbD 3) (c.getLsbD 1) v

/-! ### FADD, FMUL, FMA (R391 to R393) -/

/-- The checks of FADD and FMUL: C[10:5] is zero (R391). -/
def fpFormM (f : FFmt) (x : Rnd) (o : RM) : Form :=
  let w : Role := .src (fpWords f) false
  { unit := 0, feature := rsFeature x, modOk := decide (o.c.toNat < 32)
    ops := [(o.d, .dst (fpWords f) true false), (o.a, w), (o.b, w)] }

def fadd (h : Hdr) (f : FFmt) (x : Rnd) (o : RM) (s : State) : Host.Outcome State Fault Refusal :=
  fpArith h f x (o.c.getLsbD 4) (fpFormM f x o) o.d
    (fun cx s l e => fpAdd (x == .rd) (modA o.c (elemVal f (rdFp cx s f o.a l) e)) (modB o.c (elemVal f (rdFp cx s f o.b l) e))) s

def fmul (h : Hdr) (f : FFmt) (x : Rnd) (o : RM) (s : State) : Host.Outcome State Fault Refusal :=
  fpArith h f x (o.c.getLsbD 4) (fpFormM f x o) o.d
    (fun cx s l e => fpMul (modA o.c (elemVal f (rdFp cx s f o.a l) e)) (modB o.c (elemVal f (rdFp cx s f o.b l) e))) s

def fma (h : Hdr) (f : FFmt) (x : Rnd) (o : R4) (s : State) : Host.Outcome State Fault Refusal :=
  fpArith h f x false (fpForm f x (o.d, true) (o.a, true) (o.b, true) (o.c, true)) o.d
    (fun cx s l e =>
      fpAdd (x == .rd) (fpMul (elemVal f (rdFp cx s f o.a l) e) (elemVal f (rdFp cx s f o.b l) e))
        (elemVal f (rdFp cx s f o.c l) e)) s

/-- FADD.F32 (R393). -/
def execFaddF32 (h : Hdr) (x : Rnd) (o : RM) (s : State) : Host.Outcome State Fault Refusal := fadd h .f32 x o s
/-- FADD.F64 (R393). -/
def execFaddF64 (h : Hdr) (x : Rnd) (o : RM) (s : State) : Host.Outcome State Fault Refusal := fadd h .f64 x o s
/-- FADD.F16 (R393). -/
def execFaddF16 (h : Hdr) (x : Rnd) (o : RM) (s : State) : Host.Outcome State Fault Refusal := fadd h .f16 x o s
/-- FADD.BF16 (R393). -/
def execFaddBf16 (h : Hdr) (x : Rnd) (o : RM) (s : State) : Host.Outcome State Fault Refusal := fadd h .bf16 x o s
/-- FMUL.F32 (R393). -/
def execFmulF32 (h : Hdr) (x : Rnd) (o : RM) (s : State) : Host.Outcome State Fault Refusal := fmul h .f32 x o s
/-- FMUL.F64 (R393). -/
def execFmulF64 (h : Hdr) (x : Rnd) (o : RM) (s : State) : Host.Outcome State Fault Refusal := fmul h .f64 x o s
/-- FMUL.F16 (R393). -/
def execFmulF16 (h : Hdr) (x : Rnd) (o : RM) (s : State) : Host.Outcome State Fault Refusal := fmul h .f16 x o s
/-- FMUL.BF16 (R393). -/
def execFmulBf16 (h : Hdr) (x : Rnd) (o : RM) (s : State) : Host.Outcome State Fault Refusal := fmul h .bf16 x o s
/-- FMA.F32 (R393). -/
def execFmaF32 (h : Hdr) (x : Rnd) (o : R4) (s : State) : Host.Outcome State Fault Refusal := fma h .f32 x o s
/-- FMA.F64 (R393). -/
def execFmaF64 (h : Hdr) (x : Rnd) (o : R4) (s : State) : Host.Outcome State Fault Refusal := fma h .f64 x o s
/-- FMA.F16 (R393). -/
def execFmaF16 (h : Hdr) (x : Rnd) (o : R4) (s : State) : Host.Outcome State Fault Refusal := fma h .f16 x o s
/-- FMA.BF16 (R393). -/
def execFmaBf16 (h : Hdr) (x : Rnd) (o : R4) (s : State) : Host.Outcome State Fault Refusal := fma h .bf16 x o s

/-! ### FMIN, FMAX, FCMP (R394, R395) -/

/-- A form that picks one of two elements, without rounding. -/
def fpick (h : Hdr) (f : FFmt) (g : FFmt → Nat → Nat → Nat) (o : R4) (s : State) : Host.Outcome State Fault Refusal :=
  issue (fpForm f .rn (o.d, true) (o.a, true) (o.b, true) (o.c, false)) h
    (fun cx s => putFp cx f o.d
      (fun l => mapElems f fun e => g f (elemOf f (rdFp cx s f o.a l) e) (elemOf f (rdFp cx s f o.b l) e))
      (takeCycles cx (fpCycles f) s)) s

/-- FMIN.F32 (R394). -/
def execFminF32 (h : Hdr) (o : R4) (s : State) : Host.Outcome State Fault Refusal := fpick h .f32 fminCode o s
/-- FMIN.F64 (R394). -/
def execFminF64 (h : Hdr) (o : R4) (s : State) : Host.Outcome State Fault Refusal := fpick h .f64 fminCode o s
/-- FMIN.F16 (R394). -/
def execFminF16 (h : Hdr) (o : R4) (s : State) : Host.Outcome State Fault Refusal := fpick h .f16 fminCode o s
/-- FMIN.BF16 (R394). -/
def execFminBf16 (h : Hdr) (o : R4) (s : State) : Host.Outcome State Fault Refusal := fpick h .bf16 fminCode o s
/-- FMAX.F32 (R394). -/
def execFmaxF32 (h : Hdr) (o : R4) (s : State) : Host.Outcome State Fault Refusal := fpick h .f32 fmaxCode o s
/-- FMAX.F64 (R394). -/
def execFmaxF64 (h : Hdr) (o : R4) (s : State) : Host.Outcome State Fault Refusal := fpick h .f64 fmaxCode o s
/-- FMAX.F16 (R394). -/
def execFmaxF16 (h : Hdr) (o : R4) (s : State) : Host.Outcome State Fault Refusal := fpick h .f16 fmaxCode o s
/-- FMAX.BF16 (R394). -/
def execFmaxBf16 (h : Hdr) (o : R4) (s : State) : Host.Outcome State Fault Refusal := fpick h .bf16 fmaxCode o s

/-- A packed compare is true when both elements satisfy the condition (R395). -/
def fcmp (h : Hdr) (f : FFmt) (x : FCc) (o : R4) (s : State) : Host.Outcome State Fault Refusal :=
  let w : Role := .src (fpWords f) false
  issue { unit := 0, ops := [(o.d, .pdst), (o.a, w), (o.b, w), (o.c, .unused)] } h
    (fun cx s => putPred cx o.d
      (fun l => (List.range (fpElems f)).all fun e =>
        fcmpHolds x (elemVal f (rdFp cx s f o.a l) e) (elemVal f (rdFp cx s f o.b l) e))
      (takeCycles cx (fpCycles f) s)) s

/-- FCMP.F32 (R395). -/
def execFcmpF32 (h : Hdr) (x : FCc) (o : R4) (s : State) : Host.Outcome State Fault Refusal := fcmp h .f32 x o s
/-- FCMP.F64 (R395). -/
def execFcmpF64 (h : Hdr) (x : FCc) (o : R4) (s : State) : Host.Outcome State Fault Refusal := fcmp h .f64 x o s
/-- FCMP.F16 (R395). -/
def execFcmpF16 (h : Hdr) (x : FCc) (o : R4) (s : State) : Host.Outcome State Fault Refusal := fcmp h .f16 x o s
/-- FCMP.BF16 (R395). -/
def execFcmpBf16 (h : Hdr) (x : FCc) (o : R4) (s : State) : Host.Outcome State Fault Refusal := fcmp h .bf16 x o s

/-! ### Special functions (R397 to R399) -/

/-- A function of one source: 4 issue cycles in FP32, 16 in FP64 (R389). -/
def fspecial (h : Hdr) (f : FFmt) (g : Nat → Fp → Nat) (o : R4) (s : State) : Host.Outcome State Fault Refusal :=
  issue (fpForm f .rn (o.d, true) (o.a, true) (o.b, false) (o.c, false)) h
    (fun cx s => putFp cx f o.d
      (fun l => g (rdFp cx s f o.a l) (elemVal f (rdFp cx s f o.a l) 0))
      (takeCycles cx (if f == .f64 then 16 else 4) s)) s

/-- FRCP.F32 (R397). -/
def execFrcpF32 (h : Hdr) (o : R4) (s : State) : Host.Outcome State Fault Refusal := fspecial h .f32 (fun _ x => frcp .f32 x) o s
/-- FSQRT.F32 (R397). -/
def execFsqrtF32 (h : Hdr) (o : R4) (s : State) : Host.Outcome State Fault Refusal := fspecial h .f32 (fun _ x => fsqrt .f32 x) o s
/-- FRSQ.F32 (R397). -/
def execFrsqF32 (h : Hdr) (o : R4) (s : State) : Host.Outcome State Fault Refusal := fspecial h .f32 (frsq .f32) o s
/-- FEXP2.F32 (R397). -/
def execFexp2F32 (h : Hdr) (o : R4) (s : State) : Host.Outcome State Fault Refusal := fspecial h .f32 fexp2 o s
/-- FLOG2.F32 (R397). -/
def execFlog2F32 (h : Hdr) (o : R4) (s : State) : Host.Outcome State Fault Refusal := fspecial h .f32 flog2 o s
/-- FSIN.F32 (R397). -/
def execFsinF32 (h : Hdr) (o : R4) (s : State) : Host.Outcome State Fault Refusal := fspecial h .f32 fsin o s
/-- FCOS.F32 (R397). -/
def execFcosF32 (h : Hdr) (o : R4) (s : State) : Host.Outcome State Fault Refusal := fspecial h .f32 fcos o s
/-- FTANH.F32 (R397). -/
def execFtanhF32 (h : Hdr) (o : R4) (s : State) : Host.Outcome State Fault Refusal := fspecial h .f32 ftanh o s
/-- FRCP.F64 (R397). -/
def execFrcpF64 (h : Hdr) (o : R4) (s : State) : Host.Outcome State Fault Refusal := fspecial h .f64 (fun _ x => frcp .f64 x) o s
/-- FSQRT.F64 (R397). -/
def execFsqrtF64 (h : Hdr) (o : R4) (s : State) : Host.Outcome State Fault Refusal := fspecial h .f64 (fun _ x => fsqrt .f64 x) o s
/-- FRSQ.F64 (R397). -/
def execFrsqF64 (h : Hdr) (o : R4) (s : State) : Host.Outcome State Fault Refusal := fspecial h .f64 (frsq .f64) o s

/-! ### Immediate forms (R336, R396) -/

/-- The FP32 number an I20 field stands for. -/
def i20Bits (q : BitVec 20) : W32 := q ++ (0 : BitVec 12)
def i20Val (q : BitVec 20) : Fp := decodeF .f32 (i20Bits q).toNat

/-- The checks of an I20 word; bits [4:3] are zero. -/
def i20Form (x : Rnd) (o : I20) (a : Role) : Form :=
  { unit := 0, feature := rsFeature x, modOk := o.r == 0, ops := [(o.d, .dst 1 true false), (o.a, a)] }

/-- A 32-bit FP32 source's value. -/
def f32Val (cx : Cx) (s : State) (o : Opnd) (l : Nat) : Fp := elemVal .f32 (rdFp cx s .f32 o l) 0

/-- FADDI.F32 (R396). -/
def execFaddiF32 (h : Hdr) (x : Rnd) (o : I20) (s : State) : Host.Outcome State Fault Refusal :=
  fpArith h .f32 x false (i20Form x o (.src 1 false)) o.d
    (fun cx s l _ => fpAdd (x == .rd) (f32Val cx s o.a l) (i20Val o.q)) s

/-- FMULI.F32 (R396). -/
def execFmuliF32 (h : Hdr) (x : Rnd) (o : I20) (s : State) : Host.Outcome State Fault Refusal :=
  fpArith h .f32 x false (i20Form x o (.src 1 false)) o.d
    (fun cx s l _ => fpMul (f32Val cx s o.a l) (i20Val o.q)) s

/-- FMAI.F32 (R396): D is read too; a Z destination reads zero. -/
def execFmaiF32 (h : Hdr) (x : Rnd) (o : I20) (s : State) : Host.Outcome State Fault Refusal :=
  fpArith h .f32 x false (i20Form x o (.src 1 false)) o.d
    (fun cx s l _ => fpAdd (x == .rd) (fpMul (f32Val cx s o.d l) (f32Val cx s o.a l)) (i20Val o.q)) s

/-- FMOVI.F32 (R396): bit for bit. -/
def execFmoviF32 (h : Hdr) (o : I20) (s : State) : Host.Outcome State Fault Refusal :=
  issue (i20Form .rn o .unused) h (fun cx s => put32 cx o.d (fun _ => i20Bits o.q) s) s

end Sys2Proof.Machine
end

