-- ==== Sys2Proof/Machine/Access.lean ====
section
/-! DEFINITION. Accesses of lanes to global memory: where they are served, what stops them (R170 to R178), the store
buffer of a restartable workgroup (R133 to R135), atomics (R193, R427, R428), waits (R436), synchronisation objects
(R201 to R205), multicast lines (R166); parking and replay. -/

namespace Sys2Proof.Machine

/-! ### Issuers and obstacles -/

/-- Who accesses memory: a group's core, key, workgroup, ASID, slot, what the event's body names (R180), and the clause
that holds the access (R176). -/
structure Ag where
  core : Nat
  gk : Nat
  wk : Nat
  asid : Nat
  tag : Nat
  queue : Nat
  clause : Nat
  deriving DecidableEq, Repr

def agOf (s : State) (gk : Nat) : Option Ag :=
  match sfind s.groups gk with
  | none => none
  | some g =>
    match sfind s.wgs (wgOf gk g) with
    | none => none
    | some w => some ⟨keyCore gk, gk, wgOf gk g, w.asid, tagOf s w.record, queueOf s w.record, 0⟩

def agCx (cx : Cx) (s : State) : Ag :=
  ⟨cx.core, cx.gk, cx.wk, cx.w.asid, tagOf s cx.w.record, queueOf s cx.w.record, cx.run.head.toNat⟩

def issuerOf (ag : Ag) : Issuer := ⟨ag.core, 0, keyNum ag.gk, ag.tag, ag.queue⟩

/-- What stops an access: a translation fault at an address, a hold (the number of ParkPlace.held), a NAK, or a failed
transfer. -/
inductive Obst where
  | fault (kind va : Nat)
  | held (h : Nat)
  | nak
  | dead (pa : Nat)
  deriving DecidableEq, Repr

/-- The number under which an access waits for an earlier operation of its group, and for its store buffer. -/
def opHold (id : Nat) : Nat := 2 ^ 21 + 2 * id
def drainHold : Nat := 2 ^ 21 + 1

/-- The access size and register words of a load, and the value it writes (R417, R418). -/
def ldSize : LdW → Nat
  | .b8 => 1 | .i8 => 1 | .b16 => 2 | .i16 => 2 | .b32 => 4 | .b64 => 8 | .b128 => 16
def ldWords : LdW → Nat
  | .b64 => 2 | .b128 => 4 | _ => 1
def ldValue (x : LdW) (v : Nat) : Nat :=
  match x with
  | .i8 => wrapInt 32 (toSigned 8 v)
  | .i16 => wrapInt 32 (toSigned 16 v)
  | _ => v

/-- The bytes of an atomic's type (R427). -/
def atomSize (ty : Nat) : Nat := match tyOf ty with | some t => tyBits t / 8 | none => 4

/-- The bytes that a lane's access covers: its first address and their number. -/
def accSpan (acc : Acc) (y : LaneAcc) : Nat × Nat :=
  match acc with
  | .load x _ => (y.addr, ldSize x)
  | .store _ => (y.addr, y.data.length)
  | .stu => (y.addr, 8)
  | .atom _ ty _ _ _ => (y.addr / atomSize ty * atomSize ty, atomSize ty)
  | .wait _ _ _ w64 _ => if w64 then (y.addr / 8 * 8, 8) else (y.addr / 4 * 4, 4)
  | .mcast _ _ => (y.addr, 128)
  | .acqRead _ => (y.addr, 8)
  | .relOp _ => (y.addr, 8)
  | .hint _ => (y.addr, 1)

/-- The bytes a lane of a store writes that are not done: all its data, or for STU those its mask (byte 8 of its field)
enables (R422). -/
def laneBytes (stu : Bool) (y : LaneAcc) : List (Nat × Byte) :=
  let on (i : Nat) : Bool := !y.done.testBit i && (!stu || (bytesAt y.data 8 1).testBit i)
  ((List.range (if stu then 8 else y.data.length)).filter on).map fun i => ((y.addr + i) % 2 ^ 57, y.data.getD i 0)

/-- The bytes of a lane's store, or none where the access is no store. -/
def storeOf (acc : Acc) (y : LaneAcc) : Option (List (Nat × Byte)) :=
  match acc with
  | .store _ => some (laneBytes false y)
  | .stu => some (laneBytes true y)
  | _ => none

/-- The 64 KiB regions that a lane's access touches. -/
def regionsOf (acc : Acc) (y : LaneAcc) : List Nat :=
  match storeOf acc y with
  | some bs => (bs.map fun e => e.1 / 65536).eraseDups
  | none => let r := accSpan acc y; [r.1 / 65536, (r.1 + r.2 - 1) % 2 ^ 57 / 65536].eraseDups

/-- Whether a lane's access touches the 64 KiB region of an address, or any that its unit serves. -/
def touchesRegion (acc : Acc) (y : LaneAcc) (va : Nat) : Bool := (regionsOf acc y).contains (va / 65536)
def touchesUnit (acc : Acc) (y : LaneAcc) (va : Nat) : Bool :=
  (regionsOf acc y).any fun r => unitOf (r * 65536) == unitOf va

/-- Whether a lane's access meets a range. -/
def touchesRange (acc : Acc) (y : LaneAcc) (va len : Nat) : Bool :=
  match storeOf acc y with
  | some bs => bs.any fun e => decide (va ≤ e.1) && decide (e.1 < va + len)
  | none =>
    let r := accSpan acc y
    rangesMeet r.1 r.2 va len || (decide (2 ^ 57 < r.1 + r.2) && rangesMeet 0 (r.1 + r.2 - 2 ^ 57) va len)

/-- A hint holds no later access. -/
def isHint : Acc → Bool
  | .hint _ => true
  | _ => false

/-- What an access to an address meets in an earlier one of its group that has not been performed (R176, R177). One that
is logged or overflowed counts as faulting there, but where it only straddles into the region of its fault: the later
access then waits for it. -/
def standBehind (p : Parked) (va : Nat) : Option Obst :=
  let ys := p.lanes.filter fun x => touchesRegion p.acc x va
  match p.place with
  | .nak => if p.lanes.any fun x => touchesUnit p.acc x va then some .nak else none
  | .held h => if ys.isEmpty then none else some (.held h)
  | _ =>
    if ys.isEmpty then none
    else if p.first / 65536 == va / 65536 || ys.any fun x => (regionsOf p.acc x).length == 1 then some (.fault p.kind va)
    else some (.held (opHold p.op))

/-- An earlier parked access of the group that a later one to this address stands behind. -/
def blocker (s : State) (gk opId va : Nat) : Option Obst :=
  s.parked.findSome? fun p =>
    if p.group == gk && decide (p.op < opId) && !isHint p.acc then standBehind p va else none

/-- The obstacle a line's answer stands for; a fault is reported (R175). -/
def obstOf (ag : Ag) (a : Access) (va : Nat) : LineRes → State → Option Obst × State
  | .ready, s => (none, s)
  | .fault f, s => (some (.fault f.kind va), reportFault (issuerOf ag) ag.asid va a f s)
  | .held h, s => (some (.held h), s)
  | .refused, s => (some .nak, s)
  | .linkDown pa, s => (some (.dead pa), s)

/-- Make a line ready in the cluster L2 for an access that writes the sectors `full` completely, or say what stops it. -/
def checkFor (ag : Ag) (opId : Nat) (a : Access) (va full : Nat) (s : State) : Option Obst × State :=
  match blocker s ag.gk opId va with
  | some o => (some o, s)
  | none =>
    let r := ensureFor s (clusterOf ag.core) ag.asid va full a
    obstOf ag a va r.1 r.2

def checkLine (ag : Ag) (opId : Nat) (a : Access) (va : Nat) (s : State) : Option Obst × State := checkFor ag opId a va 0 s

/-- Up to two pieces of an access that each lie within one line; addresses wrap at 57 bits (R416). -/
def spans (va n : Nat) : List (Nat × Nat) :=
  let a := va % 2 ^ 57
  let k := min n (128 - a % 128)
  if k = n then [(a, n)] else [(a, k), ((a + k) % 2 ^ 57, n - k)]

/-! ### Atomics' values (R427), and the store buffer's view (R133) -/

def isSignedTy : Ty → Bool
  | .int _ => true
  | _ => false

/-- The new value of an atomic (R427): operation, type, old value and operand; none where nothing is written. -/
def atomNew (op ty old b : Nat) : Option Nat :=
  let n := 8 * atomSize ty
  let t := (tyOf ty).getD (.plain n)
  let sg := isSignedTy t
  let less (x y : Nat) : Bool := if sg then decide (toSigned n x < toSigned n y) else decide (x < y)
  match op with
  | 0 =>
    match t with
    | .fl .f32 => some (roundArith .f32 .rn (defaultOvf .f32) 0 (fpAdd false (decodeF .f32 old) (decodeF .f32 b)))
    | _ => some ((old + b) % 2 ^ n)
  | 1 => some (if less b old then b else old)
  | 2 => some (if less old b then b else old)
  | 3 => some (old &&& b)
  | 4 => some (old ||| b)
  | 5 => some (old ^^^ b)
  | 6 => some b
  | _ => if old = b % 2 ^ n then some (b / 2 ^ n) else none

/-- The new value of REL's operation (R434). -/
def relNew (op old val : Nat) : Nat :=
  match op with
  | 0 => val
  | 1 => (old + val) % 2 ^ 64
  | _ => (old + 2 ^ 64 - val) % 2 ^ 64

/-- Bytes by address; where several lanes write one byte the later one stands (R418). -/
def collectBytes (bs : List (Nat × Byte)) : List (Nat × Byte) := bs.foldl (fun m e => sset m e.1 e.2) []

/-- What a buffered operation makes of the bytes beneath it: a store's own, an atomic's or a REL's result on what it will
find. -/
def sbView (e : SbEnt) (f : Nat → Byte) (a : Nat) : Byte :=
  match e.act with
  | .store stu ys => (sfind (collectBytes (ys.flatMap (laneBytes stu))) a).getD (f a)
  | .atom op ty _ _ va data => word (atomSize ty) va fun old => atomNew op ty old (ofLeBytes data)
  | .fence _ => f a
  | .rel op obj val => word 8 obj fun old => some (relNew op old val)
where
  /-- The byte of an aligned word of n bytes that an operation replaces. -/
  word (n va : Nat) (new : Nat → Option Nat) : Byte :=
    let x := va / n * n
    if a / n * n ≠ x then f a
    else match new (ofLeBytes ((List.range n).map fun k => f (x + k))) with
      | some v => (leBytes n v).getD (a - x) 0
      | none => f a

/-- Whether lanes of a buffered operation wait in the operand log, where its drain left them. -/
def stillLogged (s : State) (e : SbEnt) : Bool := s.parked.any fun p => p.group == e.gk && p.op == e.id

/-- The buffered operations of a workgroup that come before operation `id` and have not been performed. -/
def sbBefore (s : State) (wk id : Nat) : List SbEnt :=
  match sfind s.wgs wk with
  | none => []
  | some w => w.sbuf.filter fun e => decide (e.id < id) && (!e.logged || stillLogged s e)

/-- Whether a byte is one that a buffered store supplies. -/
def sbOwn (es : List SbEnt) (a : Nat) : Bool :=
  es.any fun e => match e.act with
    | .store stu ys => ys.any fun y => (laneBytes stu y).any fun b => b.1 == a
    | _ => false

/-- A byte of a line as a core finds it in its L1 or its cluster's L2. -/
def cachedByte (s : State) (core asid a : Nat) : Byte :=
  match l1Data s core (lineKey asid a) with
  | some d => d.getD (a % 128) 0
  | none => match l2Line s (clusterOf core) asid a with
    | some ln => ln.data.getD (a % 128) 0
    | none => 0

/-- Bytes read at an address as the workgroup's own lanes see them: with its buffered operations before `id` (R133, R188). -/
def overlay (s : State) (ag : Ag) (id va : Nat) (bs : List Byte) : List Byte :=
  let es := sbBefore s ag.wk id
  if es.isEmpty then bs
  else
    let base (a : Nat) : Byte :=
      let k := (a + 2 ^ 57 - va) % 2 ^ 57
      if k < bs.length then bs.getD k 0 else cachedByte s ag.core ag.asid a
    let view := es.foldl (fun f e => sbView e f) base
    bs.mapIdx fun k _ => view ((va + k) % 2 ^ 57)

/-- Whether a workgroup's stores enter its store buffer: it is restartable and has not committed, or its buffer still
drains. -/
def buffers (w : Wg) : Bool := w.restartable && (!w.committed || !w.sbuf.isEmpty)

def wgBuffers (s : State) (wk : Nat) : Bool := match sfind s.wgs wk with | some w => buffers w | none => false

/-! ### What a batch of lanes answers -/

/-- The outcome of an access by some lanes: register results, lanes that could not be served with what stopped each,
the virtual address of a consumed poisoned sector, and what the operation then waits for, per lane. -/
structure Ran where
  st : State
  results : List (Nat × W32)
  left : List (LaneAcc × Obst)
  eaten : Option Nat
  deriving DecidableEq, Repr

def Ran.start (s : State) : Ran := ⟨s, [], [], none⟩

/-- The first poisoned sector an access of `n` bytes touches, by the line's poison mask. -/
def poisonedAt (va n poison : Nat) : Option Nat :=
  ((List.range 4).find? fun k => poison.testBit k && (sectorsTouched (byteMask (va % 128) n)).testBit k).map fun k =>
    va / 128 * 128 + 32 * k

/-- The same for an access of which the buffered stores of its workgroup supply some bytes: those read no sector (R133). -/
def poisonedRead (es : List SbEnt) (va n poison : Nat) : Option Nat :=
  if es.isEmpty then poisonedAt va n poison
  else (List.range n).findSome? fun k => if sbOwn es (va + k) then none else poisonedAt (va + k) 1 poison

/-- One piece of a load: its bytes and a poisoned sector it touches. -/
def readPiece (ag : Ag) (opId va n : Nat) (s : State) : Option Obst × State × List Byte × Option Nat :=
  match blocker s ag.gk opId va with
  | some o => (some o, s, [], none)
  | none =>
    match readLine s ag.core ag.asid va with
    | (.ready, s1, d, p) => (none, s1, (d.drop (va % 128)).take n, poisonedRead (sbBefore s1 ag.wk opId) va n p)
    | (r, s1, _, _) =>
      let o := obstOf ag .read va r s1
      (o.1, o.2, [], none)

/-- The bytes of a load of one lane. -/
def readPieces (ag : Ag) (opId : Nat) : List (Nat × Nat) → State → Option Obst × State × List Byte × Option Nat
  | [], s => (none, s, [], none)
  | (va, n) :: ps, s =>
    match readPiece ag opId va n s with
    | (some o, s1, _, _) => (some o, s1, [], none)
    | (none, s1, bs, p) =>
      match readPieces ag opId ps s1 with
      | (some o, s2, _, _) => (some o, s2, [], none)
      | (none, s2, rest, q) => (none, s2, bs ++ rest, p.or q)

def isZ : Opnd → Bool
  | .z => true
  | _ => false

/-- A load of some lanes (R418, R420). A Z destination discards the value, and nothing is consumed. -/
def runLoad (ag : Ag) (opId : Nat) (x : LdW) (d : Opnd) : List LaneAcc → Ran → Ran
  | [], r => r
  | y :: ys, r =>
    match readPieces ag opId (spans y.addr (ldSize x)) r.st with
    | (some o, s1, _, _) => runLoad ag opId x d ys { r with st := s1, left := r.left ++ [(y, o)] }
    | (none, s1, bs, p) =>
      let v := ldValue x (ofLeBytes (overlay s1 ag opId y.addr bs))
      runLoad ag opId x d ys { r with
        st := s1
        results := r.results ++ resultKeys d (ldWords x) y.lane v
        eaten := if isZ d then r.eaten else r.eaten.or p }

/-! ### Stores -/

/-- The address at which a stopped line keeps bytes of a lane's store back: the fault's, in it. -/
def faultIn (stu : Bool) (l : Nat) (y : LaneAcc) (o : Obst) : Obst :=
  match o with
  | .fault k va => .fault k ((((laneBytes stu y).find? fun e => e.1 / 128 == l).map fun e => e.1).getD va)
  | o => o

/-- The lines of collected bytes, ascending. -/
def linesOf : List (Nat × Byte) → List Nat
  | [] => []
  | (a, _) :: es =>
    match linesOf es with
    | [] => [a / 128]
    | l :: ls => if a / 128 = l then l :: ls else a / 128 :: l :: ls

/-- The mask and bytes of one line. -/
def lineMask (m : List (Nat × Byte)) (line : Nat) : Nat :=
  m.foldl (fun k e => if e.1 / 128 = line then k ||| 2 ^ (e.1 % 128) else k) 0
def lineData (m : List (Nat × Byte)) (line : Nat) : List Byte :=
  (List.range 128).map fun k => (sfind m (128 * line + k)).getD 0

/-- The first address at which a store writes in a line. -/
def firstIn (m : List (Nat × Byte)) (l : Nat) : Nat := ((m.find? fun e => e.1 / 128 == l).map fun e => e.1).getD (128 * l)

/-- The lines of a store made ready (R162, R163, R192), and where `put` says so written; the answer names the lines that
are stopped, with what stops them. -/
def storeLines (put : Bool) (ag : Ag) (opId : Nat) (m : List (Nat × Byte)) : List Nat → State → List (Nat × Obst) × State
  | [], s => ([], s)
  | l :: ls, s =>
    match checkFor ag opId .write (firstIn m l) (sectorsFull (lineMask m l)) s with
    | (some o, s1) =>
      let r := storeLines put ag opId m ls s1
      ((l, o) :: r.1, r.2)
    | (none, s1) =>
      storeLines put ag opId m ls
        (if put then writeLine s1 ag.core ag.asid (128 * l) (lineMask m l) (lineData m l) else s1)

/-- What stops a lane's store among stopped lines. -/
def laneStop (stu : Bool) (stops : List (Nat × Obst)) (y : LaneAcc) : Option Obst :=
  (laneBytes stu y).findSome? fun e => (sfind stops (e.1 / 128)).map fun o => faultIn stu (e.1 / 128) y o

/-- A lane's store that waits, with the bytes done that are not its own to write any more. -/
def markDone (gone : Nat → Bool) (y : LaneAcc) : LaneAcc :=
  { y with done := (List.range 16).foldl (fun m i => if gone ((y.addr + i) % 2 ^ 57) then m ||| 2 ^ i else m) y.done }

/-- A store of some lanes (R418, R420, R422), served per line: a lane is performed whole once every line it touches is
ready (DEDUCED, log 40). A lane that waits writes no byte that a higher lane of the store writes. -/
def runStore (ag : Ag) (opId : Nat) (stu : Bool) (ys : List LaneAcc) (r : Ran) : Ran :=
  let all := collectBytes (ys.flatMap (laneBytes stu))
  let c := storeLines false ag opId all (linesOf all) r.st
  let go := ys.filter fun y => (laneStop stu c.1 y).isNone
  let m := collectBytes (go.flatMap (laneBytes stu))
  let w := storeLines true ag opId m (linesOf m) c.2
  let gone (y : LaneAcc) (a : Nat) : Bool :=
    (ys.any fun z => decide (y.lane < z.lane) && (laneBytes stu z).any fun e => e.1 == a)
      || (go.contains y && (sfind w.1 (a / 128)).isNone)
  let left := ys.filterMap fun y => ((laneStop stu c.1 y).or (laneStop stu w.1 y)).map fun o => (markDone (gone y) y, o)
  { r with st := w.2, left := r.left ++ left }

/-! ### Words at the memory controller, and atomics -/

/-- A read, and a write where `f` gives a value, of an aligned word at the memory controller (R193): what stops it, the
word, and a poisoned sector. -/
def ctrlRmw (ag : Ag) (opId : Nat) (a : Access) (va n : Nat) (f : Nat → Option Nat) (s : State) :
    Option Obst × State × Nat × Option Nat :=
  match blocker s ag.gk opId va with
  | some o => (some o, s, 0, none)
  | none =>
    let s0 := if a == .wait then s else surrenderLine s ag.core ag.asid va
    if isWrite a && frozen s0 ag.asid va then (some .nak, s0, 0, none)
    else match heldBy s0 ag.asid va with
      | some h => (some (.held h), s0, 0, none)
      | none =>
        match translate s0 ag.asid va a with
        | (.error e, s1) =>
          let o := obstOf ag a va (.fault e) s1
          (o.1, o.2, 0, none)
        | (.ok l, s1) =>
          match request ag.asid ag.core va (leafPa l va) s1 with
          | (.ready, s1) =>
            let pa := leafPa l va
            let s2 := touchSidecar ag.asid l.ck pa s1
            let d := ctrlReadLine s2 l.ck pa
            let old := bytesAt d.1 (pa % 128) n
            let p := poisonedAt va n d.2
            match f old with
            | some x =>
              (none, if p.isSome then s2
                else ctrlWriteLine s2 l.ck pa (byteMask (pa % 128) n) (lineAt (pa % 128) (leBytes n x)) 0, old, p)
            | none => (none, s2, old, p)
          | (r, s1) =>
            let o := obstOf ag a va r s1
            (o.1, o.2, 0, none)

/-- The same at the cluster L2 (R187). -/
def l2Rmw (ag : Ag) (opId : Nat) (a : Access) (va n : Nat) (f : Nat → Option Nat) (s : State) :
    Option Obst × State × Nat × Option Nat :=
  match checkLine ag opId a va s with
  | (some o, s1) => (some o, s1, 0, none)
  | (none, s1) =>
    match l2Line s1 (clusterOf ag.core) ag.asid va with
    | none => (some .nak, s1, 0, none)
    | some ln =>
      let old := bytesAt ln.data (va % 128) n
      let p := poisonedAt va n ln.poison
      match f old with
      | some x =>
        (none, if p.isSome then s1
          else writeLine s1 ag.core ag.asid va (byteMask (va % 128) n) (lineAt (va % 128) (leBytes n x)), old, p)
      | none => (none, s1, old, p)

/-- Whether an address lies on a peer's page: as the line in the cluster L2 says, or its translation. -/
def onPeer (s : State) (ag : Ag) (va : Nat) : Bool :=
  match l2Line s (clusterOf ag.core) ag.asid va with
  | some ln => targetOf (field ln.entry 8 44 * 256) == .peer
  | none => match (lookupLeaf s ag.asid va).1 with
    | .ok l => targetOf (leafPa l va) == .peer
    | .error _ => false

/-- A word at the place of a scope (R187); an atomic on a peer's page is performed at the peer whatever its scope (R185). -/
def rmwAt (ag : Ag) (opId scope : Nat) (a : Access) (va n : Nat) (f : Nat → Option Nat) (s : State) :
    Option Obst × State × Nat × Option Nat :=
  if 3 ≤ scope || (a == .atomic && onPeer s ag va) then ctrlRmw ag opId a va n f s else l2Rmw ag opId a va n f s

/-- One lane's atomic: the old value (R428). -/
def atomLane (ag : Ag) (opId op ty scope : Nat) (y : LaneAcc) (s : State) : Option Obst × State × Nat × Option Nat :=
  let n := atomSize ty
  rmwAt ag opId scope .atomic (y.addr / n * n) n (fun old => atomNew op ty old (ofLeBytes y.data)) s

/-- The atomics of some lanes, ascending. -/
def atomLanes (ag : Ag) (opId op ty scope : Nat) (d : Opnd) : List LaneAcc → Ran → Ran
  | [], r => r
  | y :: ys, r =>
    match atomLane ag opId op ty scope y r.st with
    | (some o, s1, _, _) => atomLanes ag opId op ty scope d ys { r with st := s1, left := r.left ++ [(y, o)] }
    | (none, s1, old, p) =>
      atomLanes ag opId op ty scope d ys { r with
        st := s1, results := r.results ++ resultKeys d (atomSize ty / 4) y.lane old, eaten := r.eaten.or p }

/-- Whether an operation is an access that precedes a later one of some lanes (R188, R199). -/
def laneAccess (lanes : Mask) (o : POp) : Bool :=
  match o.kind with
  | .access => opLanes o &&& lanes != 0
  | .waita _ => opLanes o &&& lanes != 0
  | .acquire => true
  | .mcast _ _ _ _ _ => true
  | _ => false

/-- The latest earlier operation of the group with an access that a release of some lanes waits for (R196, R428). -/
def earlierLeft (s : State) (gk opId : Nat) (lanes : Mask) : Option Nat :=
  match sfind s.groups gk with
  | none => none
  | some g => ((g.ops.filter fun o => decide (o.id < opId) && !o.ready && laneAccess lanes o).map fun o => o.id).max?

def lanesMask (ys : List LaneAcc) : Mask := ys.foldl (fun m y => m ||| laneBit y.lane) 0

/-- Whether an atomic's ordering makes it a release, and an acquire (R426, R428). -/
def isRel (order : Nat) : Bool := order == 2 || order == 3
def isAcq (order : Nat) : Bool := order == 1 || order == 3

/-- Atomics of some lanes with their ordering (R195, R428). -/
def runAtom (ag : Ag) (opId op ty scope order : Nat) (d : Opnd) (ys : List LaneAcc) (r : Ran) : Ran :=
  match if isRel order then earlierLeft r.st ag.gk opId (lanesMask ys) else none with
  | some id => { r with left := r.left ++ ys.map fun y => (y, .held (opHold id)) }
  | none =>
    let s0 := if isRel order then releaseScope r.st ag.core ag.asid scope else r.st
    let r1 := atomLanes ag opId op ty scope d ys { r with st := s0 }
    if isAcq order then { r1 with st := acquireScope r1.st ag.core ag.asid scope } else r1

/-! ### Synchronisation objects -/

/-- Whether a word is an object of the context: a binding names it, or it is a registered signal (R201, R205). -/
def isObject (s : State) (asid va : Nat) : Bool :=
  match ctxOf s asid with
  | none => false
  | some c => (c.bindings.any fun b => b.obj == va) || c.signals.any fun g => g.1 == va

/-- The numbers and ranges bound to an object. -/
def boundTo (s : State) (asid obj : Nat) : List Binding :=
  match ctxOf s asid with
  | none => []
  | some c => c.bindings.filter fun b => b.obj == obj

/-- The pull mask of an object (R202). -/
def pullMask (c : Ctx) (obj : Nat) : Nat := sget 0 c.pulls obj

/-- Whether an L2 line carries the binding number of one of an object's bindings. -/
def boundLine (bs : List Binding) (asid key : Nat) (ln : L2Line) : Bool :=
  keyAsid key == asid && (match ln.bind with | some n => bs.any fun b => b.num == n | none => false)

/-- The pull of an object (R202, step 2): each slice of the mask writes back its lines, and its bit clears. -/
def pullObject (asid obj : Nat) (s : State) : State :=
  match ctxOf s asid with
  | none => s
  | some c =>
    let mask := pullMask c obj
    let bs := boundTo s asid obj
    let s1 := (List.range 24).foldl (fun s cl =>
      if field mask (4 * cl) 4 = 0 then s
      else writeBackWhere s cl fun k ln => mask.testBit (4 * cl + sliceOf (keyVa k)) && boundLine bs asid k ln) s
    modCtx s1 asid fun c => { c with pulls := sdel c.pulls obj }

/-- An acquire of an object after its read (R202, steps 2 and 3). -/
def acquireObject (core asid obj : Nat) (s : State) : State :=
  let bs := boundTo s asid obj
  let s1 := pullObject asid obj s
  let s2 := evictWhere s1 (clusterOf core) fun k ln => boundLine bs asid k ln
  dropL1Where s2 core fun k => bs.any fun b => keyInRange asid b.base b.len k

/-- The bits of a cluster's four slices enter an object's pull mask (R202, step 2 of REL). -/
def markPull (core asid obj : Nat) (s : State) : State :=
  if isObject s asid obj then
    modCtx s asid fun c => { c with pulls := sset c.pulls obj (pullMask c obj ||| 15 * 2 ^ (4 * clusterOf core)) }
  else s

/-- ACQ (R202, R434), once for its lanes: the read as a package-scope atomic, the pull, the invalidation. -/
def runAcq (ag : Ag) (opId : Nat) (d : Opnd) (ys : List LaneAcc) (r : Ran) : Ran :=
  match ys with
  | [] => r
  | y :: _ =>
    match ctrlRmw ag opId .atomic y.addr 8 (fun _ => none) r.st with
    | (some o, s1, _, _) => { r with st := s1, left := r.left ++ ys.map fun y => (y, o) }
    | (none, s1, old, p) =>
      { r with
        st := if isObject s1 ag.asid y.addr then acquireObject ag.core ag.asid y.addr s1 else s1
        results := r.results ++ (if isS d then resultKeys d 2 0 old else ys.flatMap fun y => resultKeys d 2 y.lane old)
        eaten := r.eaten.or p }

/-- REL (R202, R434), once for its lanes: after their earlier stores, the marks and the package-scope atomic. -/
def runRel (ag : Ag) (opId op : Nat) (ys : List LaneAcc) (r : Ran) : Ran :=
  match ys with
  | [] => r
  | y :: _ =>
    match earlierLeft r.st ag.gk opId (lanesMask ys) with
    | some id => { r with left := r.left ++ ys.map fun y => (y, .held (opHold id)) }
    | none =>
      match ctrlRmw ag opId .atomic y.addr 8 (fun old => some (relNew op old (ofLeBytes y.data)))
          (markPull ag.core ag.asid y.addr r.st) with
      | (some o, s1, _, _) => { r with st := s1, left := r.left ++ ys.map fun y => (y, o) }
      | (none, s1, _, p) => { r with st := s1, eaten := r.eaten.or p }

/-! ### Waits -/

/-- The acquire that ends a wait with the acquire modifier (R200). -/
def waitAcquire (core asid scope va : Nat) (s : State) : State :=
  let s1 := acquireScope s core asid scope
  if isObject s1 asid va then acquireObject core asid va s1 else s1

/-- Where a wait watches its word: the physical address at the controller. -/
def waitPa (s : State) (asid va : Nat) : Nat := match lookupLeaf s asid va with | (.ok l, _) => leafPa l va | _ => 0

/-- The waits of some lanes (R436): a condition that holds ends the wait at once, else the lane waits on. -/
def runWait (ag : Ag) (opId : Nat) (cond : WaX) (scope : Nat) (acq w64 : Bool) (d : Opnd) : List LaneAcc → Ran → Ran
  | [], r => r
  | y :: ys, r =>
    let n := if w64 then 8 else 4
    let va := y.addr / n * n
    let cmp := ofLeBytes y.data
    match rmwAt ag opId scope .wait va n (fun _ => none) r.st with
    | (some o, s1, _, _) => runWait ag opId cond scope acq w64 d ys { r with st := s1, left := r.left ++ [(y, o)] }
    | (none, s1, x, p) =>
      if waitHolds cond x cmp then
        runWait ag opId cond scope acq w64 d ys { r with
          st := if acq then waitAcquire ag.core ag.asid scope va s1 else s1
          results := r.results ++ resultKeys d (n / 4) y.lane x
          eaten := r.eaten.or p }
      else
        let cl := if 3 ≤ scope then none else some (clusterOf ag.core)
        let w : WaitRec :=
          ⟨ag.gk, opId, y.lane, cl, ag.asid, va, waitPa s1 ag.asid va, w64, cond, cmp, scope, acq, d, none,
            ag.clause⟩
        runWait ag opId cond scope acq w64 d ys { r with st := { s1 with waits := s1.waits ++ [w] } }

/-! ### Multicast lines -/

/-- A byte of a core's local memory; unlisted bytes are zero. -/
def cellByte (m : List Host.Cell) (a : Nat) : Byte := sget 0 m a
def cellBytes (m : List Host.Cell) (a n : Nat) : List Byte := (List.range n).map fun k => cellByte m (a + k)
def cellPut (m : List Host.Cell) (a : Nat) : List Byte → List Host.Cell
  | [] => m
  | b :: bs => cellPut (sput 0 m a b) (a + 1) bs

/-- Whole sectors landing in scratchpad or operand buffer with poison per sector (R131). -/
def landLocal (core : Nat) (ob : Bool) (a : Nat) (bs : List Byte) (poison : Nat) (s : State) : State :=
  modCore s core fun c =>
    let n := (bs.length + 31) / 32
    if ob then { c with ob := cellPut c.ob a bs, obPoison := setPoison c.obPoison a n poison }
    else { c with sp := cellPut c.sp a bs, spPoison := setPoison c.spPoison a n poison }

/-- The place of a multicast destination on its core. -/
def mcastBase (w : Wg) (ob : Bool) (dst : Nat) : Nat := (if ob then w.obOff else w.scratchOff) + dst

/-- A line that a range hold keeps at its unit takes the fault path with kind 0 (R166, R423): no fault is reported, and it
is tried again at the release of the hold (DEDUCED, log 63). -/
def mcastObst (va : Nat) (o : Obst) : Obst :=
  match o with
  | .held h => if h < 2 ^ 18 then .fault 0 va else .held h
  | o => o

/-- The poison of a line but for the sectors that buffered stores of the workgroup supply whole. -/
def ownPoison (es : List SbEnt) (va poison : Nat) : Nat :=
  if es.isEmpty then poison
  else (List.range 4).foldl (fun m k =>
    if poison.testBit k && !((List.range 32).all fun i => sbOwn es (va + 32 * k + i)) then m + 2 ^ k else m) 0

/-- The lines of a multicast read for one request (R166, R423): line i (byte 0 of its field) lands at dst + 128·i, with the
workgroup's own buffered operations in it (R133, R188). -/
def runMcast (ag : Ag) (opId : Nat) (ob : Bool) (dst : Nat) : List LaneAcc → Ran → Ran
  | [], r => r
  | y :: ys, r =>
    match checkLine ag opId .read y.addr r.st with
    | (some o, s1) => runMcast ag opId ob dst ys { r with st := s1, left := r.left ++ [(y, mcastObst y.addr o)] }
    | (none, s1) =>
      match l2Line s1 (clusterOf ag.core) ag.asid y.addr, sfind s1.wgs ag.wk with
      | some ln, some w =>
        runMcast ag opId ob dst ys { r with
          st := landLocal ag.core ob (mcastBase w ob dst + 128 * bytesAt y.data 0 1) (overlay s1 ag opId y.addr ln.data)
            (ownPoison (sbBefore s1 ag.wk opId) y.addr ln.poison) s1 }
      | _, _ => runMcast ag opId ob dst ys { r with st := s1 }

/-! ### Parking (R174 to R176) -/

/-- Insert a lane in ascending order. -/
def insLane (y : LaneAcc) : List LaneAcc → List LaneAcc
  | [] => [y]
  | z :: zs => if y.lane < z.lane then y :: z :: zs else z :: insLane y zs

/-- A new entry stands behind the one of its operation that is being replayed, else at the end (R177). -/
def insertPark (e : Parked) : List Parked → List Parked
  | [] => [e]
  | x :: xs => if x.group = e.group ∧ x.op = e.op ∧ x.lanes.isEmpty then x :: e :: xs else x :: insertPark e xs

/-- Add lanes to an entry at a place, or make the entry; one whose lanes are all being replayed takes the new fault. -/
def parkAt (ag : Ag) (op : Nat) (acc : Acc) (clause : Nat) (place : ParkPlace) (kind first : Nat) (ys : List LaneAcc)
    (s : State) : State :=
  if ys.isEmpty then s
  else if s.parked.any fun p => p.group == ag.gk && p.op == op && p.place == place then
    { s with parked := s.parked.map fun p =>
        if p.group == ag.gk && p.op == op && p.place == place then
          let q := if p.lanes.isEmpty then { p with kind := kind, first := first } else p
          { q with lanes := ys.foldl (fun l y => insLane y l) q.lanes }
        else p }
  else { s with parked := insertPark ⟨ag.gk, op, acc, ys, kind, first, clause, place⟩ s.parked }

/-- Entries of the operand log of a group and of a core, and the accesses on a unit's overflow list. -/
def logOfGroup (s : State) (gk : Nat) : Nat := (s.parked.filter fun p => p.group == gk && p.place == .log).length
def logOfCore (s : State) (core : Nat) : Nat :=
  (s.parked.filter fun p => keyCore p.group == core && p.place == .log).length
def overflowOf (s : State) (unit : Nat) : Nat := (s.parked.filter fun p => p.place == .overflow unit).length

/-- Faulting lanes of one unit that find no free log entry (R176). -/
def parkUnit (ag : Ag) (op : Nat) (acc : Acc) (clause : Nat) (ys : List (LaneAcc × Nat × Nat)) (s : State) (unit : Nat) :
    State :=
  let mine := ys.filter fun y => unitOf y.2.2 == unit
  let f := (mine.head?.map fun y => y.2).getD (0, 0)
  let there := s.parked.any fun p => p.group == ag.gk && p.op == op && p.place == .overflow unit
  parkAt ag op acc clause (if there || decide (overflowOf s unit < 128) then .overflow unit else .nak) f.1 f.2
    (mine.map fun y => y.1) s

/-- The faulting lanes of an access, with the fault's kind and address, take one log entry, or stay at their units. -/
def parkFaults (ag : Ag) (op : Nat) (acc : Acc) (clause : Nat) (ys : List (LaneAcc × Nat × Nat)) (s : State) : State :=
  let f := (ys.head?.map fun y => y.2).getD (0, 0)
  if ys.isEmpty then s
  else if (s.parked.any fun p => p.group == ag.gk && p.op == op && p.place == .log)
      || (decide (logOfGroup s ag.gk < 4) && decide (logOfCore s ag.core < 64)) then
    parkAt ag op acc clause .log f.1 f.2 (ys.map fun y => y.1) s
  else (List.range 16).foldl (parkUnit ag op acc clause ys) s

/-- Park the lanes an access could not serve. -/
def parkLeft (ag : Ag) (op : Nat) (acc : Acc) (clause : Nat) (left : List (LaneAcc × Obst)) (s : State) : State :=
  let faults := left.filterMap fun e => match e.2 with | .fault k va => some (e.1, k, va) | _ => none
  let naks := left.filterMap fun e => match e.2 with | .nak => some e.1 | _ => none
  let holds := (left.filterMap fun e => match e.2 with | .held h => some h | _ => none).eraseDups
  let first (ys : List LaneAcc) : Nat := (ys.head?.map fun y => y.addr).getD 0
  let s1 := parkFaults ag op acc clause faults s
  let s2 := parkAt ag op acc clause .nak 0 (first naks) naks s1
  holds.foldl (fun s h =>
    parkAt ag op acc clause (.held h) 0 (first (left.map fun e => e.1))
      (left.filterMap fun e => if e.2 = .held h then some e.1 else none) s) s2

/-! ### The store buffer (R133 to R135) -/

/-- The agent of a buffered operation of a workgroup; its group may have retired since. -/
def agFor (s : State) (wk : Nat) (w : Wg) (e : SbEnt) : Ag :=
  ⟨keyCore wk, e.gk, wk, w.asid, tagOf s w.record, queueOf s w.record, e.clause⟩

/-- Whether a release of a buffer waits: for an entry before it whose lanes fault, or an earlier access of its lanes. -/
def relDue (s : State) (before : List SbEnt) (e : SbEnt) : Bool :=
  before.isEmpty && (earlierLeft s e.gk e.id e.lanes).isNone

/-- What an access by the store buffer's head answers. Lanes that are stopped go where an access that issues now would park
them (R175, R209), and the entry stays until they have been performed; those of a group that has retired stay in the buffer
(DESIGN CHOICE, log 63). The flag tells that the drain may go on. -/
def drainRan (ag : Ag) (e : SbEnt) (acc : Acc) (rest : SbEnt) (r : Ran) : Bool × Option SbEnt × State :=
  match r.left.findSome? fun x => match x.2 with | .dead pa => some (x.1.addr, pa) | _ => none with
  | some (va, pa) => (true, none, transferFails ag.asid ag.core va pa r.st)
  | none =>
    if !r.left.isEmpty then
      if (sfind r.st.groups e.gk).isSome then
        (true, some { rest with logged := true }, parkLeft ag e.id acc e.clause r.left r.st)
      else (false, some rest, r.st)
    else match r.eaten with
      | some a => (true, none, consumeAt ag.asid ag.wk a r.st)
      | none => (true, none, r.st)

/-- The access that an entry of a store buffer is. -/
def sbAcc : SbAct → Acc
  | .store true _ => .stu
  | .store false ys => .store ((ys.head?.map fun y => y.data.length).getD 0)
  | .atom op ty scope order _ _ => .atom op ty scope order .z
  | .fence _ => .stu
  | .rel op _ _ => .relOp op

/-- The lanes of a buffered operation. -/
def sbLanes (e : SbEnt) : List LaneAcc :=
  match e.act with
  | .store _ ys => ys
  | .atom _ _ _ _ va data => [⟨((lanesOf e.lanes).head?).getD 0, va, data, 0⟩]
  | .fence _ => []
  | .rel _ obj val => (lanesOf e.lanes).map fun l => ⟨l, obj, leBytes 8 val, 0⟩

/-- The next entry of a store buffer is performed (R134, R209): what is left of it, and whether the drain goes on. -/
def drainOne (wk : Nat) (w : Wg) (before : List SbEnt) (e : SbEnt) (s : State) : Bool × Option SbEnt × State :=
  let ag := agFor s wk w e
  match e.act with
  | .store stu ys =>
    let r := runStore ag e.id stu ys (Ran.start s)
    drainRan ag e (sbAcc e.act) { e with act := .store stu (r.left.map fun x => x.1) } r
  | .atom op ty scope order _ _ =>
    if isRel order && !relDue s before e then (false, some e, s)
    else drainRan ag e (sbAcc e.act) e
      (runAtom ag e.id op ty scope order .z (sbLanes e) (Ran.start s))
  | .fence scope =>
    if relDue s before e then (true, none, releaseScope s ag.core ag.asid scope) else (false, some e, s)
  | .rel op _ _ =>
    if relDue s before e then drainRan ag e (sbAcc e.act) e (runRel ag e.id op (sbLanes e) (Ran.start s))
    else (false, some e, s)

/-- Drain entries in order behind those that are left of earlier ones. An entry whose lanes fault lets the later ones
pass, but no release; one that can neither be performed nor logged stops the drain. -/
def drainGo (wk : Nat) (w : Wg) : List SbEnt → List SbEnt → State → List SbEnt × State
  | before, [], s => (before, s)
  | before, e :: es, s =>
    if e.logged then drainGo wk w (if stillLogged s e then before ++ [e] else before) es s
    else match drainOne wk w before e s with
      | (true, some e', s1) => drainGo wk w (before ++ [e']) es s1
      | (true, none, s1) => drainGo wk w before es s1
      | (false, some e', s1) => (before ++ e' :: es, s1)
      | (false, none, s1) => (before ++ es, s1)

/-- The 32-byte entries a buffered operation takes: one per lane of a store, else one. -/
def sbSize (e : SbEnt) : Nat :=
  match e.act with
  | .store _ ys => ys.length
  | _ => 1

def sbFill (es : List SbEnt) : Nat := es.foldl (fun n e => n + sbSize e) 0

/-- The spill units of 2,048 entries that entries need beyond the 1,024 of the FIFO bank (R133, R156). -/
def spillNeed (es : List SbEnt) : Nat := (sbFill es + 1023) / 2048

def drainWg (wk : Nat) (s : State) : State :=
  match sfind s.wgs wk with
  | none => s
  | some w =>
    if w.sbuf.isEmpty then s
    else
      let r := drainGo wk w [] w.sbuf s
      modWg r.2 wk fun w => { w with sbuf := r.1, spill := min w.spill (spillNeed r.1) }

/-- Commit of a workgroup, or of every member of its gang (R134, R135). -/
def commitWg (wk : Nat) (s : State) : State :=
  (gangOf s wk).foldl (fun s k => drainWg k (modWg s k fun w => { w with committed := true })) s

/-- The spill units of a cluster's workgroups (R133). -/
def clusterSpill (s : State) (cl : Nat) : Nat :=
  s.wgs.foldl (fun n e => if clusterOf (keyCore e.1) = cl then n + e.2.spill else n) 0

/-- An operation enters a workgroup's store buffer (R133): 1,024 entries in the FIFO bank, then up to four spill units of
2,048; where no unit can be had the buffer commits, and the operation follows (R134). -/
def bufferOp (wk : Nat) (e : SbEnt) (s : State) : State :=
  match sfind s.wgs wk with
  | none => s
  | some w =>
    let need := spillNeed (w.sbuf ++ [e])
    if need ≤ w.spill then modWg s wk fun w => { w with sbuf := w.sbuf ++ [e] }
    else if need ≤ 4 ∧ clusterSpill s (clusterOf (keyCore wk)) + (need - w.spill) ≤ 32 then
      modWg s wk fun w => { w with sbuf := w.sbuf ++ [e], spill := need }
    else
      let s1 := commitWg wk s
      drainWg wk (modWg s1 wk fun w => { w with sbuf := w.sbuf ++ [e] })

/-! ### An access of some lanes -/

/-- An operation of some lanes enters its workgroup's store buffer. -/
def bufferAct (ag : Ag) (id : Nat) (lanes : Mask) (a : SbAct) (s : State) : State :=
  bufferOp ag.wk ⟨ag.gk, id, lanes, a, ag.clause, false⟩ s

/-- The non-returning atomics of some lanes enter the store buffer; an acquire among them is performed as they issue
(R209). -/
def bufferAtoms (ag : Ag) (id op ty scope order : Nat) (ys : List LaneAcc) (s : State) : State :=
  let s1 := ys.foldl (fun s y =>
    bufferAct ag id (laneBit y.lane) (.atom op ty scope (if isRel order then 2 else 0) y.addr y.data) s) s
  if isAcq order then acquireScope s1 ag.core ag.asid scope else s1

/-! ### Hints (R179, R424) -/

/-- The stamps and keys of the kept lines of a line's set. -/
def keptIn (c : ClusterSt) (key : Nat) : List (Nat × Nat) :=
  c.l2.filterMap fun e => match e.2.kept with
    | some st => if sameSet e.1 key then some (st, e.1) else none
    | none => none

/-- The element with the smallest stamp. -/
def earliest : List (Nat × Nat) → Option (Nat × Nat)
  | [] => none
  | e :: es => match earliest es with
    | none => some e
    | some f => some (if f.1 < e.1 then f else e)

def setKept (s : State) (cl key : Nat) (k : Option Nat) : State :=
  modCluster s cl fun c => { c with l2 := smod c.l2 key fun ln => { ln with kept := k } }

/-- RESID.KEEP of a line that the L2 holds: at most 4 kept lines of a set, the earliest mark moves (R424). -/
def keepLine (cl asid va : Nat) (s : State) : State :=
  let key := lineKey asid va
  let kept := (keptIn (clusterSt s cl) key).filter fun e => e.2 != key
  let s1 := if kept.length < 4 then s
    else match earliest kept with
      | some e => setKept s cl e.2 none
      | none => s
  setKept { s1 with tick := s1.tick + 1 } cl key (some s1.tick)

/-- Hints at some addresses: the line enters the cluster L2, and the core's L1 or the kept lines where the hint says so; one
whose slice is washed waits (R144), one that faults or whose address is held is dropped and counted (R179). -/
def runHint (ag : Ag) (act : Nat) : List LaneAcc → Ran → Ran
  | [], r => r
  | y :: ys, r =>
    let cl := clusterOf ag.core
    if nsHas (clusterSt r.st cl).washing (sliceOf y.addr) then
      runHint ag act ys { r with left := r.left ++ [(y, .held (washHold cl (sliceOf y.addr)))] }
    else match ensureLine r.st cl ag.asid y.addr .read with
      | (.ready, s1) =>
        let s2 := match act with
          | 0 => (readLine s1 ag.core ag.asid y.addr).2.1
          | 1 => s1
          | _ => keepLine cl ag.asid y.addr s1
        runHint ag act ys { r with st := s2 }
      | (_, s1) =>
        runHint ag act ys { r with
          st := modCtx s1 ag.asid fun c => { c with hintDrops := min (c.hintDrops + 1) (2 ^ 64 - 1) } }

/-- Whether an access is one that a drain has taken out of its workgroup's buffer. -/
def drained (s : State) (ag : Ag) (opId : Nat) : Bool :=
  match sfind s.wgs ag.wk with
  | some w => w.sbuf.any fun e => e.logged && e.gk == ag.gk && e.id == opId
  | none => false

/-- An access of some lanes, as issued or replayed. -/
def runAccess (ag : Ag) (opId : Nat) (acc : Acc) (ys : List LaneAcc) (s : State) : Ran :=
  let r := Ran.start s
  let buf := wgBuffers s ag.wk && !drained s ag opId
  let put (a : SbAct) : Ran := { r with st := bufferAct ag opId (lanesMask ys) a s }
  match acc with
  | .load x d => runLoad ag opId x d ys r
  | .store _ =>
    if buf then put (.store false ys) else runStore ag opId false ys r
  | .stu =>
    if buf then put (.store true ys) else runStore ag opId true ys r
  | .atom op ty scope order d =>
    if !buf then runAtom ag opId op ty scope order d ys r
    else if isZ d then { r with st := bufferAtoms ag opId op ty scope order ys s }
    else
      let s1 := commitWg ag.wk s
      if wgBuffers s1 ag.wk then { r with st := s1, left := ys.map fun y => (y, .held drainHold) }
      else runAtom ag opId op ty scope order d ys { r with st := s1 }
  | .wait cond scope acq w64 d => runWait ag opId cond scope acq w64 d ys r
  | .mcast ob dst => runMcast ag opId ob dst ys r
  | .acqRead d => runAcq ag opId d ys r
  | .relOp op =>
    if buf then
      match ys with
      | [] => r
      | y :: _ => put (.rel op y.addr (ofLeBytes y.data))
    else runRel ag opId op ys r
  | .hint act => runHint ag act ys r

/-! ### What an access is held for (R188, R197, R428, R430, R434) -/

/-- Whether an access writes. -/
def accWrites : Acc → Bool
  | .store _ => true
  | .stu => true
  | .atom _ _ _ _ _ => true
  | .relOp _ => true
  | _ => false

/-- Whether a pending release fence holds an access: a store or an atomic, and so ACQ's read (R430, R434). -/
def waitsForRel (acc : Acc) : Bool :=
  accWrites acc || match acc with
    | .acqRead _ => true
    | _ => false

/-- Whether an access of a group's operation is an atomic with the acquire modifier. -/
def acqAtom (s : State) (gk id : Nat) : Bool :=
  s.parked.any fun p => p.group == gk && p.op == id &&
    match p.acc with
    | .atom _ _ _ order _ => isAcq order
    | _ => false

/-- The first outstanding fence or acquire of the group that holds a later access of some lanes. -/
def holdOf (s : State) (gk : Nat) (g : Group) (opId : Nat) (lanes : Mask) (isStore : Bool) : Option Nat :=
  (g.ops.find? fun o =>
    decide (o.id < opId) && !o.ready &&
      match o.kind with
      | .fence rel acq _ => (acq || (rel && isStore)) && opLanes o &&& lanes != 0
      | .waita acq => acq && opLanes o &&& lanes != 0
      | .acquire => true
      | .access => opLanes o &&& lanes != 0 && acqAtom s gk o.id
      | _ => false).map fun o => o.id

/-- The lanes whose later accesses follow an operation's access by one lane: the lane itself, and those that a rejoin set
has ordered behind it since (R188, R199). -/
def followers (s : State) (gk op lane : Nat) : Mask :=
  let joins := match findOp s gk op with | some o => o.joins | none => []
  joins.foldl (fun m j => if j.1.getLsbD lane then m ||| j.2 else m) (laneBit lane)

/-- An earlier wait on a word, or an earlier multicast read of a line, that an access writes: neither returns a later store
of the lanes that follow it (R188, R199). -/
def ownWait (s : State) (gk : Nat) (g : Group) (opId : Nat) (acc : Acc) (ys : List LaneAcc) : Option Nat :=
  if !accWrites acc then none
  else
    let wait := (s.waits.find? fun w => w.group == gk && decide (w.op < opId) && ys.any fun y =>
        (followers s gk w.op w.lane).getLsbD y.lane && touchesRange acc y w.va (if w.w64 then 8 else 4)).map fun w => w.op
    let read := (g.ops.find? fun o => decide (o.id < opId) && !o.ready &&
      match o.kind with
      | .mcast _ start n _ _ => ys.any fun y => touchesRange acc y start (128 * n)
      | _ => false).map fun o => o.id
    wait.or read

/-- An access of some lanes: held behind an earlier operation of its group, or performed. -/
def tryAccess (ag : Ag) (opId : Nat) (acc : Acc) (ys : List LaneAcc) (s : State) : Ran :=
  let hold := match sfind s.groups ag.gk with
    | some g => (holdOf s ag.gk g opId (lanesMask ys) (waitsForRel acc)).or (ownWait s ag.gk g opId acc ys)
    | none => none
  match hold with
  | some k => { Ran.start s with left := ys.map fun y => (y, .held (opHold k)) }
  | none => runAccess ag opId acc ys s

/-- What an access did beyond its lanes: a failed transfer kills the context, consumed poison is charged (R130, R132). -/
def chargeRan (ag : Ag) (r : Ran) (s : State) : State :=
  match r.left.findSome? fun e => match e.2 with | .dead pa => some (e.1.addr, pa) | _ => none with
  | some (va, pa) => transferFails ag.asid ag.core va pa s
  | none => match r.eaten with
    | some va => consumeAt ag.asid ag.wk va s
    | none => s

/-- The lanes of an operation that wait, parked or on a word. -/
def lanesLeft (s : State) (gk op : Nat) : Mask :=
  (s.parked.foldl (fun m p => if p.group == gk && p.op == op then m ||| lanesMask p.lanes else m) (0 : Mask))
    ||| s.waits.foldl (fun m w => if w.group == gk && w.op == op then m ||| laneBit w.lane else m) (0 : Mask)

/-! ### Replay -/

/-- An operation some of whose lanes were served: its results grow, and once no lane is left it is ready; one that names
no flag is then complete. -/
def serveOp (gk id : Nat) (results : List (Nat × W32)) (s : State) : State :=
  let left := lanesLeft s gk id
  let s1 := modOp gk id (fun o =>
    { o with results := o.results ++ results, lanes := left, ready := o.ready || left == 0 }) s
  match findOp s1 gk id with
  | some o => if o.flag = 15 && o.ready then completeOp gk id s1 else settle gk s1
  | none => retireGroup gk s1

/-- Replay one parked access (R178): what still cannot be served keeps the entry's place in the order (R177); an entry with
no lane left is free. -/
def replay (p : Parked) (s : State) : State :=
  let s0 := { s with parked := s.parked.map fun x => if x = p then { x with lanes := [] } else x }
  let free (s : State) : State := { s with parked := s.parked.filter fun x => !x.lanes.isEmpty }
  match agOf s0 p.group with
  | none => free s0
  | some a =>
    let ag := { a with clause := p.clause }
    let r := tryAccess ag p.op p.acc p.lanes s0
    let s1 := free (parkLeft ag p.op p.acc p.clause r.left r.st)
    chargeRan ag r (serveOp p.group p.op r.results s1)

/-- Replay, in the order they were parked, the accesses a test picks. -/
def replayWhere (pick : State → Parked → Bool) (s : State) : State :=
  (s.parked.filter (pick s)).foldl (fun s p => if s.parked.contains p then replay p s else s) s

/-- Whether what an access is held for has come to pass: its earlier operation is served, its store buffer is empty. -/
def holdOver (s : State) (p : Parked) : Bool :=
  match p.place with
  | .held h =>
    if h < 2 ^ 21 then false
    else if h = drainHold then
      match agOf s p.group with
      | some ag => !wgBuffers s ag.wk
      | none => true
    else match findOp s p.group ((h - 2 ^ 21) / 2) with
      | some o => o.ready
      | none => true
  | _ => false

/-- Store buffers that stopped while draining go on. -/
def drainAll (s : State) : State :=
  (s.wgs.filter fun e => e.2.committed && !e.2.sbuf.isEmpty).foldl (fun s e => drainWg e.1 s) s

/-- What waited for something that has come to pass goes on: store buffers, then held accesses. -/
def releaseHeld (s : State) : State :=
  let s1 := drainAll s
  if s1.parked.isEmpty then s1 else replayWhere holdOver s1

/-- The same until what was released has released what waited for it. -/
def resumeDrains (s : State) : State := releaseHeld (releaseHeld (releaseHeld s))

/-! ### Issue -/

/-- An access of some lanes at issue: held, or performed; the lanes that are not served park, and the operation stays
outstanding (R219). One that names no flag and is served leaves nothing outstanding (DESIGN CHOICE, log 12). -/
def startAccess (cx : Cx) (flag : Nat) (kind : OpKind) (acc : Acc) (dests : List Nat) (ys : List LaneAcc) (s : State) :
    State :=
  let ag := agCx cx s
  let id := s.nextOp
  let r := tryAccess ag id acc ys s
  let s1 := parkLeft ag id acc cx.run.head.toNat r.left r.st
  let left := lanesLeft s1 cx.gk id
  let s2 := if flag = 15 ∧ left = 0 then { s1 with nextOp := s1.nextOp + 1 }
    else startOp cx flag kind left dests r.results (left == 0) s1
  releaseHeld (chargeRan ag r s2)

end Sys2Proof.Machine
end

