-- ==== Sys2Proof/Machine/Local.lean ====
section
/-! DEFINITION. The address form (R416) and accesses of lanes to the local spaces: scratchpad, operand buffer and
matrix-side memory (R155, R160, R191, R418, R419). -/

namespace Sys2Proof.Machine

/-- The local spaces (R160). -/
inductive Space where
  | sp | ob | ms
  deriving DecidableEq, Repr

/-- The workgroup's run in a space: its place on the core and its size (R160). -/
def runOf (w : Wg) : Space → Nat × Nat
  | .sp => (w.scratchOff, w.scratchLen)
  | .ob => (w.obOff, w.obLen)
  | .ms => (w.msOff, w.msLen)

/-- The bytes of a space on a core. -/
def spaceCells (c : CoreSt) : Space → List Host.Cell
  | .sp => c.sp
  | .ob => c.ob
  | .ms => c.ms

def withCells (c : CoreSt) (spc : Space) (m : List Host.Cell) : CoreSt :=
  match spc with
  | .sp => { c with sp := m }
  | .ob => { c with ob := m }
  | .ms => { c with ms := m }

/-- The poisoned sectors of a space (R131); matrix-side memory holds no poison marks. -/
def spacePoison (c : CoreSt) : Space → NatSet
  | .sp => c.spPoison
  | .ob => c.obPoison
  | .ms => []

def withPoison (c : CoreSt) (spc : Space) (p : NatSet) : CoreSt :=
  match spc with
  | .sp => { c with spPoison := p }
  | .ob => { c with obPoison := p }
  | .ms => c

/-- Bytes of a core's space. -/
def localBytes (s : State) (core : Nat) (spc : Space) (a n : Nat) : List Byte := cellBytes (spaceCells (coreSt s core) spc) a n

/-- Whether bytes of a core's space touch a poisoned sector. -/
def localPoisoned (s : State) (core : Nat) (spc : Space) (a n : Nat) : Bool :=
  rangePoisoned (spacePoison (coreSt s core) spc) a n

/-- The 32-byte sectors all of whose bytes a sorted list of bytes covers. -/
def coveredSectors (m : List (Nat × Byte)) : List Nat :=
  ((m.map fun e => e.1 / 32).eraseDups).filter fun k => (m.filter fun e => e.1 / 32 == k).length == 32

/-- Bytes written to a core's space by one instruction; sectors written whole lose their poison (R131). -/
def localWrite (core : Nat) (spc : Space) (m : List (Nat × Byte)) (s : State) : State :=
  modCore s core fun c =>
    let c1 := withCells c spc (m.foldl (fun cells e => sput 0 cells e.1 e.2) (spaceCells c spc))
    let p := spacePoison c spc
    if p.isEmpty then c1 else withPoison c1 spc ((coveredSectors m).foldl nsDel p)

/-- The lowest offset of a byte outside a run of `len` bytes, over accesses of (offset, size) (R235). -/
def firstOutside (len : Nat) (ys : List (Nat × Nat)) : Option Nat :=
  ((ys.filter fun y => decide (0 < y.2) && decide (len < y.1 + y.2)).map fun y => max y.1 len).min?

/-- The cycles a bank conflict costs in scratch space: the most rows any bank serves (R155). -/
def bankCycles (spans : List (Nat × Nat)) : Nat :=
  let rows := (spans.flatMap fun y => [y.1 / 128, (y.1 + y.2 - 1) / 128]).eraseDups
  ((rows.map fun r => (rows.filter fun x => x / 256 == r / 256).length).max?).getD 1

/-- Scratchpad accesses take their bank's cycles. -/
def bankTime (cx : Cx) (spc : Space) (ys : List (Nat × Nat)) (s : State) : State :=
  match spc with
  | .sp => takeCycles cx (bankCycles (ys.map fun y => (cx.w.scratchOff + y.1, y.2))) s
  | _ => s

/-- Whether an outstanding fence or acquire of the group holds an access of the executing lanes. -/
def localHeld (cx : Cx) (isStore : Bool) (s : State) : Bool :=
  !cx.g.ops.isEmpty && (holdOf s cx.gk cx.g s.nextOp cx.run.lanes isStore).isSome

/-! ### The address form -/

/-- The operands of the address form: base of 64 bits in .G and of 32 in the local spaces, index, displacement. -/
def addrForm (glob : Bool) (o : R4) : List (Opnd × Role) :=
  [(o.a, if glob then .base else .src 1 false), (o.b, .index), (o.c, .disp)]

/-- The scaled index and the displacement, as integers. -/
def idxDisp (cx : Cx) (s : State) (o : R4) (size l : Nat) : Int × Int :=
  ((rdI cx s o.b l).toInt * size, (rdI cx s o.c l).toInt)

/-- The global address of lane l (R416). -/
def effAddr (cx : Cx) (s : State) (o : R4) (size l : Nat) : Nat :=
  let x := idxDisp cx s o size l
  wrapInt 64 ((rdI64 cx s o.a l).toNat + x.1 + x.2) % 2 ^ 57

/-- The local offset of lane l (R416). -/
def effOff (cx : Cx) (s : State) (o : R4) (size l : Nat) : Nat :=
  let x := idxDisp cx s o size l
  wrapInt 32 ((rdI cx s o.a l).toNat + x.1 + x.2)

/-! ### Local loads and stores -/

/-- A variable-latency operation that is served as it issues: its flag, if it names one, is pending until it completes. -/
def servedOp (cx : Cx) (h : Hdr) (dests : List Nat) (results : List (Nat × W32)) (s : State) : State :=
  if h.f = 15 then s else startOp cx h.f.toNat .access 0 dests results true s

/-- A load from a local space (R418, R419). -/
def loadLocal (cx : Cx) (h : Hdr) (spc : Space) (x : LdW) (o : R4) (s : State) : State :=
  let n := ldSize x
  let offs := (lanesOf cx.run.lanes).map fun l => (l, effOff cx s o n l)
  let run := runOf cx.w spc
  match firstOutside run.2 (offs.map fun e => (e.2, n)) with
  | some a => raiseExc cx 8 a s
  | none =>
    if localHeld cx false s then stall cx s
    else
      let results := offs.flatMap fun e =>
        resultKeys o.d (ldWords x) e.1 (ldValue x (ofLeBytes (localBytes s cx.core spc (run.1 + e.2) n)))
      let bad := !isZ o.d && offs.any fun e => localPoisoned s cx.core spc (run.1 + e.2) n
      let s1 := servedOp cx h (results.map fun e => e.1) results (bankTime cx spc (offs.map fun e => (e.2, n)) s)
      if bad then consume cx.wk 0 0 s1 else s1

/-- A store of bytes to a local space: per lane the bytes at offsets (R418, R419). -/
def storeLocal (cx : Cx) (h : Hdr) (spc : Space) (bytes : List (Nat × Byte)) (s : State) : State :=
  let run := runOf cx.w spc
  match firstOutside run.2 (bytes.map fun e => (e.1, 1)) with
  | some a => raiseExc cx 8 a s
  | none =>
    if localHeld cx true s then stall cx s
    else
      let m := collectBytes (bytes.map fun e => (run.1 + e.1, e.2))
      servedOp cx h [] [] (localWrite cx.core spc m (bankTime cx spc (bytes.map fun e => (e.1, 1)) s))

end Sys2Proof.Machine
end

