-- ==== Sys2Proof/Machine/Memory.lean ====
section
/-! DEFINITION. Group 100: loads, stores, multicast reads, hints, bank switching (R416 to R425). -/

namespace Sys2Proof.Machine

/-- Whether a pending FENCE.X of the group holds its vector path: the instruction cannot issue (R431). -/
def vecHeld (cx : Cx) : Bool :=
  cx.g.ops.any fun o => !o.ready && match o.kind with | .fenceX _ b => b == 0 | _ => false

/-- The issue of an instruction that accesses memory (R431); a guarded one that acts on no lane does nothing (R328). -/
def memIssue (f : Form) (h : Hdr) (eff : Cx → State → State) (s : State) : Host.Outcome State Fault Refusal :=
  issue f h (fun cx s =>
    if f.guarded && guardMask cx h == 0 then s else if vecHeld cx then stall cx s else eff cx s) s

/-! ### LD -/

def ldForm (glob : Bool) (x : LdW) (o : R4) : Form :=
  { unit := 1, fcls := .res, ops := (o.d, .dst (ldWords x) true false) :: addrForm glob o }

/-- LD.G (R418, R420). -/
def execLdG (h : Hdr) (x : LdW) (o : R4) (s : State) : Host.Outcome State Fault Refusal :=
  memIssue (ldForm true x o) h (fun cx s =>
    let ys := (lanesOf cx.run.lanes).map fun l => ⟨l, effAddr cx s o (ldSize x) l, [], 0⟩
    let dests := (lanesOf cx.run.lanes).flatMap fun l => (resultKeys o.d (ldWords x) l 0).map fun e => e.1
    startAccess cx h.f.toNat .access (.load x o.d) dests ys s) s

/-- LD.SP (R418, R419). -/
def execLdSp (h : Hdr) (x : LdW) (o : R4) (s : State) : Host.Outcome State Fault Refusal :=
  memIssue (ldForm false x o) h (fun cx s => loadLocal cx h .sp x o s) s
/-- LD.OB (R418, R419). -/
def execLdOb (h : Hdr) (x : LdW) (o : R4) (s : State) : Host.Outcome State Fault Refusal :=
  memIssue (ldForm false x o) h (fun cx s => loadLocal cx h .ob x o s) s
/-- LD.MS (R418, R419). -/
def execLdMs (h : Hdr) (x : LdW) (o : R4) (s : State) : Host.Outcome State Fault Refusal :=
  memIssue (ldForm false x o) h (fun cx s => loadLocal cx h .ms x o s) s

/-! ### ST and STU -/

def stSize : StW → Nat
  | .b8 => 1 | .b16 => 2 | .b32 => 4 | .b64 => 8 | .b128 => 16
def stWords : StW → Nat
  | .b64 => 2 | .b128 => 4 | _ => 1

def stForm (glob : Bool) (x : StW) (o : R4) : Form :=
  { unit := 1, fcls := .opt, guarded := true, ops := (o.d, .src (stWords x) false) :: addrForm glob o }

/-- The low bytes of a store's data in lane l. -/
def stData (cx : Cx) (s : State) (x : StW) (o : Opnd) (l : Nat) : List Byte :=
  leBytes (stSize x) (match x with
    | .b128 => rd128 cx s o l
    | .b64 => (rdI64 cx s o l).toNat
    | _ => (rdI cx s o l).toNat)

/-- ST.G (R418, R420). -/
def execStG (h : Hdr) (x : StW) (o : R4) (s : State) : Host.Outcome State Fault Refusal :=
  memIssue (stForm true x o) h (fun cx s =>
    let m := guardMask cx h
    let ys := (lanesOf m).map fun l => ⟨l, effAddr cx s o (stSize x) l, stData cx s x o.d l, 0⟩
    startAccess cx h.f.toNat .access (.store (stSize x)) [] ys s) s

/-- The bytes of a local store. -/
def stBytes (cx : Cx) (h : Hdr) (x : StW) (o : R4) (s : State) : List (Nat × Byte) :=
  (lanesOf (guardMask cx h)).flatMap fun l =>
    (stData cx s x o.d l).mapIdx fun i b => (effOff cx s o (stSize x) l + i, b)

/-- ST.SP (R418, R419). -/
def execStSp (h : Hdr) (x : StW) (o : R4) (s : State) : Host.Outcome State Fault Refusal :=
  memIssue (stForm false x o) h (fun cx s => storeLocal cx h .sp (stBytes cx h x o s) s) s
/-- ST.OB (R418, R419). -/
def execStOb (h : Hdr) (x : StW) (o : R4) (s : State) : Host.Outcome State Fault Refusal :=
  memIssue (stForm false x o) h (fun cx s => storeLocal cx h .ob (stBytes cx h x o s) s) s
/-- ST.MS (R418, R419). -/
def execStMs (h : Hdr) (x : StW) (o : R4) (s : State) : Host.Outcome State Fault Refusal :=
  memIssue (stForm false x o) h (fun cx s => storeLocal cx h .ms (stBytes cx h x o s) s) s

def stuForm (glob : Bool) (o : R4) : Form :=
  { unit := 1, fcls := .opt, guarded := true
    ops := [(o.d, .src 2 false), (o.a, .src (if glob then 2 else 1) false), (o.b, .src 1 false), (o.c, .src 1 false)] }

/-- The byte mask of a lane (R422). -/
def stuMask (cx : Cx) (s : State) (o : R4) (l : Nat) : Nat := (rdI cx s o.c l).toNat % 256

/-- STU.G (R422): a lane whose mask is 0 makes no access. -/
def execStuG (h : Hdr) (o : R4) (s : State) : Host.Outcome State Fault Refusal :=
  memIssue (stuForm true o) h (fun cx s =>
    let ls := (lanesOf (guardMask cx h)).filter fun l => stuMask cx s o l != 0
    let ys := ls.map fun l =>
      let ea := wrapInt 64 ((rdI64 cx s o.a l).toNat + (rdI cx s o.b l).toInt) % 2 ^ 57
      ⟨l, ea, leBytes 8 (rdI64 cx s o.d l).toNat ++ leBytes 1 (stuMask cx s o l), 0⟩
    startAccess cx h.f.toNat .access .stu [] ys s) s

/-- STU.SP (R422). -/
def execStuSp (h : Hdr) (o : R4) (s : State) : Host.Outcome State Fault Refusal :=
  memIssue (stuForm false o) h (fun cx s =>
    let bytes := (lanesOf (guardMask cx h)).flatMap fun l =>
      let a := wrapInt 32 ((rdI cx s o.a l).toNat + (rdI cx s o.b l).toInt)
      let data := leBytes 8 (rdI64 cx s o.d l).toNat
      ((List.range 8).filter fun i => (stuMask cx s o l).testBit i).map fun i => (a + i, data.getD i 0)
    storeLocal cx h .sp bytes s) s

/-! ### LDMC -/

/-- The number of a merge entry: slice, then place (R165). -/
def mergeKey (slice k : Nat) : Nat := slice * 32 + k

/-- Open a merge entry, or join one, for a request (R165); none where it is served separately. -/
def mergeInto (c : ClusterSt) (asid start n gk op : Nat) : Option ClusterSt :=
  let slice := sliceOf start
  if c.mergewin = 0 then none
  else match c.merges.find? fun e => e.1 / 32 == slice && e.2.asid == asid && e.2.start == start && e.2.len == n with
    | some e => some { c with merges := sset c.merges e.1 { e.2 with reqs := e.2.reqs ++ [(gk, op)] } }
    | none => match firstBelow 32 fun k => (sfind c.merges (mergeKey slice k)).isNone with
      | some k => some { c with merges := sset c.merges (mergeKey slice k) ⟨asid, start, n, [(gk, op)]⟩ }
      | none => none

/-- The lines of a request as lanes of an access: line i at its address. -/
def mcastLines (start n : Nat) : List LaneAcc :=
  (List.range n).map fun i => ⟨0, (start + 128 * i) % 2 ^ 57, leBytes 1 i, 0⟩

/-- LDMC (R423). -/
def execLdmc (h : Hdr) (x : McX) (o : R4) (s : State) : Host.Outcome State Fault Refusal :=
  let f : Form :=
    { unit := 1, fcls := .res, ops := [(o.d, .unused), (o.a, .src 2 true), (o.b, .src 1 true), (o.c, .src 1 true)] }
  memIssue f h (fun cx s =>
    let l := elected cx
    let start := (rdI64 cx s o.a l).toNat % 2 ^ 57 / 128 * 128
    let n := min (rdI cx s o.b l).toNat 64
    let dst := (rdI cx s o.c l).toNat / 128 * 128
    let ob := x == .ob
    let kind : OpKind := .mcast ob start n dst cx.run.head.toNat
    let run := runOf cx.w (if ob then .ob else .sp)
    match firstOutside run.2 [(dst, 128 * n)] with
    | some a => raiseExc cx 8 a s
    | none =>
      if n = 0 then startOp cx h.f.toNat .access 0 [] [] true s
      else match mergeInto (clusterSt s (clusterOf cx.core)) cx.w.asid start n cx.gk s.nextOp with
        | some c =>
          if localHeld cx false s then stall cx s
          else startOp cx h.f.toNat kind 1 [] [] false (putCluster s (clusterOf cx.core) c)
        | none => startAccess cx h.f.toNat kind (.mcast ob dst) [] (mcastLines start n) s) s

/-! ### Hints (R179, R424) -/

/-- A hint in every executing lane. -/
def hint (h : Hdr) (o : R4) (act : Nat) (s : State) : Host.Outcome State Fault Refusal :=
  let f : Form := { unit := 1, ops := (o.d, .unused) :: addrForm true o }
  memIssue f h (fun cx s =>
    let ys := (lanesOf cx.run.lanes).map fun l => ⟨l, effAddr cx s o 1 l, [], 0⟩
    let r := runHint (agCx cx s) act ys (Ran.start s)
    let s1 := parkLeft (agCx cx s) s.nextOp (.hint act) cx.run.head.toNat r.left r.st
    { s1 with nextOp := s1.nextOp + 1 }) s

/-- PREF.L1 (R424). -/
def execPrefL1 (h : Hdr) (o : R4) (s : State) : Host.Outcome State Fault Refusal := hint h o 0 s
/-- PREF.L2 (R424). -/
def execPrefL2 (h : Hdr) (o : R4) (s : State) : Host.Outcome State Fault Refusal := hint h o 1 s
/-- RESID.KEEP (R424). -/
def execResidKeep (h : Hdr) (o : R4) (s : State) : Host.Outcome State Fault Refusal := hint h o 2 s
/-- A hint is dropped and counted (R179). -/
def dropHint (asid : Nat) (s : State) : State :=
  modCtx s asid fun c => { c with hintDrops := min (c.hintDrops + 1) (2 ^ 64 - 1) }

/-- RESID.NORM at an address: the kept mark clears and nothing is fetched; one that lies in a held range, or whose line
lacks R permission, is dropped. -/
def unkeep (cx : Cx) (va : Nat) (s : State) : State :=
  let cl := clusterOf cx.core
  let barred := match l2Line s cl cx.w.asid va with
    | some ln => !ln.r
    | none => false
  if barred || (heldBy s cx.w.asid va).isSome then dropHint cx.w.asid s
  else setKept s cl (lineKey cx.w.asid va) none

/-- RESID.NORM (R424). -/
def execResidNorm (h : Hdr) (o : R4) (s : State) : Host.Outcome State Fault Refusal :=
  let f : Form := { unit := 1, ops := (o.d, .unused) :: addrForm true o }
  memIssue f h (fun cx s => (lanesOf cx.run.lanes).foldl (fun s1 l => unkeep cx (effAddr cx s o 1 l) s1) s) s

/-! ### Bank switching (R157, R158) -/

/-- The pending switches of a core as a mask (BANKPEND). -/
def bankPend (c : CoreSt) : Nat := c.bankFrom.foldl (fun m e => m + 2 ^ e.1) 0

/-- BANKSW (R425). -/
def execBanksw (h : Hdr) (o : R4) (s : State) : Host.Outcome State Fault Refusal :=
  let f : Form :=
    { unit := 1, priv := true, fcls := .opt
      ops := [(o.d, .unused), (o.a, .src 1 true), (o.b, .src 1 true), (o.c, .unused)] }
  issue f h (fun cx s =>
    let mask := (rdI cx s o.a (elected cx)).toNat % 65536 / 4 * 4
    let mode := (rdI cx s o.b (elected cx)).toNat % 4
    let banks := (List.range 16).filter fun b => mask.testBit b
    let s1 := banks.foldl (switchBank cx.core mode) s
    let before := bankPend (coreSt s cx.core)
    let waits := bankPend (coreSt s1 cx.core) - (before &&& bankPend (coreSt s1 cx.core))
    if h.f = 15 then s1 else startOp cx h.f.toNat (.banks waits) 0 [] [] (waits == 0) s1) s

end Sys2Proof.Machine
end

