-- ==== Sys2Proof/Machine/Atomics.lean ====
section
/-! DEFINITION. Group 101: atomics (R426 to R429). -/

namespace Sys2Proof.Machine

/-- The modifier field of an atomic: scope, order, type (R426). -/
def atomScope (o : RM) : Nat := field o.c.toNat 8 3
def atomOrder (o : RM) : Nat := field o.c.toNat 6 2
def atomType (o : RM) : Nat := o.c.toNat % 32

/-- Whether an operation takes a type (R427). -/
def atomTakes (op ty : Nat) : Bool :=
  match op with
  | 0 => [16, 17, 18, 19, 1].contains ty
  | 1 => [16, 17, 18, 19].contains ty
  | 2 => [16, 17, 18, 19].contains ty
  | _ => [16, 17, 18, 19, 22, 23].contains ty

/-- The checks of an atomic (R426, R427). -/
def atomForm (glob : Bool) (op : Nat) (o : RM) : Form :=
  let w := if 8 ≤ atomSize (atomType o) then 2 else 1
  { unit := 1, guarded := true
    fcls := if isZ o.d then .opt else .res
    modOk := decide (atomScope o < 6) && !o.c.getLsbD 5 && atomTakes op (atomType o)
    ops := [(o.d, .dst w true false), (o.a, .src (if glob then 2 else 1) false),
      (o.b, .src (if op = 7 then 2 * w else w) false)] }

/-- The operand bits of an atomic in lane l: 32, 64 or 128 (R426). -/
def atomOperand (cx : Cx) (s : State) (op : Nat) (o : RM) (l : Nat) : Nat :=
  let t := (tyOf (atomType o)).getD (.plain 32)
  let n := atomSize (atomType o) * (if op = 7 then 2 else 1)
  match n with
  | 16 => rd128 cx s o.b l
  | 8 => (rd64 cx s (if op = 7 then .plain 64 else t) o.b l).toNat
  | _ => (rd32 cx s t o.b l).toNat

def atomBytes (op : Nat) (o : RM) : Nat := atomSize (atomType o) * (if op = 7 then 2 else 1)

/-- A global atomic (R428, R429). -/
def atomGlobal (op : Nat) (h : Hdr) (o : RM) (s : State) : Host.Outcome State Fault Refusal :=
  memIssue (atomForm true op o) h (fun cx s =>
    let m := guardMask cx h
    let ys := (lanesOf m).map fun l =>
      ⟨l, (rdI64 cx s o.a l).toNat % 2 ^ 57, leBytes (atomBytes op o) (atomOperand cx s op o l), 0⟩
    let dests := (lanesOf m).flatMap fun l => (resultKeys o.d (atomSize (atomType o) / 4) l 0).map fun e => e.1
    startAccess cx h.f.toNat .access (.atom op (atomType o) (atomScope o) (atomOrder o) o.d) dests ys s) s

/-- The scratchpad atomics of some lanes, ascending: (lane, aligned offset, operand). -/
def atomSpLanes (core base op ty : Nat) (d : Opnd) :
    List (Nat × Nat × Nat) → State → List (Nat × W32) × State
  | [], s => ([], s)
  | (l, x, b) :: ys, s =>
    let n := atomSize ty
    let old := ofLeBytes (localBytes s core .sp (base + x) n)
    let s1 := match atomNew op ty old b with
      | some v => localWrite core .sp ((leBytes n v).mapIdx fun i b => (base + x + i, b)) s
      | none => s
    let r := atomSpLanes core base op ty d ys s1
    (resultKeys d (n / 4) l old ++ r.1, r.2)

/-- Whether a workgroup's store buffer still drains after its commit. -/
def draining (s : State) (wk : Nat) : Bool :=
  match sfind s.wgs wk with
  | some w => w.committed && !w.sbuf.isEmpty
  | none => false

/-- Whether a workgroup is restartable and has not committed. -/
def uncommitted (s : State) (wk : Nat) : Bool :=
  match sfind s.wgs wk with
  | some w => w.restartable && !w.committed
  | none => false

/-- Whether a release by some lanes must wait: for a lane's earlier access, or for the store buffer (R428). -/
def relWaits (cx : Cx) (m : Mask) (s : State) : Bool :=
  (earlierLeft s cx.gk s.nextOp m).isSome || draining s cx.wk

/-- The release of a scratchpad atomic: in an uncommitted restartable workgroup it enters the store buffer (R133). -/
def releaseOr (cx : Cx) (m : Mask) (scope : Nat) (s : State) : State :=
  if uncommitted s cx.wk then bufferAct (agCx cx s) s.nextOp m (.fence scope) s
  else releaseScope s cx.core cx.w.asid scope

/-- A scratchpad atomic (R428), with the ordering of its scope. -/
def atomLocal (op : Nat) (h : Hdr) (o : RM) (s : State) : Host.Outcome State Fault Refusal :=
  memIssue (atomForm false op o) h (fun cx s =>
    let m := guardMask cx h
    let n := atomSize (atomType o)
    let ys := (lanesOf m).map fun l => (l, (rdI cx s o.a l).toNat / n * n, atomOperand cx s op o l)
    match firstOutside cx.w.scratchLen (ys.map fun y => (y.2.1, n)) with
    | some a => raiseExc cx 8 a s
    | none =>
      let order := atomOrder o
      if localHeld cx true s || (isRel order && !uncommitted s cx.wk && relWaits cx m s) then stall cx s
      else
        let bad := ys.any fun y => localPoisoned s cx.core .sp (cx.w.scratchOff + y.2.1) n
        let s0 := if isRel order then releaseOr cx m (atomScope o) s else s
        let r := atomSpLanes cx.core cx.w.scratchOff op (atomType o) o.d ys s0
        let s1 := if isAcq order then acquireScope r.2 cx.core cx.w.asid (atomScope o) else r.2
        let s2 := servedOp cx h (r.1.map fun e => e.1) r.1 (bankTime cx .sp (ys.map fun y => (y.2.1, n)) s1)
        if bad then consume cx.wk 0 0 s2 else s2) s

/-- ATOM.G.ADD (R427, R428). -/
def execAtomGAdd (h : Hdr) (o : RM) (s : State) : Host.Outcome State Fault Refusal := atomGlobal 0 h o s
/-- ATOM.G.MIN (R427, R428). -/
def execAtomGMin (h : Hdr) (o : RM) (s : State) : Host.Outcome State Fault Refusal := atomGlobal 1 h o s
/-- ATOM.G.MAX (R427, R428). -/
def execAtomGMax (h : Hdr) (o : RM) (s : State) : Host.Outcome State Fault Refusal := atomGlobal 2 h o s
/-- ATOM.G.AND (R427, R428). -/
def execAtomGAnd (h : Hdr) (o : RM) (s : State) : Host.Outcome State Fault Refusal := atomGlobal 3 h o s
/-- ATOM.G.OR (R427, R428). -/
def execAtomGOr (h : Hdr) (o : RM) (s : State) : Host.Outcome State Fault Refusal := atomGlobal 4 h o s
/-- ATOM.G.XOR (R427, R428). -/
def execAtomGXor (h : Hdr) (o : RM) (s : State) : Host.Outcome State Fault Refusal := atomGlobal 5 h o s
/-- ATOM.G.EXCH (R427, R428). -/
def execAtomGExch (h : Hdr) (o : RM) (s : State) : Host.Outcome State Fault Refusal := atomGlobal 6 h o s
/-- ATOM.G.CAS (R427, R428). -/
def execAtomGCas (h : Hdr) (o : RM) (s : State) : Host.Outcome State Fault Refusal := atomGlobal 7 h o s
/-- ATOM.SP.ADD (R427, R428). -/
def execAtomSpAdd (h : Hdr) (o : RM) (s : State) : Host.Outcome State Fault Refusal := atomLocal 0 h o s
/-- ATOM.SP.MIN (R427, R428). -/
def execAtomSpMin (h : Hdr) (o : RM) (s : State) : Host.Outcome State Fault Refusal := atomLocal 1 h o s
/-- ATOM.SP.MAX (R427, R428). -/
def execAtomSpMax (h : Hdr) (o : RM) (s : State) : Host.Outcome State Fault Refusal := atomLocal 2 h o s
/-- ATOM.SP.AND (R427, R428). -/
def execAtomSpAnd (h : Hdr) (o : RM) (s : State) : Host.Outcome State Fault Refusal := atomLocal 3 h o s
/-- ATOM.SP.OR (R427, R428). -/
def execAtomSpOr (h : Hdr) (o : RM) (s : State) : Host.Outcome State Fault Refusal := atomLocal 4 h o s
/-- ATOM.SP.XOR (R427, R428). -/
def execAtomSpXor (h : Hdr) (o : RM) (s : State) : Host.Outcome State Fault Refusal := atomLocal 5 h o s
/-- ATOM.SP.EXCH (R427, R428). -/
def execAtomSpExch (h : Hdr) (o : RM) (s : State) : Host.Outcome State Fault Refusal := atomLocal 6 h o s
/-- ATOM.SP.CAS (R427, R428). -/
def execAtomSpCas (h : Hdr) (o : RM) (s : State) : Host.Outcome State Fault Refusal := atomLocal 7 h o s

end Sys2Proof.Machine
end

