-- ==== Sys2Proof/Machine/Sync.lean ====
section
/-! DEFINITION. Group 101: fences, synchronisation objects, waiting on an address, named barriers (R430 to R439). -/

namespace Sys2Proof.Machine

/-! ### Fences -/

/-- Whether an operation is a load, a wait or a returning atomic, also one whose value is discarded. -/
def returns (s : State) (gk : Nat) (o : POp) : Bool :=
  !o.dests.isEmpty || o.kind != .access || s.parked.any fun p => p.group == gk && p.op == o.id &&
    match p.acc with
    | .load _ _ => true
    | _ => false

/-- Whether FENCE's accesses have been performed, or have returned (R430): `id` is the fence's number. -/
def fenceDue (s : State) (gk : Nat) (g : Group) (id : Nat) (lanes : Mask) (rel acq : Bool) : Bool :=
  g.ops.all fun o =>
    decide (id ≤ o.id) || o.ready || !laneAccess lanes o || !(rel || (acq && returns s gk o))

/-- The fence's effect at its scope (R196, R197). -/
def fenceAct (core asid : Nat) (rel acq : Bool) (scope : Nat) (s : State) : State :=
  let s1 := if rel then releaseScope s core asid scope else s
  if acq then acquireScope s1 core asid scope else s1

def fenceForm (o : RM) : Form :=
  { unit := 1, fcls := .opt, modOk := decide (field o.c.toNat 8 3 < 6) && decide (o.c.toNat % 256 = 0)
    ops := [(o.d, .unused), (o.a, .unused), (o.b, .unused)] }

/-- A FENCE as it issues (R430): in an uncommitted restartable workgroup its release enters the store buffer. -/
def fence (rel acq : Bool) (h : Hdr) (o : RM) (s : State) : Host.Outcome State Fault Refusal :=
  issue (fenceForm o) h (fun cx s =>
    let scope := field o.c.toNat 8 3
    let buf := rel && uncommitted s cx.wk
    let s0 := if buf then bufferAct (agCx cx s) s.nextOp cx.run.lanes (.fence scope) s else s
    let rel' := rel && !buf
    if fenceDue s cx.gk cx.g s.nextOp cx.run.lanes rel' acq && !(rel' && draining s cx.wk) then
      let s1 := fenceAct cx.core cx.w.asid rel' acq scope s0
      if h.f = 15 then s1 else startOp cx h.f.toNat (.fence rel' acq scope) 0 [] [] true s1
    else startOp cx h.f.toNat (.fence rel' acq scope) cx.run.lanes [] [] false s0) s

/-- FENCE.REL (R430). -/
def execFenceRel (h : Hdr) (o : RM) (s : State) : Host.Outcome State Fault Refusal := fence true false h o s
/-- FENCE.ACQ (R430). -/
def execFenceAcq (h : Hdr) (o : RM) (s : State) : Host.Outcome State Fault Refusal := fence false true h o s
/-- FENCE.AR (R430). -/
def execFenceAr (h : Hdr) (o : RM) (s : State) : Host.Outcome State Fault Refusal := fence true true h o s

/-- The engine of an access path (R206): 0 matrix, 1 copy, 2 sweep, 3 link. -/
def pathEngine (p : Nat) : Nat :=
  match p with
  | 1 => 1 | 2 => 0 | 3 => 2 | _ => 3

/-- Whether the work of a group on a path before operation `id` is done (R207). -/
def pathDone (g : Group) (id path : Nat) : Bool :=
  g.ops.all fun o => decide (id ≤ o.id) || o.ready ||
    match o.kind with
    | .engine e _ => path == 0 || e != pathEngine path
    | .access => path != 0
    | .waita _ => path != 0
    | .acquire => path != 0
    | .mcast _ _ _ _ _ => path != 0
    | _ => true

/-- FENCE.X (R207, R431). -/
def execFenceX (h : Hdr) (o : RM) (s : State) : Host.Outcome State Fault Refusal :=
  let a := field o.c.toNat 3 3
  let b := o.c.toNat % 8
  let f : Form :=
    { unit := 1, fcls := .opt, modOk := decide (o.c.toNat < 64) && decide (a < 5) && decide (b < 5) && a != b
      ops := [(o.d, .unused), (o.a, .unused), (o.b, .unused)] }
  issue f h (fun cx s =>
    let due := pathDone cx.g s.nextOp a
    if due && h.f == 15 then s else startOp cx h.f.toNat (.fenceX a b) 0 [] [] due s) s

/-! ### Synchronisation objects -/

/-- An object's address: bits [2:0] cleared (R432). -/
def objAddr (x : W64) : Nat := x.toNat % 2 ^ 57 / 8 * 8

def inRange (b : Binding) (va : Nat) : Bool := decide (b.base ≤ va) && decide (va < b.base + b.len)

/-- Whether an object's address translates to local HBM (R201, R433). -/
def objectLocal (s : State) (asid va : Nat) : Bool :=
  match (lookupLeaf s asid va).1 with
  | .ok l => targetOf (leafPa l va) == .hbm
  | .error _ => false

/-- The status of BIND: the first limit it breaks, in the order 1, 2, 3, 4 (R433). -/
def bindStatus (s : State) (asid base len obj : Nat) : Nat :=
  let bs := match ctxOf s asid with | some c => c.bindings | none => []
  if 64 ≤ bs.length then 1
  else if base % 128 ≠ 0 ∨ len % 128 ≠ 0 ∨ len = 0 then 2
  else if !objectLocal s asid obj || (bs.any fun b => inRange b obj) || (decide (base ≤ obj) && decide (obj < base + len)) then 3
  else if bs.any fun b => rangesMeet b.base b.len base len then 4
  else 0

/-- The lowest binding number not in use. -/
def freeBinding (bs : List Binding) : Nat := (firstBelow 64 fun n => !(bs.any fun b => b.num == n)).getD 0

/-- The status a BIND or UNBIND writes when its flag clears. -/
def statusOp (cx : Cx) (h : Hdr) (d : Opnd) (st : Nat) (s : State) : State :=
  let r := resultKeys d 1 0 st
  startOp cx h.f.toNat .access 0 (r.map fun e => e.1) r true s

/-- BIND (R201, R433). -/
def execBind (h : Hdr) (o : R4) (s : State) : Host.Outcome State Fault Refusal :=
  let f : Form :=
    { unit := 1, fcls := .res
      ops := [(o.d, .dst 1 false true), (o.a, .src 2 true), (o.b, .src 2 true), (o.c, .src 2 true)] }
  memIssue f h (fun cx s =>
    let base := (rdI64 cx s o.a (elected cx)).toNat % 2 ^ 57
    let len := (rdI64 cx s o.b (elected cx)).toNat
    let obj := objAddr (rdI64 cx s o.c (elected cx))
    let st := bindStatus s cx.w.asid base len obj
    let s1 := if st = 0 then
        modCtx (flushRange s cx.w.asid base len) cx.w.asid fun c =>
          { c with bindings := c.bindings ++ [⟨base, len, obj, freeBinding c.bindings⟩] }
      else s
    statusOp cx h o.d st (if st = 1 ∨ st = 2 then s1 else noteWalk cx.w.asid obj s1)) s

/-- The lines of a binding lose its number in every cluster (R204). -/
def unmarkLines (asid num : Nat) (s : State) : State :=
  (List.range 24).foldl (fun s cl => modCluster s cl fun c =>
    { c with l2 := c.l2.map fun e =>
        if keyAsid e.1 == asid && e.2.bind == some num then (e.1, { e.2 with bind := none }) else e }) s

/-- UNBIND (R204, R433). -/
def execUnbind (h : Hdr) (o : R4) (s : State) : Host.Outcome State Fault Refusal :=
  let f : Form :=
    { unit := 1, fcls := .res
      ops := [(o.d, .dst 1 false true), (o.a, .src 2 true), (o.b, .unused), (o.c, .src 2 true)] }
  memIssue f h (fun cx s =>
    let base := (rdI64 cx s o.a (elected cx)).toNat % 2 ^ 57
    let obj := objAddr (rdI64 cx s o.c (elected cx))
    match (boundTo s cx.w.asid obj).find? fun b => b.base == base with
    | none => statusOp cx h o.d 6 s
    | some b =>
      let s1 := unmarkLines cx.w.asid b.num (pullObject cx.w.asid obj s)
      statusOp cx h o.d 0 (modCtx s1 cx.w.asid fun c => { c with bindings := c.bindings.filter fun x => x != b })) s

/-- ACQ (R202, R434). -/
def execAcq (h : Hdr) (o : R4) (s : State) : Host.Outcome State Fault Refusal :=
  let f : Form :=
    { unit := 1, fcls := .res
      ops := [(o.d, .dst 2 true true), (o.a, .src 2 true), (o.b, .unused), (o.c, .unused)] }
  memIssue f h (fun cx s =>
    let obj := objAddr (rdI64 cx s o.a (elected cx))
    let ys := (lanesOf cx.run.lanes).map fun l => ⟨l, obj, [], 0⟩
    let dests := if isS o.d then (resultKeys o.d 2 0 0).map fun e => e.1
      else (lanesOf cx.run.lanes).flatMap fun l => (resultKeys o.d 2 l 0).map fun e => e.1
    startAccess cx h.f.toNat .acquire (.acqRead o.d) dests ys s) s

/-- REL (R202, R434). -/
def relObject (op : Nat) (h : Hdr) (o : R4) (s : State) : Host.Outcome State Fault Refusal :=
  let f : Form :=
    { unit := 1, fcls := .opt
      ops := [(o.d, .unused), (o.a, .src 2 true), (o.b, .src 2 true), (o.c, .unused)] }
  memIssue f h (fun cx s =>
    let obj := objAddr (rdI64 cx s o.a (elected cx))
    let val := (rdI64 cx s o.b (elected cx)).toNat
    let ys := (lanesOf cx.run.lanes).map fun l => ⟨l, obj, leBytes 8 val, 0⟩
    startAccess cx h.f.toNat .access (.relOp op) [] ys s) s

/-- REL.SET (R434). -/
def execRelSet (h : Hdr) (o : R4) (s : State) : Host.Outcome State Fault Refusal := relObject 0 h o s
/-- REL.ADD (R434). -/
def execRelAdd (h : Hdr) (o : R4) (s : State) : Host.Outcome State Fault Refusal := relObject 1 h o s
/-- REL.SUB (R434). -/
def execRelSub (h : Hdr) (o : R4) (s : State) : Host.Outcome State Fault Refusal := relObject 2 h o s

/-! ### Waiting on an address -/

/-- WAITA (R435, R436). -/
def execWaita (h : Hdr) (x : WaX) (o : RM) (s : State) : Host.Outcome State Fault Refusal :=
  let scope := field o.c.toNat 8 3
  let acq := o.c.getLsbD 7
  let w64 := o.c.getLsbD 6
  let w := if w64 then 2 else 1
  let f : Form :=
    { unit := 1, fcls := .res, modOk := decide (scope < 6) && decide (o.c.toNat % 64 = 0)
      ops := [(o.d, .dst w true false), (o.a, .src 2 false), (o.b, .src w false)] }
  memIssue f h (fun cx s =>
    let ys := (lanesOf cx.run.lanes).map fun l =>
      let cmp := if w64 then (rdI64 cx s o.b l).toNat else (rdI cx s o.b l).toNat
      ⟨l, (rdI64 cx s o.a l).toNat % 2 ^ 57, leBytes (4 * w) cmp, 0⟩
    let dests := (lanesOf cx.run.lanes).flatMap fun l => (resultKeys o.d w l 0).map fun e => e.1
    startAccess cx h.f.toNat (.waita acq) (.wait x scope acq w64 o.d) dests ys s) s

/-! ### Named barriers -/

def modBarrier (s : State) (wk n : Nat) (f : Barrier → Barrier) : State :=
  modWg s wk fun w => { w with barriers := modAt w.barriers n f }

/-- The arrival of an issue, and the completion of the phase (R233): every wait is ready, with the accesses before the
phase's arrivals that its flag's clearing still waits for (R439). -/
def arrive (cx : Cx) (n count : Nat) (s : State) : State :=
  let b := cx.w.barriers.getD n Barrier.reset
  let owes := cx.g.ops.any fun o => !o.ready && laneAccess cx.run.lanes o
  let debts := if owes then b.debts ++ [(cx.gk, s.nextOp, cx.run.lanes)] else b.debts
  if b.arrivals + 1 = count then
    let s1 := modBarrier s cx.wk n fun _ => Barrier.reset
    b.waiting.foldl (fun s e => modOp e.1 e.2 (fun o => { o with kind := .barrier n debts, ready := true }) s) s1
  else modBarrier s cx.wk n fun b => { b with expected := count, arrivals := b.arrivals + 1, debts := debts }

/-- The checks of R439 and the effect of an arriving form. -/
def barrierCount (cx : Cx) (n count : Nat) (eff : State → State) (s : State) : State :=
  let b := cx.w.barriers.getD n Barrier.reset
  if cx.w.nbar ≤ n then raiseExc cx 8 n s
  else if count = 0 ∨ 32 < count then raiseExc cx 11 0 s
  else if b.arrivals ≠ 0 ∧ b.expected ≠ count then raiseExc cx 11 0 s
  else eff s

def barForm (o : R4) (count : Role) (c : FCls) : Form :=
  { unit := 1, fcls := c, ops := [(o.d, .unused), (o.a, .src 1 true), (o.b, count), (o.c, .unused)] }

def barNum (cx : Cx) (s : State) (o : R4) : Nat := (rdI cx s o.a (elected cx)).toNat
def barCount (cx : Cx) (s : State) (o : R4) : Nat := (rdI cx s o.b (elected cx)).toNat

/-- BAR.ARV (R439). -/
def execBarArv (h : Hdr) (o : R4) (s : State) : Host.Outcome State Fault Refusal :=
  issue (barForm o (.src 1 true) .none) h (fun cx s =>
    let n := barNum cx s o
    barrierCount cx n (barCount cx s o) (arrive cx n (barCount cx s o)) s) s

/-- The group waits on barrier n until its current phase completes (R234). -/
def waitOn (cx : Cx) (flag n : Nat) (s : State) : State :=
  let s1 := modBarrier s cx.wk n fun b => { b with waiting := b.waiting ++ [(cx.gk, s.nextOp)] }
  startOp cx flag (.barrier n []) cx.run.lanes [] [] false s1

/-- BAR.WAIT (R439). -/
def execBarWait (h : Hdr) (o : R4) (s : State) : Host.Outcome State Fault Refusal :=
  issue (barForm o .unused .res) h (fun cx s =>
    let n := barNum cx s o
    if cx.w.nbar ≤ n then raiseExc cx 8 n s else waitOn cx h.f.toNat n s) s

/-- BAR.SYNC (R439): it waits for the phase its arrival joined. -/
def syncOn (cx : Cx) (flag n count : Nat) (s : State) : State :=
  let s1 := waitOn cx flag n s
  arrive { cx with w := (sfind s1.wgs cx.wk).getD cx.w } n count s1

def execBarSync (h : Hdr) (o : R4) (s : State) : Host.Outcome State Fault Refusal :=
  issue (barForm o (.src 1 true) .res) h (fun cx s =>
    let n := barNum cx s o
    barrierCount cx n (barCount cx s o) (syncOn cx h.f.toNat n (barCount cx s o)) s) s

/-- Whether the accesses before a phase's arrivals have been performed (R439). -/
def debtsPaid (s : State) (debts : List (Nat × Nat × Mask)) : Bool :=
  debts.all fun d => match sfind s.groups d.1 with
    | none => true
    | some g => g.ops.all fun o => decide (d.2.1 ≤ o.id) || o.ready || !laneAccess d.2.2 o

end Sys2Proof.Machine
end

