-- ==== Sys2Proof/Machine/MatrixUnit.lean ====
section
/-! DEFINITION. The matrix engine: parameter blocks and records (R246, R254, R255), operands and the slices that members
read (R245 to R249), the arithmetic and its order (R243, R250, R251). -/

namespace Sys2Proof.Machine

def mxOf (s : State) (core : Nat) : MxSt := sget MxSt.reset s.mx core

/-! ### Parameter blocks (R254, R255) -/

/-- A descriptor of two words (R255). -/
structure MDesc where
  rot : Nat
  base : Nat
  tp : Nat
  rp : Nat
  resv : Bool
  deriving DecidableEq, Repr

def mdesc (x y : Nat) : MDesc :=
  ⟨field x 19 3, field x 0 19, field y 16 16, field y 0 16, field x 22 10 != 0 || field x 0 4 != 0 || decide (3 < field x 19 3)⟩

/-- A parameter block (R254). -/
structure MBlock where
  asrc : Nat
  bsrc : Nat
  bedge : Bool
  bond : Bool
  acc : Bool
  ares : Nat
  bres : Nat
  areg : Nat
  k : Nat
  m : Nat
  dpitch : Nat
  dst : Nat
  nv : Nat
  a : MDesc
  b : MDesc
  resv : Bool
  deriving DecidableEq, Repr

def mblock (ws : List Nat) : MBlock :=
  let w (i : Nat) := ws.getD i 0
  { asrc := field (w 0) 30 2, bsrc := field (w 0) 28 2, bedge := (w 0).testBit 27, bond := (w 0).testBit 26
    acc := (w 0).testBit 25, ares := field (w 0) 20 4, bres := field (w 0) 16 4, areg := field (w 0) 8 8
    k := field (w 1) 14 15, m := field (w 1) 0 14, dpitch := field (w 2) 18 10, dst := field (w 2) 0 18
    nv := field (w 3) 0 7, a := mdesc (w 4) (w 5), b := mdesc (w 6) (w 7)
    resv := (w 0).testBit 24 || field (w 0) 0 8 != 0 || field (w 1) 29 3 != 0 || field (w 2) 28 4 != 0
      || field (w 2) 0 5 != 0 || field (w 3) 7 25 != 0 }

/-- The fields of a reservation record (R246). -/
def recBase (r : List Byte) : Nat := bytesAt r 0 4
def recLen (r : List Byte) : Nat := bytesAt r 4 4
def recFmt (r : List Byte) : Nat := bytesAt r 8 1
def recBlk (r : List Byte) : Nat := bytesAt r 9 1
def recValid (r : List Byte) : Bool := (bytesAt r 10 1).testBit 0
def recSoff (r : List Byte) : Nat := bytesAt r 12 4
def recPitch (r : List Byte) : Nat := bytesAt r 16 4

def fmtTy (f : Nat) : Ty := (tyOf f).getD (.fl .f32)

/-- The pairing class of a format, which both operands share (R244), and the depth of a PE (R243). -/
def fmtClass (f : Nat) : Nat :=
  match f with
  | 0 => 0 | 1 => 1 | 2 => 2 | 3 => 3 | 4 => 3 | 5 => 4 | 6 => 4 | 7 => 4 | 8 => 4 | 9 => 5
  | 10 => 6 | 11 => 6 | 12 => 7 | 13 => 7 | _ => 8
def fmtDepth (f : Nat) : Nat :=
  match fmtClass f with
  | 0 => 2 | 1 => 8 | 2 => 32 | 3 => 64 | 4 => 128 | 5 => 256 | 6 => 128 | _ => 256

/-- Bits of an element in memory, bytes of an accumulator (R245, R251). -/
def fmtBits (f : Nat) : Nat := tyBits (fmtTy f)
def accSize (f : Nat) : Nat := if f = 0 then 8 else 4

/-- Whether a format takes block scales (R246). -/
def fmtScaled (f : Nat) : Bool := decide (5 ≤ f) && decide (f ≤ 9)

/-- The edge of a scale tile. -/
def tileOf (blk : Nat) : Nat := if blk = 1 then 16 else 32

/-- The depth of a PE row: s = ⌈K / Q⌉ (R247). -/
def peDepth (k rows : Nat) : Nat := (k + 8 * rows - 1) / (8 * rows)

/-- The offset of the first byte of row n of an operand (R255). -/
def rowOffset (d : MDesc) (n : Nat) : Nat :=
  d.base + n / 8 * (16 * d.tp) + n % 8 * (16 * d.rp) + 32768 * (n % 8 % 2 ^ d.rot)

/-- The offset of the scale word of element (n, k) (R246). -/
def scaleOffset (r : List Byte) (n k : Nat) : Nat :=
  recSoff r + n / tileOf (recBlk r) * recPitch r + 4 * (k / tileOf (recBlk r))

/-! ### Range checks (R256) -/

/-- The lowest of the offsets of accesses that lie outside [lo, hi). -/
def outside (lo hi : Nat) (ys : List (Nat × Nat)) : Option Nat :=
  (ys.filterMap fun y =>
    if y.2 = 0 then none else if y.1 < lo then some y.1 else if hi < y.1 + y.2 then some (max y.1 hi) else none).min?

/-- The bytes of rows `ns` with depths [lo, hi), as accesses. -/
def rowSpans (d : MDesc) (f : Nat) (ns : List Nat) (lo hi : Nat) : List (Nat × Nat) :=
  if hi ≤ lo then [] else
  let b0 := lo * fmtBits f / 8
  let b1 := (hi * fmtBits f + 7) / 8
  ns.map fun n => (rowOffset d n + b0, b1 - b0)

/-- The scale words of rows `ns` with depths [lo, hi). -/
def scaleSpans (r : List Byte) (ns : List Nat) (lo hi : Nat) : List (Nat × Nat) :=
  if recBlk r = 0 ∨ hi ≤ lo then [] else
  let t := tileOf (recBlk r)
  (ns.map fun n => n / t).eraseDups.flatMap fun i =>
    (List.range ((hi - 1) / t - lo / t + 1)).map fun j => (recSoff r + i * recPitch r + 4 * (lo / t + j), 4)

/-- The first byte of an operand or of its scales outside its space or record (R256); `src` 0 is the operand buffer. -/
def operandOutside (w : Wg) (r : List Byte) (d : MDesc) (src : Nat) (ns : List Nat) (lo hi : Nat) : Option Nat :=
  let rows := rowSpans d (recFmt r) ns lo hi
  let top := min (recBase r + recLen r) w.obLen
  let bytes :=
    if src = 2 then none
    else if src = 1 then outside 0 w.scratchLen rows
    else outside (recBase r) top (rows.map fun y => (recBase r + y.1, y.2))
  match bytes, outside (recBase r) top (scaleSpans r ns lo hi) with
  | some a, some b => some (min a b)
  | some a, none => some a
  | none, b => b

/-! ### Values -/

/-- A member of an operation: its core, its workgroup, its queue entry, the configuration of its tile. -/
structure Member where
  core : Nat
  w : Wg
  ent : MxEnt
  cfg : BondCfg
  deriving DecidableEq, Repr

/-- What an MMA entry holds: its block, its records, its register-sourced A. -/
def mmaOf (e : MxEnt) : MBlock × List Byte × List Byte × List Byte :=
  match e.cmd.cmd with
  | .mma block ar br ag _ => (mblock block, ar, br, ag)
  | _ => (mblock [], [], [], [])

def Member.block (x : Member) : MBlock := (mmaOf x.ent).1
def Member.recA (x : Member) : List Byte := (mmaOf x.ent).2.1
def Member.recB (x : Member) : List Byte := (mmaOf x.ent).2.2.1
def Member.fmt (x : Member) : Nat := recFmt x.recA

/-- The depth of a PE row, and the depths of the PE rows of bond row i (R247, R249). -/
def Member.depth (x : Member) : Nat := peDepth x.block.k x.cfg.rows
def Member.lo (x : Member) (i : Nat) : Nat := min (8 * i * x.depth) x.block.k
def Member.hi (x : Member) (i : Nat) : Nat := min (8 * i * x.depth + 8 * x.depth) x.block.k

/-- The output columns of a member: those below NV (R248, R249). -/
def Member.cols (x : Member) : List Nat :=
  (List.range 8).filterMap fun j => if 8 * x.cfg.bj + j < x.block.nv then some (8 * x.cfg.bj + j) else none

/-- The place on the core of byte `b` of a source: the space, and the address in it. -/
def sourceAt (m : Member) (r : List Byte) (src off : Nat) : Space × Nat :=
  if src = 1 then (.sp, m.w.scratchOff + off) else (.ob, m.w.obOff + recBase r + off)

/-- The scale word of element (n, k). -/
def scaleWord (s : State) (m : Member) (r : List Byte) (n k : Nat) : Nat :=
  ofLeBytes (localBytes s m.core .ob (m.w.obOff + scaleOffset r n k) 4)

/-- The bytes of `n` elements of a format. -/
def spanBytes (f n : Nat) : Nat := (n * fmtBits f + 7) / 8

/-- The elements of row n of an operand with depths [lo, hi) (R245, R255). -/
def readStrip (s : State) (m : Member) (r : List Byte) (d : MDesc) (src : Nat) (reg : List Byte) (n lo hi : Nat) : Strip :=
  let b0 := lo * fmtBits (recFmt r) / 8
  let size := spanBytes (recFmt r) (hi - lo)
  let a := sourceAt m r src (rowOffset d n + b0)
  { bytes := if src = 2 then (reg.drop (128 * n + b0)).take size else localBytes s m.core a.1 a.2 size
    scales := if recBlk r = 0 then [] else (List.range (hi - lo)).map fun t => scaleWord s m r n (lo + t) }

/-- The value of element t of a strip, with its scale (R250, R305). -/
def stripVal (feature6 : Bool) (f : Nat) (p : Strip) (t : Nat) : Fp :=
  let bits := fmtBits f
  let raw := bytesAt p.bytes (t * bits / 8) ((bits + 7) / 8)
  let code := if bits = 4 then field raw (4 * (t % 2)) 4 else raw
  match fmtTy f with
  | .fl g => match p.scales[t]? with
    | some x => decodeBlock g feature6 (BitVec.ofNat 32 x) code
    | none => decodeTy (.fl g) code
  | ty => decodeTy ty code

/-- Row m of a member's own A (R249). -/
def rowOfA (s : State) (x : Member) (m : Nat) : Strip :=
  readStrip s x x.recA x.block.a x.block.asrc (mmaOf x.ent).2.2.2 m (x.lo x.cfg.bi) (x.hi x.cfg.bi)

def joinStrips (ps : List Strip) : Strip := ⟨ps.flatMap fun p => p.bytes, ps.flatMap fun p => p.scales⟩

/-- The slice of B that the engine of bond row i holds, column by column, from a member's source (R248, R249). -/
def sliceOfB (s : State) (x : Member) (i : Nat) : Strip :=
  joinStrips (x.cols.map fun n => readStrip s x x.recB x.block.b x.block.bsrc [] n (x.lo i) (x.hi i))

/-- Column number `c` of a slice whose columns hold `n` elements of a format each. -/
def columnOf (f n c : Nat) (p : Strip) : Strip :=
  let size := spanBytes f n
  ⟨(p.bytes.drop (c * size)).take size, (p.scales.drop (c * n)).take n⟩

/-! ### The order of a sum (R250) -/

/-- The exact sum of a list of values. -/
def exactSum : List Fp → Fp
  | [] => .fin false 0 0
  | x :: xs => xs.foldl (fpAdd false) x

/-- The rounding of the array: FP32, FP64 or saturation to INT32, by the operand format. -/
def arrayRound (f : Nat) (x : Fp) : Fp :=
  if 10 ≤ f then
    match x with
    | .fin n m e => let v := clampInt (-(2 ^ 31)) (2 ^ 31 - 1) (scaledTo 0 n m e); .fin (v < 0) v.natAbs 0
    | x => x
  else if f = 0 then decodeF .f64 (roundArith .f64 .rn true 0 x)
  else decodeF .f32 (roundArith .f32 .rn true 0 x)

/-- The code of an accumulator. -/
def accCode (f : Nat) (x : Fp) : Nat :=
  if 10 ≤ f then
    match x with
    | .fin n m e => wrapInt 32 (scaledTo 0 n m e)
    | _ => 0
  else if f = 0 then roundArith .f64 .rn true 0 x
  else roundArith .f32 .rn true 0 x

def accVal (f : Nat) (code : Nat) : Fp :=
  if 10 ≤ f then decodeTy (.int 32) code else if f = 0 then decodeF .f64 code else decodeF .f32 code

/-- A PE row's exact sum joins the sum from the north; the first row has none (R250). -/
def addPeRow (f : Nat) (p : Option Fp) (e : Fp) : Option Fp :=
  match p with
  | none => some (arrayRound f e)
  | some p => some (arrayRound f (fpAdd false (arrayRound f e) p))

/-- The sum of a column as it leaves the eight PE rows of a member: `n` depths from the member's first on, `d` to a PE row;
one without depths passes the incoming sum on (R247, R250). -/
def columnSum (feature6 : Bool) (fa fb d n : Nat) (a b : Strip) (p : Option Fp) : Option Fp :=
  ((List.range 8).filter fun i => decide (i * d < n)).foldl (fun p i =>
    addPeRow fa p (exactSum ((List.range (min d (n - i * d))).map fun t =>
      fpMul (stripVal feature6 fa a (i * d + t)) (stripVal feature6 fb b (i * d + t))))) p

/-- The codes of the sums of a member's columns for a row of A, the slice of B and the codes from the north. -/
def memberSums (s : State) (x : Member) (a b : Strip) (north : Option (List Nat)) : List Nat :=
  let f := x.fmt
  let n := x.hi x.cfg.bi - x.lo x.cfg.bi
  (List.range x.cols.length).map fun c =>
    let p := north.map fun l => accVal f (l.getD c 0)
    accCode f ((columnSum (featureOn s 6) f (recFmt x.recB) x.depth n a (columnOf (recFmt x.recB) n c b) p).getD
      (.fin false 0 0))

/-- The place of accumulator C(m, j') of a landing member (R251). -/
def accAddr (w : Wg) (b : MBlock) (f m j : Nat) : Nat := w.msOff + b.dst + m * (32 * b.dpitch) + j * accSize f

/-- Row m lands: the sums of the member's columns, added to the accumulators with ACC (R250, R251). -/
def landRow (x : Member) (m : Nat) (codes : List Nat) (s : State) : State :=
  let f := x.fmt
  (codes.mapIdx fun j c => (j, c)).foldl (fun s e =>
    let a := accAddr x.w x.block f m e.1
    let old := accVal f (ofLeBytes (localBytes s x.core .ms a (accSize f)))
    let v := if x.block.acc then accCode f (arrayRound f (fpAdd false old (accVal f e.2))) else e.2
    localWrite x.core .ms ((leBytes (accSize f) v).mapIdx fun i y => (a + i, y)) s) s

/-! ### Poison (R132) -/

/-- Whether the rows `ns` of an operand with depths [lo, hi), or their scale words, touch a poisoned sector. -/
def operandPoisoned (s : State) (x : Member) (r : List Byte) (d : MDesc) (src : Nat) (ns : List Nat) (lo hi : Nat) : Bool :=
  let c := coreSt s x.core
  if c.spPoison.isEmpty && c.obPoison.isEmpty then false
  else
    (src != 2 && (rowSpans d (recFmt r) ns lo hi).any fun y =>
        let a := sourceAt x r src y.1
        localPoisoned s x.core a.1 a.2 y.2)
      || (scaleSpans r ns lo hi).any fun y => localPoisoned s x.core .ob (x.w.obOff + y.1) y.2

end Sys2Proof.Machine
end

