-- ==== Sys2Proof/Machine/Bonding.lean ====
section
/-! DEFINITION. Bonds and the running of matrix operations: leases and bond commands (R259, R263 to R265, R448, R449),
operand-link tokens (R259, R261, R262), stationary loads and steps (R248, R249, R257, R267, R268). -/

namespace Sys2Proof.Machine

/-! ### Bonds -/

/-- The configuration an engine issues under (R263). -/
def mxCfg (x : MxSt) : BondCfg := if x.iv = 0 then x.cfg0 else x.cfg1

/-- The bond commands a member's engine has accepted. -/
def bondCmds (l : Lease) (core : Nat) : List (Nat × Nat × Nat) := sget [] l.cmds core

/-- The number of bond commands an engine has accepted in its lease: what a command accepted now waits for. -/
def bondEpoch (s : State) (core : Nat) : Nat :=
  match leaseOf s core with
  | some l => (bondCmds l core).length
  | none => 0

def setLease (l : Lease) (s : State) : State :=
  { s with leases := s.leases.map fun x => if x.record == l.record && x.ticket == l.ticket then l else x }

/-- Whether a member of a lease has retired, and so counts as having issued every bond command. -/
def memberRetired (l : Lease) (core : Nat) : Bool := l.retired.contains core

/-- Whether two members' k-th bond commands differ (R448). -/
def bondMismatch (l : Lease) (k : Nat) : Bool :=
  let cs := (l.members.filterMap fun m => (bondCmds l m.1)[k]?).eraseDups
  decide (1 < cs.length)

/-- The k-th command every member has accepted, if they all have. -/
def bondReady (l : Lease) (k : Nat) : Option (Nat × Nat × Nat) :=
  if l.members.all fun m => memberRetired l m.1 || decide (k < (bondCmds l m.1).length) then
    (l.members.filterMap fun m => (bondCmds l m.1)[k]?).head?
  else none

/-- An operation of an epoch below `e` is in an engine's queue, or a token under the version that such a one has is on its
links (R264). -/
def olderLeft (s : State) (core e : Nat) : Bool :=
  let x := mxOf s core
  let old (t : Token) : Bool := t.header / 8 % 2 != x.iv % 2
  (x.queue.any fun y => decide (y.ver < e)) || x.rx.any old || x.tx.any fun y => old y.2

/-- Complete a bond command of an engine: its entry leaves the queue and its operation is ready. -/
def finishBond (core : Nat) (s : State) : State :=
  match takeOut (fun x => match x.cmd.cmd with | .bondAcq _ _ => true | .bondRel => true | _ => false) (mxOf s core).queue with
  | none => s
  | some (e, rest) =>
    modOp e.cmd.group e.cmd.op (fun o => { o with ready := true }) (modMx s core fun x => { x with queue := rest })

/-- The new configuration of a member when the rectangle re-bonds as tiles of r' × c', written into the inactive version; its
issue version flips (R264). -/
def flipMember (r c : Nat) (s : State) (m : Nat × Nat × Nat) : State :=
  let cfg := tileCfg r c m.2.1 m.2.2
  finishBond m.1 (modMx s m.1 fun x =>
    if x.iv = 0 then { x with cfg1 := cfg, iv := 1 } else { x with cfg0 := cfg, iv := 0 })

/-- Whether an engine still works for a lease: a command accepted before the release, or a token. -/
def leaseWork (s : State) (flips core : Nat) : Bool :=
  let x := mxOf s core
  (x.queue.any fun y => decide (y.ver ≤ flips) && y.cmd.cmd != .bondRel) || !x.rx.isEmpty || !x.tx.isEmpty

/-- The next bond event of a lease takes effect if it can (R264, R448, R449): a re-bond flips every member, and a release
ends the lease once every operation issued before it has finished and every token has landed. -/
def bondTry (l : Lease) (s : State) : State :=
  match bondReady l l.flips with
  | none => s
  | some (0, lr, lc) =>
    if l.members.any fun m => olderLeft s m.1 l.flips then s
    else
      let s1 := l.members.foldl (flipMember (2 ^ lr) (2 ^ lc)) s
      setLease { l with trows := 2 ^ lr, tcols := 2 ^ lc, flips := l.flips + 1 } s1
  | some _ =>
    if l.members.any fun m => leaseWork s l.flips m.1 then s
    else endLease l (l.members.foldl (fun s m => finishBond m.1 s) s)

/-- Every event of a lease that can take effect does: at most two commands of a member can be waiting. -/
def bondSettle (core : Nat) (s : State) : State :=
  iter 16 (fun _ s => match leaseOf s core with | some l => bondTry l s | none => s) s

/-- An engine accepts a bond command (R448): the k-th of every member is compared, and a mismatch kills the context. -/
def acceptBond (core : Nat) (c : Cmd) (kind lr lc : Nat) (s : State) : State :=
  match leaseOf s core with
  | none => s
  | some l =>
    let k := (bondCmds l core).length
    let l1 := { l with
      cmds := sset l.cmds core (bondCmds l core ++ [(kind, lr, lc)])
      released := if kind = 1 then core :: l.released else l.released }
    let s1 := setLease l1 (modMx s core fun x =>
      { x with queue := x.queue ++ [⟨c, k, x.ops % 16, 0, 0, 0⟩], past := sset x.past k x.bondOps, bondOps := 0 })
    if bondMismatch l1 k then
      killContext c.asid 10 core 0 0
        (l1.members.foldl (fun s m => modMx s m.1 fun x => { x with stopped := true }) s1)
    else bondSettle core s1

/-- Whether the matrix queue can take a command (R108). -/
def mxRoom (s : State) (core : Nat) : Bool := decide ((mxOf s core).queue.length < 16)

/-- The matrix engine accepts a command. -/
def acceptMx (core : Nat) (c : Cmd) (s : State) : State :=
  match c.cmd with
  | .bondAcq lr lc => acceptBond core c 0 lr lc s
  | .bondRel => acceptBond core c 1 0 0 s
  | .mma block _ _ _ _ =>
    let bonded := (mblock block).bond
    modMx s core fun x =>
      { x with
        queue := x.queue ++ [⟨c, bondEpoch s core, x.ops % 16, if bonded then x.bondOps else 0, 0, 0⟩]
        ops := x.ops + 1
        bondOps := if bonded then x.bondOps + 1 else x.bondOps }
  | _ => modMx s core fun x => { x with queue := x.queue ++ [⟨c, bondEpoch s core, 0, 0, 0, 0⟩] }

/-! ### Members (R249, R263, R265) -/

/-- Whether the bond commands before a command have taken effect. -/
def epochDone (s : State) (core : Nat) (e : MxEnt) : Bool :=
  match leaseOf s core with
  | some l => decide (e.ver ≤ l.flips)
  | none => true

/-- Whether an operation was issued under the version before the one in force; an operation keeps its version (R263). -/
def priorOp (s : State) (core : Nat) (e : MxEnt) : Bool :=
  match leaseOf s core with
  | some l => decide (e.ver < l.flips)
  | none => false

/-- The configuration version of an operation, which its tokens carry in V. -/
def versionOf (s : State) (core : Nat) (e : MxEnt) : Nat :=
  let iv := (mxOf s core).iv % 2
  if priorOp s core e then 1 - iv else iv

/-- The configuration that an operation runs under: a single engine's where it is not bonded. -/
def cfgOf (s : State) (core : Nat) (e : MxEnt) : BondCfg :=
  if !(mmaOf e).1.bond then .single
  else if versionOf s core e = 0 then (mxOf s core).cfg0 else (mxOf s core).cfg1

/-- An entry of an engine's queue as a member of an operation, once it may start. -/
def memberOf (s : State) (core : Nat) (e : MxEnt) : Option Member :=
  if (mxOf s core).stopped || !epochDone s core e then none
  else (sfind s.wgs e.cmd.wg).map fun w => ⟨core, w, e, cfgOf s core e⟩

/-- An engine's head command. -/
def headMember (s : State) (core : Nat) : Option Member := (mxOf s core).queue.head?.bind (memberOf s core)

/-- The place of a core in a lease, and the core at a place. -/
def placeIn (l : Lease) (core : Nat) : Option (Nat × Nat) := (l.members.find? fun m => m.1 == core).map fun m => m.2
def coreAtPlace (l : Lease) (i j : Nat) : Option Nat :=
  (l.members.find? fun m => m.2.1 == i && m.2.2 == j).map fun m => m.1

/-- The cores of a tile of a lease. -/
def tileCores (l : Lease) (c : BondCfg) : List Nat :=
  (l.members.filter fun m => decide (c.top ≤ m.2.1) && decide (m.2.1 < c.top + c.rows) && decide (c.left ≤ m.2.2)
    && decide (m.2.2 < c.left + c.cols)).map fun m => m.1

/-- The bonded MMAs that an engine has accepted in an epoch. -/
def issuedIn (s : State) (core ver : Nat) : Nat :=
  if ver = bondEpoch s core then (mxOf s core).bondOps else sget 0 (mxOf s core).past ver

/-- Whether every member of the tile has issued its part of the operation (R265). -/
def partsIssued (s : State) (x : Member) : Bool :=
  if !x.block.bond then true
  else match leaseOf s x.core with
    | none => false
    | some l => (tileCores l x.cfg).all fun c => decide (x.ent.place < issuedIn s c x.ent.ver)

/-- What the first token of an operation carries (R265): M, K, NV, ACC, BEDGE and the format codes. -/
def opShape (x : Member) : List Nat :=
  let b := x.block
  [b.m, b.k, b.nv, if b.acc then 1 else 0, if b.bedge then 1 else 0, x.fmt, recFmt x.recB]

/-! ### Links and tokens (R259, R261, R262) -/

/-- Whether two cores are joined by an operand link: neighbours of a cluster's grid, or of a column of mirror clusters at the
seam. -/
def gridLinked (a b : Nat) : Bool :=
  let ca := a / 16
  let cb := b / 16
  let (y, x) := (a % 16 / 4, a % 4)
  let (v, u) := (b % 16 / 4, b % 4)
  (ca == cb && ((y == v && (x + 1 == u || u + 1 == x)) || (x == u && (y + 1 == v || v + 1 == y))))
    || ((ca + 12 == cb || cb + 12 == ca) && decide (min ca cb < 4) && y == 0 && v == 0 && x == u)

/-- The core at the other end of a member's link: 0 north, 1 west, 2 south, 3 east, by the places of the lease. -/
def linkEnd (s : State) (core link : Nat) : Option Nat :=
  (leaseOf s core).bind fun l => (placeIn l core).bind fun p =>
    (match link with
      | 0 => if p.1 = 0 then none else coreAtPlace l (p.1 - 1) p.2
      | 1 => if p.2 = 0 then none else coreAtPlace l p.1 (p.2 - 1)
      | 2 => coreAtPlace l (p.1 + 1) p.2
      | _ => coreAtPlace l p.1 (p.2 + 1)).bind fun c => if gridLinked core c then some c else none

/-- The virtual channel of a tag. -/
def tagVc : Nat → Nat
  | 0 => 0 | 1 => 1 | 4 => 0 | _ => 2

/-- The parity of a token, over its payload and the header's low byte (DEDUCED, log 43). -/
def tokenPar (low : Nat) (payload : List Byte) : Nat := xorAll (low :: payload.map BitVec.toNat)

def tokenTag (t : Token) : Nat := t.header % 8
def tokenVer (t : Token) : Nat := t.header / 8 % 2
def tokenSound (t : Token) : Bool := t.header / 256 == tokenPar (t.header % 256) t.payload

/-- A token of an operation (R261). -/
def mkToken (opseq ver link tag dest : Nat) (payload : List Byte) (scales shape : List Nat) : Token :=
  let low := opseq % 16 * 16 + ver % 2 * 8 + tag
  ⟨link, tokenPar low payload * 256 + low, payload, scales, shape, dest⟩

/-- The payload bytes of a token between two cores (R261). -/
def linkWidth (a b : Nat) : Nat := if dieOf a = dieOf b then 64 else 32

/-- Bytes cut into payloads. -/
def chunks (n : Nat) : Nat → List Byte → List (List Byte)
  | 0, _ => []
  | fuel + 1, bs => if bs.isEmpty then [] else bs.take n :: chunks n fuel (bs.drop n)

/-- The tokens that a strip of a format fills, with the scale words of the elements in each. -/
def stripTokens (width f opseq ver link tag dest : Nat) (shape : List Nat) (p : Strip) : List Token :=
  let per := 8 * width / fmtBits f
  (chunks width p.bytes.length p.bytes).mapIdx fun k bs =>
    mkToken opseq ver link tag dest bs ((p.scales.drop (k * per)).take per) (if k = 0 then shape else [])

/-- Whether `n` more tokens fit a sender's replay window of 16 of a channel (R262). -/
def sendRoom (x : MxSt) (dest link vc n : Nat) : Bool :=
  decide ((x.tx.filter fun e => e.1 == dest && e.2.link == link && tagVc (tokenTag e.2) == vc).length + n ≤ 16)

def sendTokens (core dest : Nat) (ts : List Token) (s : State) : State :=
  modMx s core fun x => { x with tx := x.tx ++ ts.map fun t => (dest, t) }

/-- The tokens that a receiver holds of a link's virtual channel, in order. -/
def channel (x : MxSt) (link vc : Nat) : List Token := x.rx.filter fun t => t.link == link && tagVc (tokenTag t) == vc

/-- The first `n` tokens of a channel are taken. -/
def takeChannel : Nat → Nat → Nat → List Token → List Token
  | _, _, 0, ts => ts
  | _, _, _, [] => []
  | link, vc, n + 1, t :: ts =>
    if t.link = link ∧ tagVc (tokenTag t) = vc then takeChannel link vc n ts else t :: takeChannel link vc (n + 1) ts

def dropChannel (core link vc n : Nat) (s : State) : State := modMx s core fun x => { x with rx := takeChannel link vc n x.rx }

/-- The first `n` tokens of a channel, if they are there and are of a version. -/
def inputs (x : MxSt) (link vc n ver : Nat) : Option (List Token) :=
  let ts := (channel x link vc).take n
  if ts.length = n ∧ ts.all fun t => tokenVer t == ver then some ts else none

/-- Whether the first token of an operation names another shape than the member's own (R265). -/
def wrongShape (x : Member) (ts : List Token) : Bool := ts.any fun t => !t.shape.isEmpty && t.shape != opShape x

/-- A member meets a neighbour's other shape: its engine stops, and the context is killed (R265). -/
def shapeKill (x : Member) (s : State) : State :=
  killContext x.ent.cmd.asid 10 x.core 0 0 (modMx s x.core fun y => { y with stopped := true })

/-- Poison that a member reads is consumed, by its gang where the operation is bonded (R132). -/
def eatPoison (x : Member) (s : State) : State :=
  if x.block.bond then consumeGang 0 x.core s else consume x.ent.cmd.wg 0 0 s

/-! ### Stationary loads (R248, R249) -/

/-- The MMAs of an engine's queue, in order. -/
def mmasOf (q : List MxEnt) : List MxEnt := q.filter fun e => match e.cmd.cmd with | .mma _ _ _ _ _ => true | _ => false

/-- Whether the slot of an operation is free for its load: the operations before it that use the same slot have finished
their steps (R248). -/
def slotFree (q : List MxEnt) (e : MxEnt) : Bool :=
  !((mmasOf q).takeWhile fun y => y != e).any fun y => y.opseq % 2 == e.opseq % 2

/-- The slot of an operation: successive ones alternate. -/
def slotFor (x : MxSt) (e : MxEnt) : Option Slot :=
  match sfind x.slots (e.opseq % 2) with
  | some y => if y.op = e.opseq then some y else none
  | none => none

def slotFull (x : MxSt) (e : MxEnt) : Bool := match slotFor x e with | some y => y.full | none => false

def putSlot (core : Nat) (y : Slot) (s : State) : State :=
  modMx s core fun x => { x with slots := sset x.slots (y.op % 2) y }

def setEnt (core : Nat) (e e1 : MxEnt) (s : State) : State :=
  modMx s core fun x => { x with queue := x.queue.map fun y => if y = e then e1 else y }

/-- The tokens of the deeper members' slices, the deepest member's first (BEDGE = 1). One for the neighbour carries TAG 0,
one for a member beyond it TAG 4; what crosses the seam on its way has the seam's width throughout (DEDUCED, log 43). -/
def sliceTokens (s : State) (x : Member) (ver : Nat) : List Token :=
  ((List.range x.cfg.rows).reverse.filter fun i => decide (0 < i)).flatMap fun i =>
    let width := if x.cfg.rows = 8 ∧ 4 ≤ i then 32 else 64
    stripTokens width (recFmt x.recB) x.ent.opseq ver 0 (if i = 1 then 0 else 4) i (opShape x) (sliceOfB s x i)

/-- The head of a bond column sends as many tokens of slices as its window takes. -/
def sendSlices (x : Member) (south : Nat) (s : State) : State :=
  let left := (sliceTokens s x (versionOf s x.core x.ent)).drop x.ent.sent
  let used := ((mxOf s x.core).tx.filter fun e => e.1 == south && e.2.link == 0 && tagVc (tokenTag e.2) == 0).length
  let now := left.take (16 - used)
  setEnt x.core x.ent { x.ent with sent := x.ent.sent + now.length } (sendTokens x.core south now s)

/-- Whether a member reads B itself (R249). -/
def Member.readsB (x : Member) : Bool := !x.block.bedge || x.cfg.bi == 0

/-- A member's stationary load from its own source goes on: the deeper members' slices first, its own last. -/
def loadOwn (x : Member) (s : State) : State :=
  let lo := if x.block.bedge then 0 else x.lo x.cfg.bi
  let hi := if x.block.bedge then x.block.k else x.hi x.cfg.bi
  if operandPoisoned s x x.recB x.block.b x.block.bsrc x.cols lo hi then eatPoison x s
  else
    let more := x.block.bedge && decide (x.ent.sent < (sliceTokens s x 0).length)
    match if more then linkEnd s x.core 2 else none with
    | some south => sendSlices x south s
    | none => putSlot x.core ⟨x.ent.opseq, true, sliceOfB s x x.cfg.bi⟩ s

/-- The operations whose slices an engine may hold or load: the first two of its queue (R248). -/
def firstOps (q : List MxEnt) : List MxEnt := ((mmasOf q).take 2).filter (slotFree q)

/-- A member that holds the first token of an operation with another shape than its own (R265): the first token of A, or of
the sums, against the operation at the engine's head before its first row; that of a stationary slice against every bonded
operation that the engine has accepted, since a slice is sent only once each member has accepted its part (log 43). -/
def otherShape (s : State) (core : Nat) : Option Member :=
  let y := mxOf s core
  let ops := ((mmasOf y.queue).filterMap (memberOf s core)).filter fun x => x.block.bond
  let mine (x : Member) (t : Token) : Bool := versionOf s core x.ent == tokenVer t
  let row := (ops.take 1).find? fun x => y.queue.head? == some x.ent && x.ent.row == 0
    && wrongShape x (((channel y 1 1).take 1 ++ (channel y 0 2).take 1).filter (mine x))
  let slice := ((channel y 0 0).take 1).findSome? fun t =>
    let xs := ops.filter fun x => mine x t
    if xs.all fun x => wrongShape x [t] then xs.head? else none
  row <|> slice

/-- Another shape is met as soon as the token that carries it is held. -/
def shapeStep (core : Nat) (s : State) : State :=
  match otherShape s core with
  | some x => shapeKill x s
  | none => s

/-- Whether a member starts rows, or slices, of its own accord: it has no neighbour to wait for. -/
def Member.injects (x : Member) : Bool := x.cfg.north == .idle && x.cfg.west == .idle

/-- Whether a member's stop keeps it from going on: what other members have sent still lands (R116, R267). -/
def Member.held (x : Member) : Bool := x.w.stopping && x.injects

/-- The bytes of a member's own slice of B. -/
def sliceBytes (x : Member) : Nat := x.cols.length * spanBytes (recFmt x.recB) (x.hi x.cfg.bi - x.lo x.cfg.bi)

/-- The loads of an engine go on: a slice without elements needs none. -/
def loadStep (core : Nat) (s : State) : State :=
  (firstOps (mxOf s core).queue).foldl (fun s e =>
    match memberOf s core e with
    | none => s
    | some x =>
      if slotFull (mxOf s core) e || x.held || !partsIssued s x then s
      else if x.readsB then loadOwn x s
      else if sliceBytes x = 0 then putSlot core ⟨x.ent.opseq, true, ⟨[], []⟩⟩ s
      else s) s

/-- The token at the head of the channel of stationary slices is handled (R261): TAG 0 enters the slot of the operation that
waits for it, TAG 4 goes on south unchanged. -/
def sliceStep (core : Nat) (s : State) : State :=
  let y := mxOf s core
  match channel y 0 0 with
  | [] => s
  | t :: _ =>
    let waits := (firstOps y.queue).filterMap fun e =>
      if slotFull y e then none
      else (memberOf s core e).bind fun x => if !x.readsB && versionOf s core e == tokenVer t then some x else none
    match waits with
    | [] => s
    | x :: _ =>
      if wrongShape x [t] then shapeKill x s
      else if tokenTag t = 4 then
        match linkEnd s core 2 with
        | none => s
        | some south =>
          if sendRoom y south 0 0 1 then
            let tag := if t.dest = x.cfg.bi + 1 then 0 else 4
            sendTokens core south [mkToken (t.header / 16 % 16) (tokenVer t) 0 tag t.dest t.payload t.scales t.shape]
              (dropChannel core 0 0 1 s)
          else s
      else
        let old := (slotFor y x.ent).getD ⟨x.ent.opseq, false, ⟨[], []⟩⟩
        let strip := joinStrips [old.strip, ⟨t.payload, t.scales⟩]
        putSlot core ⟨x.ent.opseq, decide (sliceBytes x ≤ strip.bytes.length), strip⟩ (dropChannel core 0 0 1 s)

/-! ### Steps (R250, R257, R262, R268) -/

/-- A command leaves the head of an engine's queue, and its operation is ready. -/
def popHead (s : State) (x : Member) : State :=
  modOp x.ent.cmd.group x.ent.cmd.op (fun o => { o with ready := true, lanes := 0 })
    (modMx s x.core fun y => { y with queue := y.queue.drop 1 })

/-- Steps an engine may still start in its window (R268). -/
def stepsLeft (s : State) (core : Nat) : Nat := (mxOf s core).limit - (mxOf s core).steps

/-- The tokens of a row's A, of its sums from the north and of its sums to the south. -/
def tokensOfA (x : Member) : Nat := (spanBytes x.fmt (x.hi x.cfg.bi - x.lo x.cfg.bi) + 63) / 64
def tokensOfSums (x : Member) (other : Nat) : Nat := (8 * accSize x.fmt + linkWidth x.core other - 1) / linkWidth x.core other

/-- Partial sums as tokens to the south: eight columns (R259). -/
def sumTokens (x : Member) (ver south : Nat) (codes : List Nat) : List Token :=
  let bs := fitBytes (8 * accSize x.fmt) (codes.flatMap fun c => leBytes (accSize x.fmt) c)
  (chunks (linkWidth x.core south) bs.length bs).mapIdx fun k p =>
    mkToken x.ent.opseq ver 0 2 0 p [] (if k = 0 ∧ x.ent.row = 0 then opShape x else [])

/-- The codes that sum tokens carry. -/
def sumCodes (x : Member) (ts : List Token) : List Nat :=
  let bs := ts.flatMap fun t => t.payload
  (List.range 8).map fun j => bytesAt bs (j * accSize x.fmt) (accSize x.fmt)

/-- What the next row of a member needs: the row of A, the sums from the north with their tokens, and the ends of its
links. -/
structure RowIn where
  a : Strip
  north : Option (List Nat)
  fromWest : List Token
  fromNorth : List Token
  south : Option Nat
  east : Option Nat
  deriving DecidableEq, Repr

/-- The inputs of the next row, if all have arrived and there is room for what it sends (R262). -/
def rowInputs (s : State) (x : Member) : Option RowIn :=
  let y := mxOf s x.core
  let ver := versionOf s x.core x.ent
  let na := tokensOfA x
  let south := if x.cfg.south = .idle then none else linkEnd s x.core 2
  let east := if x.cfg.east = .idle then none else linkEnd s x.core 3
  let nn := match linkEnd s x.core 0 with | some c => tokensOfSums x c | none => 0
  let last := if x.ent.row + 1 = x.block.m then 1 else 0
  let room := (match south with | some c => sendRoom y c 0 2 (tokensOfSums x c + last) | none => true)
    && (match east with | some c => sendRoom y c 1 1 na | none => true)
  match if x.cfg.west = .idle then some [] else inputs y 1 1 na ver,
      if x.cfg.north = .idle then some [] else inputs y 0 2 nn ver with
  | some ws, some ns =>
    if !room || ns.any fun t => tokenTag t == 5 then none
    else some
      { a := if x.cfg.west = .idle then rowOfA s x x.ent.row else joinStrips (ws.map fun t => ⟨t.payload, t.scales⟩)
        north := if x.cfg.north = .idle then none else some (sumCodes x ns)
        fromWest := ws, fromNorth := ns, south := south, east := east }
  | _, _ => none

/-- The next row of an engine's head operation as it could be worked now, whatever the budget. -/
def stepReady (s : State) (core : Nat) : Option (Member × Slot × RowIn) :=
  (headMember s core).bind fun x =>
    match x.ent.cmd.cmd, slotFor (mxOf s core) x.ent with
    | .mma _ _ _ _ _, some b =>
      if b.full && !x.held && partsIssued s x then (rowInputs s x).map fun r => (x, b, r) else none
    | _, _ => none

/-- The sums of a row go south, the last with the operation's end, or land; A goes on east (R248, R250, R261). -/
def emitRow (x : Member) (r : RowIn) (codes : List Nat) (s : State) : State :=
  let ver := versionOf s x.core x.ent
  let s1 := match r.east with
    | some c =>
      sendTokens x.core c (stripTokens 64 x.fmt x.ent.opseq ver 1 1 0 (if x.ent.row = 0 then opShape x else []) r.a) s
    | none => s
  match r.south with
  | some c =>
    let lastTok := if x.ent.row + 1 = x.block.m then [mkToken x.ent.opseq ver 0 5 0 [] [] []] else []
    sendTokens x.core c (sumTokens x ver c codes ++ lastTok) s1
  | none => landRow x x.ent.row codes s1

/-- A row of a member has been worked: it counts as a step, and after the last its command is done (R257, R268). -/
def countRow (x : Member) (s : State) : State :=
  let s1 := modMx (setEnt x.core x.ent { x.ent with row := x.ent.row + 1 } s) x.core fun y => { y with steps := y.steps + 1 }
  if x.ent.row + 1 = x.block.m then bondSettle x.core (popHead s1 x) else s1

/-- A member works a row (R250): poison that it reads is consumed first, and another shape than its own costs the context. -/
def workRow (x : Member) (b : Slot) (r : RowIn) (s : State) : State :=
  if wrongShape x (r.fromWest ++ r.fromNorth) then shapeKill x s
  else if x.cfg.west == .idle
      && operandPoisoned s x x.recA x.block.a x.block.asrc [x.ent.row] (x.lo x.cfg.bi) (x.hi x.cfg.bi) then eatPoison x s
  else
    let s1 := dropChannel x.core 1 1 r.fromWest.length (dropChannel x.core 0 2 r.fromNorth.length s)
    countRow x (emitRow x r (memberSums s x r.a b.strip r.north) s1)

/-- The ends of operations at the head of the channel of sums are handled: nothing of theirs is left. -/
def endStep (core : Nat) (s : State) : State :=
  match channel (mxOf s core) 0 2 with
  | t :: _ => if tokenTag t = 5 then bondSettle core (dropChannel core 0 2 1 s) else s
  | [] => s

/-- An engine does what it can, up to a number of rows and what its window's budget allows: stationary loads, tokens of
slices, rows of its head operation (R248, R262, R268) (DESIGN CHOICE, log 13). -/
def runEngine (core : Nat) : Nat → State → State
  | 0, s => endStep core (sliceStep core (loadStep core (shapeStep core s)))
  | n + 1, s =>
    let s1 := endStep core (sliceStep core (loadStep core (shapeStep core s)))
    match stepReady s1 core with
    | some (x, b, r) => if 0 < stepsLeft s1 core then runEngine core n (workRow x b r s1) else s1
    | none => s1

/-- The lanes' matrix-side accesses of MSMLD and MSMST, ascending (R446). -/
def msmRead (s : State) (x : Member) (w64 : Bool) (d : Opnd) (lanes : List (Nat × Nat)) : List (Nat × W32) :=
  let n := if w64 then 8 else 4
  lanes.flatMap fun e => resultKeys d (n / 4) e.1 (ofLeBytes (localBytes s x.core .ms (x.w.msOff + e.2) n))

def msmWrite (x : Member) (w64 : Bool) (lanes : List (Nat × Nat × Nat)) (s : State) : State :=
  let n := if w64 then 8 else 4
  lanes.foldl (fun s e =>
    localWrite x.core .ms ((leBytes n e.2.2).mapIdx fun i b => (x.w.msOff + e.2.1 + i, b)) s) s

/-- The command at an engine's head runs: as many rows of an MMA as the window's budget allows, an MSMLD, an MSMST. What is
to be started is not while its workgroup is stopping (R114). -/
def runHead (core : Nat) (s : State) : State :=
  match headMember s core with
  | none => runEngine core 0 s
  | some x =>
    match x.ent.cmd.cmd with
    | .mma _ _ _ _ _ => runEngine core (stepsLeft s core) s
    | .msmld w64 d lanes =>
      if x.w.stopping then s
      else
        let r := msmRead s x w64 d lanes
        modOp x.ent.cmd.group x.ent.cmd.op (fun o => { o with results := o.results ++ r }) (popHead s x)
    | .msmst w64 lanes => if x.w.stopping then s else popHead (msmWrite x w64 lanes s) x
    | _ => s

end Sys2Proof.Machine
end

