-- ==== Sys2Proof/Machine/Convert.lean ====
section
/-! DEFINITION. Group 011, conversions and block-scaled packing (R400 to R405). -/

namespace Sys2Proof.Machine

/-- 32-bit words of a position whose type a type field names (R331, R400). -/
def tyWords (t : Ty) : Nat :=
  match t with
  | .fl .f64 => 2
  | .int 64 => 2
  | .nat 64 => 2
  | .plain 64 => 2
  | _ => 1

/-- The bits of a position of a type (R331, R401). -/
def rdTy (cx : Cx) (s : State) (t : Ty) (o : Opnd) (l : Nat) : Nat :=
  if tyWords t = 2 then (rd64 cx s t o l).toNat else (rd32 cx s t o l).toNat

/-- A result of a type's width in every executing lane. -/
def putTy (cx : Cx) (t : Ty) (d : Opnd) (x : Nat → Nat) (s : State) : State :=
  if tyWords t = 2 then put64 cx d (fun l => BitVec.ofNat 64 (x l)) s
  else put32 cx d (fun l => BitVec.ofNat 32 (x l)) s

/-- A converted value (R402); between a float type and itself the value stays, a NaN becomes canonical (DEDUCED, log 18). -/
def cvtBits (dst src : Ty) (x : Rnd) (ovfx : Bool) (draw bits : Nat) : Nat :=
  match dst == src, dst with
  | true, .fl f =>
    if fpIsNan (decodeTy src bits) then (if f == .tf32 then nanCode f * 2 ^ 13 else nanCode f)
    else if f == .tf32 then bits / 2 ^ 13 % 2 ^ 19 * 2 ^ 13
    else bits % 2 ^ codeBits f
  | _, _ => encodeTy dst x ovfx draw (decodeTy src bits)

/-- The type a 5-bit field names, as a code of R302. -/
def tyField (c : BitVec 11) (lo : Nat) : Nat := field c.toNat lo 5

/-- CVT (R400 to R402). -/
def execCvt (h : Hdr) (x : Rnd) (o : CV) (s : State) : Host.Outcome State Fault Refusal :=
  let cd := tyField o.c 5
  let cs := tyField o.c 0
  let dst := (tyOf cd).getD (.int 32)
  let src := (tyOf cs).getD (.int 32)
  let f : Form :=
    { unit := 0, feature := rsFeature x
      modOk := decide (cd < 20 ∧ cs < 20 ∧ o.c.toNat < 1024 ∧ o.b.toNat < 2)
      ops := [(o.d, .dst (tyWords dst) true false), (o.a, .src (tyWords src) false)] }
  issue f h (fun cx s =>
    let n := if tyWords dst = 2 ∨ tyWords src = 2 then 4 else 1
    putTy cx dst o.d (fun l => cvtBits dst src x (o.b.getLsbD 0) (laneDraw cx l 0) (rdTy cx s src o.a l))
      (takeDraws cx x 1 (takeCycles cx n s))) s

/-- The element format of a block type code, 5 to 9. -/
def blockFmt (c : Nat) : FFmt :=
  match c with
  | 5 => .e4m3
  | 6 => .e5m2
  | 7 => .e3m2
  | 8 => .e2m3
  | _ => .e2m1

/-- The place of element i in a word of codes: nibbles for E2M1, else bytes (R404, R405). -/
def codeSlot (f : FFmt) : Nat := if f == .e2m1 then 4 else 8

/-- BPACK (R404). -/
def execBpack (h : Hdr) (x : Rnd) (o : RM) (s : State) : Host.Outcome State Fault Refusal :=
  let ty := tyField o.c 0
  let f := blockFmt ty
  let form : Form :=
    { unit := 0, feature := rsFeature x, modOk := decide (5 ≤ ty ∧ ty ≤ 9 ∧ o.c.toNat < 64)
      ops := [(o.d, .dst 1 true false), (o.a, .src 4 false), (o.b, .src 1 false)] }
  issue form h (fun cx s =>
    let code (l i : Nat) : Nat :=
      encodeBlock f (featureOn s 6) (rdI cx s o.b l) x (o.c.getLsbD 5) (laneDraw cx l i)
        (decodeF .f32 (field (rd128 cx s o.a l) (32 * i) 32))
    put32 cx o.d (fun l => BitVec.ofNat 32 (packFields (codeSlot f) ((List.range 4).map (code l))))
      (takeDraws cx x 4 (takeCycles cx 2 s))) s

/-- BUNPK (R405). -/
def execBunpk (h : Hdr) (o : RM) (s : State) : Host.Outcome State Fault Refusal :=
  let ty := tyField o.c 0
  let f := blockFmt ty
  let hi := o.c.getLsbD 5
  let form : Form :=
    { unit := 0, modOk := decide (5 ≤ ty ∧ ty ≤ 9 ∧ o.c.toNat < 64) && (!hi || f == .e2m1)
      ops := [(o.d, .dst 4 true false), (o.a, .src 1 false), (o.b, .src 1 false)] }
  issue form h (fun cx s =>
    let val (l i : Nat) : W32 :=
      let q := field (rdI cx s o.a l).toNat (codeSlot f * i + if hi then 16 else 0) (codeSlot f)
      BitVec.ofNat 32 (roundArith .f32 .rn true 0 (decodeBlock f (featureOn s 6) (rdI cx s o.b l) q))
    let ws := match o.d with
      | .v n => (lanesOf cx.run.lanes).flatMap fun l => (List.range 4).map fun i => Wr.v (n.toNat + i) l (val l i)
      | _ => []
    fixWrites cx ws (takeCycles cx 2 s)) s

end Sys2Proof.Machine
end

