-- ==== Sys2Proof/Machine/CopyUnit.lean ====
section
/-! DEFINITION. The copy engine and the link engine: segments, outputs, patch lists, completion words (R451 to R463),
and the plain copies and fills of copy packets (R77). -/

namespace Sys2Proof.Machine

/-! ### CPY blocks (R451) -/

/-- A CPY block. Local addresses are offsets. -/
structure CBlock where
  ssp : Nat
  dsp : Nat
  wsp : Nat
  trn : Bool
  conv : Bool
  ovfx : Bool
  rnd : Nat
  rank : Nat
  dty : Nat
  sty : Nat
  saddr : Nat
  daddr : Nat
  bx0 : Nat
  bx1 : Nat
  bx2 : Nat
  ve0 : Nat
  ve1 : Nat
  ve2 : Nat
  sst1 : Int
  sst2 : Int
  dst1 : Int
  dst2 : Int
  scale : W32
  fill : Nat
  waddr : Nat
  wval : Nat
  resv : Bool
  deriving DecidableEq, Repr

/-- An address of two words in a space: reserved bits, and its value (R451). -/
def spaceAddr (sp lo hi : Nat) : Bool × Nat :=
  if sp = 0 then (decide (2 ^ 25 ≤ hi), (lo + 2 ^ 32 * hi) % 2 ^ 57) else (hi != 0, lo)

def cblock (ws : List Nat) : CBlock :=
  let w (i : Nat) := ws.getD i 0
  let ssp := field (w 0) 30 2
  let dsp := field (w 0) 28 2
  let wsp := field (w 0) 26 2
  let sa := spaceAddr ssp (w 1) (w 2)
  let da := spaceAddr dsp (w 9) (w 10)
  let wa := spaceAddr (if wsp = 2 then 1 else 0) (w 16) (w 17)
  { ssp := ssp, dsp := dsp, wsp := wsp, trn := (w 0).testBit 25, conv := (w 0).testBit 24, ovfx := (w 0).testBit 23
    rnd := field (w 0) 20 3, rank := field (w 0) 18 2 + 1, dty := field (w 0) 10 5, sty := field (w 0) 5 5
    saddr := sa.2, daddr := da.2
    bx0 := field (w 3) 0 16, bx1 := field (w 3) 16 16, bx2 := field (w 4) 0 16
    ve0 := field (w 5) 0 16, ve1 := field (w 5) 16 16, ve2 := field (w 6) 0 16
    sst1 := toSigned 32 (w 7), sst2 := toSigned 32 (w 8), dst1 := toSigned 32 (w 11), dst2 := toSigned 32 (w 12)
    scale := BitVec.ofNat 32 (w 13), fill := w 14 + 2 ^ 32 * w 15, waddr := wa.2, wval := w 18 + 2 ^ 32 * w 19
    resv := field (w 0) 15 3 != 0 || field (w 0) 0 5 != 0 || sa.1 || da.1 || (wsp != 0 && wa.1)
      || field (w 4) 16 16 != 0 || field (w 6) 16 16 != 0 || (List.range 4).any fun k => w (20 + k) != 0 }

def cpTy (c : Nat) : Ty := (tyOf c).getD (.plain 32)

/-- The size of a type's element in nibbles (R452). -/
def nibbles (c : Nat) : Nat := tyBits (cpTy c) / 4

def e0 (b : CBlock) : Nat := if b.trn then b.bx1 else b.bx0
def e1 (b : CBlock) : Nat := if b.trn then b.bx0 else b.bx1

/-- The number of elements, and element e of the destination as (i0, i1, i2) of the box (R452, R453). -/
def elemCount (b : CBlock) : Nat := b.bx0 * b.bx1 * b.bx2
def elemIdx (b : CBlock) (e : Nat) : Nat × Nat × Nat :=
  let j0 := e % e0 b
  let j1 := e / e0 b % e1 b
  if b.trn then (j1, j0, e / (e0 b * e1 b)) else (j0, j1, e / (e0 b * e1 b))

/-- Whether an element lies inside the valid extents. -/
def validElem (b : CBlock) (i : Nat × Nat × Nat) : Bool :=
  decide (i.1 < b.ve0) && decide (i.2.1 < b.ve1) && decide (i.2.2 < b.ve2)

/-- Addresses in nibbles, before they wrap: of a source element and of a destination element (R452). -/
def srcNib (b : CBlock) (i : Nat × Nat × Nat) : Int :=
  2 * (b.saddr + i.2.1 * b.sst1 + i.2.2 * b.sst2) + i.1 * nibbles b.sty
def dstNib (b : CBlock) (i : Nat × Nat × Nat) : Int :=
  let j0 := if b.trn then i.2.1 else i.1
  let j1 := if b.trn then i.1 else i.2.1
  2 * (b.daddr + j1 * b.dst1 + i.2.2 * b.dst2) + j0 * nibbles b.dty

/-- An address in nibbles within its space: 57-bit byte addresses, or 32-bit offsets. -/
def wrapNib (sp : Nat) (x : Int) : Nat := wrapInt (if sp = 0 then 58 else 33) x

/-- The lowest and one past the highest byte of a strided box of `n0` by `n1` by `n2` elements; none when empty (R454). -/
def byteSpan (base : Nat) (nib n0 n1 n2 : Nat) (s1 s2 : Int) : Option (Int × Int) :=
  if n0 = 0 ∨ n1 = 0 ∨ n2 = 0 then none
  else
    let far (s : Int) (n : Nat) : Int := s * (n - 1 : Nat)
    let lo := base + min 0 (far s1 n1) + min 0 (far s2 n2)
    let hi := base + max 0 (far s1 n1) + max 0 (far s2 n2) + (n0 * nib + 1) / 2
    some (lo, hi)

def srcSpan (b : CBlock) : Option (Int × Int) :=
  byteSpan b.saddr (nibbles b.sty) (min b.bx0 b.ve0) (min b.bx1 b.ve1) (min b.bx2 b.ve2) b.sst1 b.sst2
def dstSpan (b : CBlock) : Option (Int × Int) :=
  byteSpan b.daddr (nibbles b.dty) (e0 b) (e1 b) b.bx2 b.dst1 b.dst2

/-- Whether two spans of one space meet. Global addresses are taken in 57 bits, so a span that runs past the top goes on at 0
(R452). -/
def spansMeet (sp : Nat) : Option (Int × Int) → Option (Int × Int) → Bool
  | some x, some y =>
    let meets (a b : Int) : Bool := decide (a < b + (y.2 - y.1)) && decide (b < a + (x.2 - x.1))
    if sp = 0 then
      let m : Int := 2 ^ 57
      let a := x.1 % m
      let b := y.1 % m
      meets a b || meets (a - m) b || meets a (b - m)
    else meets x.1 y.1
  | _, _ => false

def inBlockTys (c : Nat) : Bool := decide (5 ≤ c) && decide (c ≤ 9)

/-- The illegal-instruction checks of R454; `rs` tells whether feature 4 was accepted. -/
def cpyLegal (b : CBlock) (rs : Bool) : Bool :=
  let sb := (nibbles b.sty + 1) / 2
  let db := (nibbles b.dty + 1) / 2
  let nib := nibbles b.sty == 1 || nibbles b.dty == 1
  let dim (k x : Nat) : Bool := decide (k < b.rank) || x == 1
  let mult (x : Int) (n : Nat) : Bool := x % n == 0
  !b.resv && b.ssp != 3 && b.dsp != 3 && b.wsp != 3 && decide (b.rnd < 5) && (b.rnd != 4 || rs) && decide (b.rank ≤ 3)
    && decide (b.sty < 24) && decide (b.dty < 24)
    && (if b.conv then decide (b.sty < 20) && decide (b.dty < 20) && !(inBlockTys b.sty && inBlockTys b.dty)
        else b.sty == b.dty)
    && !(nib && (b.trn || b.bx0 % 2 == 1))
    && b.bx0 != 0 && b.bx1 != 0 && b.bx2 != 0
    && dim 1 b.bx1 && dim 2 b.bx2 && dim 1 b.ve1 && dim 2 b.ve2
    && mult b.saddr sb && mult b.sst1 sb && mult b.sst2 sb && mult b.daddr db && mult b.dst1 db && mult b.dst2 db
    && (b.wsp == 0 || b.waddr % 8 == 0)
    && !(b.ssp == b.dsp && spansMeet b.ssp (srcSpan b) (dstSpan b))

/-- The lowest offset of a local byte outside its run (R454, R235). -/
def cpyOutside (w : Wg) (b : CBlock) : Option Nat :=
  let len (sp : Nat) : Nat := if sp = 1 then w.scratchLen else w.obLen
  let bad (sp nib : Nat) (x : Int) : Option Nat :=
    if sp = 0 then none
    else
      let a := wrapNib sp x
      if len sp < (a + nib + 1) / 2 then some (max (a / 2) (len sp)) else none
  let all := (List.range (elemCount b)).flatMap fun e =>
    let i := elemIdx b e
    (if validElem b i then (bad b.ssp (nibbles b.sty) (srcNib b i)).toList else [])
      ++ (bad b.dsp (nibbles b.dty) (dstNib b i)).toList
  let word := if b.wsp = 2 ∧ w.scratchLen < b.waddr + 8 then [max b.waddr w.scratchLen] else []
  if b.ssp = 0 ∧ b.dsp = 0 then word.min? else (all ++ word).min?

/-! ### Values -/

def rndOf (c : Nat) : Rnd :=
  match c with
  | 0 => .rn | 1 => .rz | 2 => .ru | 3 => .rd | _ => .rs

/-- A converted element (R453): `draw` is its draw under .RS. -/
def convElem (b : CBlock) (feature6 : Bool) (draw code : Nat) : Nat :=
  let x := rndOf b.rnd
  if !b.conv then code
  else
    let v :=
      if inBlockTys b.dty then encodeBlock (blockFmt b.dty) feature6 b.scale x b.ovfx draw (decodeTy (cpTy b.sty) code)
      else if inBlockTys b.sty then
        encodeTy (cpTy b.dty) x b.ovfx draw (decodeBlock (blockFmt b.sty) feature6 b.scale code)
      else cvtBits (cpTy b.dty) (cpTy b.sty) x b.ovfx draw code
    v % 2 ^ (4 * nibbles b.dty)

/-! ### Engine accesses in a space -/

/-- Who an engine acts for: the core whose cluster and local memory it uses, its client code (R180), the workgroup, the
queue and index of the packet it carries out, if any, and the name of a copy or link command in the flits it sends. -/
structure Eng where
  core : Nat
  client : Nat
  asid : Nat
  wk : Nat
  packet : Option (Nat × Nat)
  dma : Option (Nat × Nat × Nat)
  deriving DecidableEq, Repr

/-- The TAG of a packet that is processed and not complete. -/
def packetTag (s : State) (p : Nat × Nat) : Nat :=
  match (sfind s.queues p.1).bind fun q => q.out.find? fun x => x.index == p.2 with
  | some x => x.tag
  | none => 0

def engIssuer (s : State) (g : Eng) : Issuer :=
  match sfind s.wgs g.wk with
  | some w => ⟨g.core, g.client, 0xFF, tagOf s w.record, queueOf s w.record⟩
  | none =>
    match g.packet with
    | some p => ⟨g.core, g.client, 0xFF, packetTag s p, p.1 % 4096⟩
    | none => ⟨g.core, g.client, 0xFF, 0, 0⟩

/-- What came of an engine's access: done, stopped by a fault (its kind and address), waiting, or failed. -/
inductive EngRes where
  | ok
  | fault (kind va : Nat)
  | wait
  | dead (va pa : Nat)
  deriving DecidableEq, Repr

def engRes (g : Eng) (a : Access) (va : Nat) : LineRes → State → EngRes × State
  | .ready, s => (.ok, s)
  | .fault f, s => (.fault f.kind va, reportFault (engIssuer s g) g.asid va a f s)
  | .linkDown pa, s => (.dead va pa, s)
  | _, s => (.wait, s)

/-- The place of a local offset on the core. -/
def localPlace (s : State) (g : Eng) (sp off : Nat) : Space × Nat :=
  match sfind s.wgs g.wk with
  | some w => if sp = 1 then (.sp, w.scratchOff + off) else (.ob, w.obOff + off)
  | none => if sp = 1 then (.sp, off) else (.ob, off)

/-- Bytes an engine reads from global memory, line by line: the line that stops the read names its own address. -/
def engReadGo (g : Eng) : Nat → Nat → Nat → State → EngRes × State × List Byte × Bool
  | 0, _, _, s => (.ok, s, [], false)
  | fuel + 1, va, n, s =>
    if n = 0 then (.ok, s, [], false)
    else
      let k := min n (128 - va % 128)
      match engineRead g.core g.asid 2 va k s with
      | (.ready, s1, bs, p) =>
        match engReadGo g fuel ((va + k) % 2 ^ 57) (n - k) s1 with
        | (r, s2, rest, q) => (r, s2, bs ++ rest, p || q)
      | (r, s1, _, _) =>
        let e := engRes g .read va r s1
        (e.1, e.2, [], false)

/-- Bytes an engine reads: global memory by lines, local spaces at once; with a poison mark. -/
def engRead (g : Eng) (sp va n : Nat) (s : State) : EngRes × State × List Byte × Bool :=
  if sp = 0 then engReadGo g (n / 128 + 2) va n s
  else
    let a := localPlace s g sp va
    (.ok, s, localBytes s g.core a.1 a.2 n, localPoisoned s g.core a.1 a.2 n)

/-- One output of a segment: nibbles at an address of the destination space, with a poison mark. -/
structure Out where
  nib : Nat
  n : Nat
  val : Nat
  bad : Bool
  deriving DecidableEq, Repr

/-- The bytes an output touches: (address, low nibble if written, high nibble if written). -/
def outBytes (o : Out) : List (Nat × Option Nat × Option Nat) :=
  if o.n % 2 = 0 ∧ o.nib % 2 = 0 then
    (List.range (o.n / 2)).map fun k => (o.nib / 2 + k, some (field o.val (8 * k) 4), some (field o.val (8 * k + 4) 4))
  else if o.nib % 2 = 0 then [(o.nib / 2, some (o.val % 16), none)]
  else [(o.nib / 2, none, some (o.val % 16))]

/-- The byte an address of a space holds now. -/
def peekByte (s : State) (g : Eng) (spc a : Nat) : Byte :=
  if spc = 0 then
    match (lookupLeaf s g.asid a).1 with
    | .ok l => (ctrlRead s l.ck (leafPa l a) 1).headD 0
    | .error _ => 0
  else
    let p := localPlace s g spc a
    (localBytes s g.core p.1 p.2 1).headD 0

/-- Mark a nibble as one that carries poison, or as one that does not; a nibble that is not written keeps its mark. -/
def markNib (bad : Bool) (nib : Nat) (x : Option Nat) (m : NatSet) : NatSet :=
  if x.isNone then m else if bad then nsAdd m nib else nsDel m nib

/-- The bytes of outputs in order, later ones over earlier ones, and those of which a nibble carries poison (R131). -/
def outMap (s : State) (g : Eng) (sp : Nat) (os : List Out) : List (Nat × Byte) × NatSet :=
  let r := os.foldl (fun m o => (outBytes o).foldl (fun m b =>
    let old := (match sfind m.1 b.1 with | some x => x | none => peekByte s g sp b.1).toNat
    let x := b.2.1.getD (old % 16) + 16 * b.2.2.getD (old / 16)
    (sset m.1 b.1 (BitVec.ofNat 8 x), markNib o.bad (2 * b.1 + 1) b.2.2 (markNib o.bad (2 * b.1) b.2.1 m.2))) m)
      (([], []) : List (Nat × Byte) × NatSet)
  (r.1, r.2.foldl (fun b e => nsAdd b (e.1 / 2)) [])

/-- The poison mask of a line's sectors for bytes that carry poison. -/
def badSectors (bad : NatSet) (line : Nat) : Nat :=
  (List.range 4).foldl (fun m k =>
    if bad.any fun e => e.1 / 32 == 4 * line + k then m + 2 ^ k else m) 0

/-- Global bytes written line by line; the first obstacle stops, and a fault names the first byte written there (R180). -/
def engWriteLines (g : Eng) (m : List (Nat × Byte)) (bad : NatSet) : List Nat → State → EngRes × State
  | [], s => (.ok, s)
  | l :: ls, s =>
    match engineWriteLineFor g.dma s g.core g.asid (128 * l) (lineMask m l) (lineData m l) (badSectors bad l) with
    | (.ready, s1) => engWriteLines g m bad ls s1
    | (r, s1) => engRes g .write (firstIn m l) r s1

/-- Sectors of a local space marked by the bytes of outputs that carry poison. -/
def markLocal (g : Eng) (spc : Space) (bad : NatSet) (s : State) : State :=
  if bad.isEmpty then s
  else modCore s g.core fun c => withPoison c spc (bad.foldl (fun p e => nsAdd p (e.1 / 32)) (spacePoison c spc))

/-- Whether the bytes of an output in the line of an address can be written now. -/
def probeLine (g : Eng) (va : Nat) (s : State) : EngRes × State :=
  if frozen s g.asid va then (.wait, noteRefused va s)
  else match heldBy s g.asid va with
  | some _ => (.wait, s)
  | none =>
    match translate s g.asid va .write with
    | (.error f, s1) => engRes g .write va (.fault f) s1
    | (.ok l, s1) => engRes g .write va (reach s1 (leafPa l va)) s1

/-- The outputs before the first whose line cannot be written, what stops that one, and the lines found writable. -/
def writable (g : Eng) : List Out → List Nat → State → List Out × EngRes × State
  | [], _, s => ([], .ok, s)
  | o :: os, known, s =>
    let ls := ((outBytes o).map fun b => b.1).filter fun a => !known.contains (a / 128)
    match ls with
    | [] =>
      match writable g os known s with
      | (ok, r, s1) => (o :: ok, r, s1)
    | a :: _ =>
      match probeLine g a s with
      | (.ok, s1) =>
        match writable g os (a / 128 :: known) s1 with
        | (ok, r, s2) => (o :: ok, r, s2)
      | (r, s1) => ([], r, s1)

/-- Outputs written in order (R455, R457): those before the first that faults. -/
def writeOuts (g : Eng) (sp : Nat) (os : List Out) (s : State) : EngRes × State :=
  if sp = 0 then
    match writable g os [] s with
    | (ok, r, s1) =>
      let m := outMap s1 g 0 ok
      match engWriteLines g m.1 m.2 (linesOf m.1) s1 with
      | (.ok, s2) => (r, s2)
      | (e, s2) => (e, s2)
  else
    let m := outMap s g sp os
    let spc := (localPlace s g sp 0).1
    let base := (localPlace s g sp 0).2
    (.ok, markLocal g spc (m.2.map fun e => (base + e.1, ())) (localWrite g.core spc (m.1.map fun e => (base + e.1, e.2)) s))

/-! ### Segments of CPY (R455) -/

/-- The 4 KiB block of a nibble address. -/
def block4k (nib : Nat) : Nat := nib / 8192

/-- Insert a number into a rising list. -/
def insNat (x : Nat) : List Nat → List Nat
  | [] => [x]
  | y :: ys => if x < y then x :: y :: ys else if x = y then y :: ys else y :: insNat x ys

/-- The source segments of a copy, ascending (R455). -/
def cpySegs (b : CBlock) : List Nat :=
  (List.range (elemCount b)).foldl (fun l e =>
    let i := elemIdx b e
    if validElem b i then insNat (block4k (wrapNib b.ssp (srcNib b i))) l else l) []

/-- The fill elements in pieces: runs whose destinations start in one 4 KiB block (R455). -/
def fillPieces (b : CBlock) : List (List Nat) :=
  let fills := (List.range (elemCount b)).filter fun e => !validElem b (elemIdx b e)
  let blk (e : Nat) := block4k (wrapNib b.dsp (dstNib b (elemIdx b e)))
  (fills.foldl (fun (acc : List (List Nat)) e =>
    match acc with
    | (f :: fs) :: ps => if blk f = blk e then ((f :: fs) ++ [e]) :: ps else [e] :: (f :: fs) :: ps
    | ps => [e] :: ps) []).reverse

/-- The destination elements of a source segment, ascending in e. -/
def segElems (b : CBlock) (seg : Nat) : List Nat :=
  (List.range (elemCount b)).filter fun e =>
    let i := elemIdx b e
    validElem b i && block4k (wrapNib b.ssp (srcNib b i)) == seg

/-- Read the elements of a segment: their outputs, or what stops the read. -/
def readElems (g : Eng) (b : CBlock) (feature6 : Bool) (seed : W32) : List Nat → State → EngRes × State × List Out
  | [], s => (.ok, s, [])
  | e :: es, s =>
    let i := elemIdx b e
    let a := wrapNib b.ssp (srcNib b i)
    let n := nibbles b.sty
    match engRead g b.ssp (a / 2) ((n + 1) / 2) s with
    | (.ok, s1, bs, bad) =>
      let raw := ofLeBytes bs
      let code := if n = 1 then field raw (4 * (a % 2)) 4 else raw
      let draw := if b.conv && b.rnd == 4 then (drawAt seed e).toNat else 0
      let o : Out := ⟨wrapNib b.dsp (dstNib b i), nibbles b.dty, convElem b feature6 draw code, bad⟩
      match readElems g b feature6 seed es s1 with
      | (.ok, s2, os) => (.ok, s2, o :: os)
      | r => r
    | (r, s1, _, _) => (r, s1, [])

/-! ### Plain transfers: LXFER and copy packets (R77, R461) -/

/-- A plain transfer as (source, destination, length, word address, word value, fill pattern if any). -/
structure Xfer where
  src : Nat
  dst : Nat
  len : Nat
  waddr : Nat
  wval : Nat
  fill : Option Nat
  deriving DecidableEq, Repr

/-- The fields of a transfer's block: its sixth word is 1 for a fill, whose pattern stands as its source. -/
def xferOf (b : List Nat) : Xfer :=
  let w (i : Nat) := b.getD i 0
  ⟨w 0, w 1, w 2, w 3, w 4, if w 5 = 1 then some (w 0) else none⟩

/-- The number of segments: 4 KiB ranges of source address, of the destination for a fill. -/
def xferSegs (x : Xfer) : Nat :=
  let a := if x.fill.isSome then x.dst else x.src
  if x.len = 0 then 0 else (a + x.len - 1) / 4096 - a / 4096 + 1

/-- Segment k: its offset in the transfer and its length. -/
def xferSeg (x : Xfer) (k : Nat) : Nat × Nat :=
  let a := if x.fill.isSome then x.dst else x.src
  let start := if k = 0 then a else (a / 4096 + k) * 4096
  let stop := min (a + x.len) ((a / 4096 + k + 1) * 4096)
  (start - a, stop - start)

/-- Outputs of bytes from a destination address, in pieces within lines. -/
def byteOuts (va : Nat) (bs : List Byte) (bad : Bool) : List Out :=
  (linePieces (bs.length / 128 + 2) va bs).map fun p => ⟨2 * (p.1 % 2 ^ 57), 2 * p.2.length, ofLeBytes p.2, bad⟩

/-- The bytes of a fill from an offset. -/
def fillBytes (pat off n : Nat) : List Byte := (List.range n).map fun k => BitVec.ofNat 8 (pat / 2 ^ (8 * ((off + k) % 8)))

/-- The outputs of bytes read line by line, each with its own poison mark. -/
def readRange (g : Eng) (dst : Nat) : Nat → Nat → Nat → State → EngRes × State × List Out
  | 0, _, _, s => (.ok, s, [])
  | fuel + 1, va, n, s =>
    if n = 0 then (.ok, s, [])
    else
      let k := min n (32 - va % 32)
      match engRead g 0 (va % 2 ^ 57) k s with
      | (.ok, s1, bs, bad) =>
        match readRange g (dst + k) fuel (va + k) (n - k) s1 with
        | (.ok, s2, os) => (.ok, s2, byteOuts dst bs bad ++ os)
        | r => r
      | (r, s1, _, _) => (r, s1, [])

/-! ### Commands as numbered segments -/

/-- The destination space, the completion word (space, address, value) of a command. -/
def cmdDst (c : EngCmd) : Nat := match c with | .cpy b _ => (cblock b).dsp | _ => 0
def cmdWord (c : EngCmd) : Nat × Nat × Nat :=
  match c with
  | .cpy b _ => let x := cblock b; (x.wsp, x.waddr, x.wval)
  | .lxfer b => let x := xferOf b; (if x.waddr = 0 then 0 else 1, x.waddr, x.wval)
  | _ => (0, 0, 0)

/-- The number of segments, fill pieces included. -/
def cmdSegs (c : EngCmd) : Nat :=
  match c with
  | .cpy b _ => (cpySegs (cblock b)).length + (fillPieces (cblock b)).length
  | .lxfer b => xferSegs (xferOf b)
  | _ => 0

/-- The outputs of segment k, its sources read now. -/
def cmdOuts (g : Eng) (c : EngCmd) (k : Nat) (s : State) : EngRes × State × List Out :=
  match c with
  | .cpy ws seed =>
    let b := cblock ws
    let segs := cpySegs b
    match segs[k]? with
    | some seg => readElems g b (featureOn s 6) seed (segElems b seg) s
    | none =>
      (.ok, s, ((fillPieces b).getD (k - segs.length) []).map fun e =>
        ⟨wrapNib b.dsp (dstNib b (elemIdx b e)), nibbles b.dty, b.fill % 2 ^ (4 * nibbles b.dty), false⟩)
  | .lxfer ws =>
    let x := xferOf ws
    let seg := xferSeg x k
    match x.fill with
    | some p => (.ok, s, byteOuts (x.dst + seg.1) (fillBytes p seg.1 seg.2) false)
    | none => readRange g (x.dst + seg.1) (seg.2 / 32 + 2) (x.src + seg.1) seg.2 s
  | _ => (.ok, s, [])

/-- Segment k of a command: read whole, then written (R455, R461). -/
def runSeg (g : Eng) (c : EngCmd) (k : Nat) (s : State) : EngRes × State :=
  match cmdOuts g c k s with
  | (.ok, s1, os) => writeOuts g (cmdDst c) os s1
  | (r, s1, _) => (r, s1)

/-- The lines of a copy's destination in global memory. -/
def dstLines (c : EngCmd) : List Nat :=
  match c with
  | .cpy ws _ =>
    let b := cblock ws
    if b.dsp ≠ 0 then []
    else (List.range (elemCount b)).foldl (fun l e =>
      insNat (wrapNib 0 (dstNib b (elemIdx b e) + nibbles b.dty - 1) / 256) (insNat (wrapNib 0 (dstNib b (elemIdx b e)) / 256) l)) []
  | _ => []

/-- The completion word (R208, R463): an atomic store at its place, after the cluster L2 has written back the copy's
destination lines, or at its bank. -/
def runWord (g : Eng) (c : EngCmd) (s : State) : EngRes × State :=
  match cmdWord c with
  | (1, a, v) =>
    let s1 := (dstLines c).foldl (fun s l => writeBack s (clusterOf g.core) (lineKey g.asid (128 * l))) s
    writeOuts g 0 (byteOuts a (leBytes 8 v) false) (surrenderLine s1 g.core g.asid a)
  | (2, a, v) =>
    let p := localPlace s g 1 a
    (.ok, localWrite g.core p.1 ((leBytes 8 v).mapIdx fun i b => (p.2 + i, b)) s)
  | _ => (.ok, s)

/-! ### Queues of commands -/

/-- The commands of an engine: 1 copy by core, 3 link by die. -/
def dmaOf (s : State) (e key : Nat) : List DmaEnt := if e = 1 then sget [] s.cp key else sget [] s.lk key
def putDma (s : State) (e key : Nat) (q : List DmaEnt) : State :=
  if e = 1 then { s with cp := sput [] s.cp key q } else { s with lk := sput [] s.lk key q }

/-- The workgroup key that a packet's copy carries, which names none; its group field holds the core. -/
def noWg : Nat := 2 ^ 40

/-- The name of a command in the flits it sends: its engine, and its group and operation, or its packet. -/
def dmaName (e : Nat) (x : DmaEnt) : Nat × Nat × Nat :=
  (if e = 1 then 1 else 4, match x.packet with | some p => (2 ^ 41 + p.1, p.2) | none => (x.cmd.group, x.cmd.op))

/-- Who a command acts for. -/
def engOf (e : Nat) (x : DmaEnt) : Eng :=
  ⟨if x.packet.isSome then x.cmd.group else keyCore x.cmd.group, if e = 1 then 1 else 4, x.cmd.asid, x.cmd.wg, x.packet,
    some (dmaName e x)⟩

/-- The capacity of a patch list, shared by a workgroup's commands on an engine (R457, R462). -/
def patchRoom (s : State) (e key : Nat) (x : DmaEnt) : Bool :=
  let mine := (dmaOf s e key).filter fun y => y.cmd.wg == x.cmd.wg
  decide (mine.foldl (fun n y => n + y.patch.length) 0 < (if e = 1 then 128 else 64))

def modDma (s : State) (e key : Nat) (old new : DmaEnt) : State :=
  putDma s e key ((dmaOf s e key).map fun y => if y == old then new else y)

/-- Insert a patch entry in ascending segment order. -/
def insPatch (p : PatchEnt) : List PatchEnt → List PatchEnt
  | [] => [p]
  | q :: qs => if p.seg < q.seg then p :: q :: qs else if p.seg = q.seg then p :: qs else q :: insPatch p qs

/-- Run up to `n` segments of a command from its position on; a fault patches the segment and goes on, a full list or a
wait stops (R457, R462). The command as it then stands. -/
def runSegs (e key total : Nat) : Nat → DmaEnt → State → DmaEnt × State
  | 0, x, s => (x, s)
  | n + 1, x, s =>
    if total ≤ x.pos then (x, s)
    else
      match runSeg (engOf e x) x.cmd.cmd x.pos s with
      | (.ok, s1) =>
        let x1 := { x with pos := x.pos + 1 }
        runSegs e key total n x1 (modDma s1 e key x x1)
      | (.fault k va, s1) =>
        if patchRoom s1 e key x then
          let x1 := { x with pos := x.pos + 1, patch := insPatch ⟨x.pos, k, va⟩ x.patch }
          runSegs e key total n x1 (modDma s1 e key x x1)
        else (x, s1)
      | (.wait, s1) => (x, s1)
      | (.dead va pa, s1) => (x, transferFails x.cmd.asid (engOf e x).core va pa s1)

/-- Replay the patched segments, ascending, once the whole list is resolved (kind 0); what faults again stays. -/
def replayPatch (e key total : Nat) : List PatchEnt → DmaEnt → State → DmaEnt × State
  | [], x, s => (x, s)
  | p :: ps, x, s =>
    let r := if p.seg = total then runWord (engOf e x) x.cmd.cmd s else runSeg (engOf e x) x.cmd.cmd p.seg s
    match r with
    | (.ok, s1) =>
      let x1 := { x with patch := x.patch.filter fun q => q.seg != p.seg, pos := if p.seg = total then total + 1 else x.pos }
      replayPatch e key total ps x1 (modDma s1 e key x x1)
    | (.fault k va, s1) =>
      let x1 := { x with patch := insPatch ⟨p.seg, k, va⟩ (x.patch.filter fun q => q.seg != p.seg) }
      replayPatch e key total ps x1 (modDma s1 e key x x1)
    | (.wait, s1) => (x, s1)
    | (.dead va pa, s1) => (x, transferFails x.cmd.asid (engOf e x).core va pa s1)

/-- A finished command: its entry leaves the queue; its operation is ready, or its packet's work is complete. -/
def finishDma (e key : Nat) (x : DmaEnt) (s : State) : State :=
  let s1 := putDma s e key ((dmaOf s e key).filter fun y => y != x)
  match x.packet with
  | none => modOp x.cmd.group x.cmd.op (fun o => { o with ready := true, lanes := 0 }) s1
  | some (q, i) => modQueue s1 q fun y => { y with out := y.out.map fun p => if p.index = i then { p with done := true } else p }

/-- A command whose word is written is finished once the peers have acknowledged every write (R463). -/
def endDma (e key : Nat) (x : DmaEnt) (s : State) : State := if unacked s (dmaName e x) then s else finishDma e key x s

/-- A command whose segments and replay are done, and whose writes the peers have acknowledged, writes its completion word
and is finished; one that only waits for its patch list is set aside (R458, R463). -/
def closeDma (e key total : Nat) (x : DmaEnt) (s : State) : State :=
  if x.pos < total then s
  else if total < x.pos then endDma e key x s
  else if !x.patch.isEmpty then modDma s e key x { x with aside := true }
  else if unacked s (dmaName e x) then s
  else match runWord (engOf e x) x.cmd.cmd s with
    | (.ok, s1) => endDma e key { x with pos := total + 1 } (modDma s1 e key x { x with pos := total + 1 })
    | (.fault k va, s1) => modDma s1 e key x { x with aside := true, patch := [⟨total, k, va⟩] }
    | (.wait, s1) => s1
    | (.dead va pa, s1) => transferFails x.cmd.asid (engOf e x).core va pa s1

/-- An engine works on a command: up to `n` segments, then its replay if the whole patch list is resolved (DESIGN CHOICE,
log 13). -/
def workDma (e key n : Nat) (x : DmaEnt) (s : State) : State :=
  let total := cmdSegs x.cmd.cmd
  let r := if x.aside then (x, s) else runSegs e key total n x s
  let r2 := if total ≤ r.1.pos ∧ !r.1.patch.isEmpty ∧ r.1.patch.all fun p => p.kind == 0 then
      replayPatch e key total r.1.patch r.1 r.2 else r
  if (dmaOf r2.2 e key).contains r2.1 then closeDma e key total r2.1 r2.2 else r2.2

/-- The global addresses that segment k of a command touches, its ends where it is a plain transfer; its word's for k past
the segments. -/
def segAddrs (c : EngCmd) (k : Nat) : List Nat :=
  if cmdSegs c ≤ k then (if (cmdWord c).1 = 1 then [(cmdWord c).2.1] else [])
  else match c with
    | .cpy ws _ =>
      let b := cblock ws
      let segs := cpySegs b
      let es := match segs[k]? with | some seg => segElems b seg | none => (fillPieces b).getD (k - segs.length) []
      es.flatMap fun e =>
        let i := elemIdx b e
        (if b.ssp = 0 ∧ validElem b i then [wrapNib 0 (srcNib b i) / 2] else [])
          ++ (if b.dsp = 0 then [wrapNib 0 (dstNib b i) / 2] else [])
    | .lxfer ws =>
      let x := xferOf ws
      let seg := xferSeg x k
      let ends (a : Nat) : List Nat := [(a + seg.1) % 2 ^ 57, (a + seg.1 + seg.2 - 1) % 2 ^ 57]
      (if x.fill.isSome then [] else ends x.src) ++ ends x.dst
    | _ => []

/-- The segments that a command still waits for: the one it stands at, and patched ones that only wait. -/
def segsLeft (x : DmaEnt) : List Nat :=
  (if x.aside then [] else [x.pos]) ++ (x.patch.filter fun p => p.kind == 0).map fun p => p.seg

/-- Whether an engine can take a command (R108): 32 of the copy engine, 64 of the link engine. -/
def dmaRoom (s : State) (e key : Nat) : Bool := decide ((dmaOf s e key).length < (if e = 1 then 32 else 64))

def acceptDma (e key : Nat) (c : Cmd) (packet : Option (Nat × Nat)) (s : State) : State :=
  putDma s e key (dmaOf s e key ++ [⟨c, packet, 0, [], false⟩])

end Sys2Proof.Machine
end

