-- ==== Sys2Proof/Machine/SweepUnit.lean ====
section
/-! DEFINITION. The sweep engine: declarations (R270 to R275), runs and sweeps (R276 to R279, R284, R287, R289), commits
and neighbour checks (R280 to R283), wakes (R285, R286, R288), the decision (R290), stops and patch lists (R293 to R296). -/

namespace Sys2Proof.Machine

def swOf (s : State) (core : Nat) : SwSt := sget SwSt.reset s.sw core

/-- The sweep engine of a core acting for the workgroup it serves. -/
def swEng (s : State) (core : Nat) : Eng :=
  let wk := wkey core ((swOf s core).wg.getD 0)
  ⟨core, 3, match sfind s.wgs wk with | some w => w.asid | none => 0, wk, none, none⟩

/-! ### Accesses -/

/-- The entries of a patch list proper: an access that waits behind a hold has kind 0 and counts as none (R174). -/
def faultsOf (x : SwSt) : Nat := (x.patch.filter fun p => p.kind != 0).length

/-- Whether an access of the engine waits. -/
def swBlocked (x : SwSt) : Bool := x.patch.any fun p => p.kind == 0

/-- Add what an access could not do to the patch list (R295); an access that only waits has kind 0. -/
def patchOn (core : Nat) (w : SwWork) (r : EngRes) (s : State) : State :=
  match r with
  | .fault k va => modSw s core fun x => { x with patch := x.patch ++ [⟨w, k, va⟩] }
  | .wait => modSw s core fun x => { x with patch := x.patch ++ [⟨w, 0, 0⟩] }
  | _ => s

/-- A package-scope atomic of an engine on an aligned word (R282): what came of it and the old word; `f` gives the new word,
or none for a read. Consumed poison and a failed transfer end in `dead` (R130, R132) (DEDUCED, log 22). -/
def swRmw (g : Eng) (a : Access) (va n : Nat) (f : Nat → Option Nat) (s : State) : EngRes × State × Nat :=
  let s0 := surrenderLine s g.core g.asid va
  if isWrite a && frozen s0 g.asid va then (.wait, noteRefused va s0, 0)
  else match heldBy s0 g.asid va with
    | some _ => (.wait, s0, 0)
    | none =>
      match translate s0 g.asid va a with
      | (.error e, s1) =>
        let r := engRes g a va (.fault e) s1
        (r.1, r.2, 0)
      | (.ok l, s1) =>
        let pa := leafPa l va
        match request g.asid g.core va pa s1 with
        | (.ready, s1) =>
          let s2 := touchSidecar g.asid l.ck pa s1
          let d := ctrlReadLine s2 l.ck pa
          let old := bytesAt d.1 (pa % 128) n
          if (poisonedAt va n d.2).isSome && a != .write then (.dead va pa, consumeAt g.asid g.wk va s2, 0)
          else match f old with
            | some x =>
              (.ok, ctrlWriteLine s2 l.ck pa (byteMask (pa % 128) n) (lineAt (pa % 128) (leBytes n x)) 0, old)
            | none => (.ok, s2, old)
        | (.linkDown p, s1) => (.dead va p, transferFails g.asid g.core va p s1, 0)
        | (_, s1) => (.wait, s1, 0)

/-- Bytes an engine reads for itself; poison among them is consumed. -/
def swRead (g : Eng) (va n : Nat) (s : State) : EngRes × State × List Byte :=
  match engRead g 0 va n s with
  | (.ok, s1, bs, false) => (.ok, s1, bs)
  | (.ok, s1, _, true) => (.dead va 0, consumeAt g.asid g.wk (poisonedIn g.core g.asid va n s) s1, [])
  | (.dead va pa, s1, _, _) => (.dead va pa, transferFails g.asid g.core va pa s1, [])
  | (r, s1, _, _) => (r, s1, [])

/-! ### Declarations -/

/-- The parts of a declaration block (R270). -/
def declOf (blk part mapoff : Nat) (b : List Byte) : SwDecl :=
  let f (o n : Nat) := bytesAt b o n
  { blk := blk, dbase := f 0 8, cbase := f 8 8, rank := f 0x10 1, csize := f 0x11 1, nnbr := f 0x12 1, nwatch := f 0x13 1
    scope := f 0x14 1, esize := f 0x15 1, ext := [f 0x18 4, f 0x1C 4, f 0x20 4]
    st := [toSigned 64 (f 0x28 8), toSigned 64 (f 0x30 8), toSigned 64 (f 0x38 8)]
    off := (List.range 4).map fun k => (List.range 3).map fun j => toSigned 16 (f (0x40 + 8 * k + 2 * j) 2)
    watch := f 0x60 8, ptab := f 0x68 8, pcount := f 0x70 2, dstat := f 0x78 8
    part := part, mapoff := mapoff, first := 0, count := 0, wplane := 0 }

/-- The number of elements of a tensor. -/
def swCount (d : SwDecl) : Nat := d.ext.foldl (fun n x => n * x) 1

/-- Whether a block obeys R270, but for the target of DSTAT; `blk` is its address. -/
def blockOk (b : List Byte) (d : SwDecl) : Bool :=
  let zero (o n : Nat) : Bool := bytesAt b o n == 0
  let mult (x : Int) (n : Nat) : Bool := x % n == 0
  let va (x : Nat) : Bool := decide (x < 2 ^ 57)
  d.blk % 256 == 0
    && zero 0x16 2 && zero 0x24 4 && zero 0x72 6 && zero 0x80 128
    && (d.csize == 4 || d.csize == 8 || d.csize == 16)
    && (d.esize == 1 || d.esize == 2 || d.esize == 4 || d.esize == 8 || d.esize == 16)
    && va d.dbase && va d.cbase && va d.watch && va d.ptab && va d.dstat
    && mult d.dbase d.esize && mult d.cbase d.csize
    && decide (1 ≤ d.rank) && decide (d.rank ≤ 3) && decide (d.nnbr ≤ 4) && decide (d.nwatch ≤ 64)
    && decide (1 ≤ d.scope) && decide (d.scope ≤ 5)
    && d.ext.all (fun x => decide (1 ≤ x)) && ((List.range 3).all fun k => decide (k < d.rank) || d.ext.getD k 0 == 1)
    && decide (swCount d < 2 ^ 32) && d.st.all (fun x => mult x d.esize)
    && ((List.range 4).all fun k => zero (0x46 + 8 * k) 2 && (decide (k < d.nnbr) || zero (0x40 + 8 * k) 8))
    && (if d.nwatch = 0 then d.watch == 0 else d.watch % 16 == 0)
    && d.ptab % 32 == 0 && decide (1 ≤ d.pcount) && decide (d.pcount ≤ 384)
    && (decide (d.pcount = 1) || decide (4 ≤ d.scope)) && d.dstat % 8 == 0

/-- Entry p of a partition table: FIRST, COUNT, WPLANE (R274). -/
def tabEntry (t : List Byte) (p : Nat) : Nat × Nat × Nat :=
  (bytesAt t (32 * p) 8, bytesAt t (32 * p + 8) 8, bytesAt t (32 * p + 16) 8)

def tableOk (d : SwDecl) (t : List Byte) : Bool :=
  let go := (List.range d.pcount).foldl (fun (r : Bool × Nat) p =>
    let e := tabEntry t p
    (r.1 && e.1 == r.2 && decide (1 ≤ e.2.1) && e.2.2 % 8 == 0 && decide (e.2.2 < 2 ^ 57)
      && bytesAt t (32 * p + 26) 6 == 0, r.2 + e.2.1)) (true, 0)
  go.1 && go.2 == swCount d

/-- Whether a piece of a command's reads stands in the patch list already. -/
def piecePatched (x : SwSt) (w : SwWork) (va n : Nat) : Bool :=
  x.patch.any fun p => p.work == w && p.kind != 0 && decide (va ≤ p.va) && decide (p.va < va + n)

/-- What one piece of a command's reads could not do goes to the patch list, one entry for a segment (R175); one entry stands
for all of a command that wait. -/
def patchPiece (core : Nat) (w : SwWork) (r : EngRes) (s : State) : State :=
  match r with
  | .wait => if (swOf s core).patch.any fun p => p.work == w && p.kind == 0 then s else patchOn core w .wait s
  | r => patchOn core w r s

/-- One piece of a command's reads: the flag tells whether its bytes are there. A piece that stands in the patch list is
passed over. -/
def swPiece (core : Nat) (w : SwWork) (va n : Nat) (r : Bool × State × List Byte) : Bool × State × List Byte :=
  if piecePatched (swOf r.2.1 core) w va n then (false, r.2.1, r.2.2)
  else match swRead (swEng r.2.1 core) va n r.2.1 with
    | (.ok, s1, bs) => (r.1, s1, r.2.2 ++ bs)
    | (x, s1, _) => (false, patchPiece core w x s1, r.2.2)

/-- The partition table of a declaration, cut at 4 KiB. -/
def readTable (core : Nat) (w : SwWork) (d : SwDecl) (s : State) : Bool × State × List Byte :=
  (pageSpans d.ptab (32 * d.pcount)).foldl (fun r p => swPiece core w p.1 p.2 r) (true, s, [])
where
  /-- The pieces of a range of up to 12,288 bytes in 4 KiB pages. -/
  pageSpans (va n : Nat) : List (Nat × Nat) :=
    (List.range 4).filterMap fun k =>
      let a := max va ((va / 4096 + k) * 4096)
      let e := min (va + n) ((va / 4096 + k + 1) * 4096)
      if a < e then some (a, e - a) else none

/-- A declaration block, and where it obeys R270 its table: the block's bytes and the table's, with the flag
that tells whether all are there. A piece that faults is recorded and the reads carry on (R175, R275). -/
def readDecl (core : Nat) (w : SwWork) (blk : Nat) (s : State) : Bool × State × List Byte × List Byte :=
  match swPiece core w blk 256 (true, s, []) with
  | (true, s1, b) =>
    let d := declOf blk 0 0 b
    if blockOk b d then
      let r := readTable core w d s1
      (r.1, r.2.1, b, r.2.2)
    else (true, s1, b, [])
  | (false, s1, _) => (false, s1, [], [])

/-- The bytes of one map (R274). -/
def mapBytes (count : Nat) : Nat := (count + 1023) / 1024 * 128

/-- The status of SWDECL: the first code that applies in the order 1, 2, 6, 3, 4, 5 (R275). -/
def declStatus (s : State) (w : Wg) (asid : Nat) (x : SwSt) (b t : List Byte) (d : SwDecl) : Nat :=
  if (x.run = 1 ∨ x.run = 2) ∧ x.dec = 0 then 1
  else if !blockOk b d || !objectLocal s asid d.dstat then 2
  else if d.csize = 16 ∧ !featureOn s 3 then 6
  else if !tableOk d t then 3
  else if d.pcount ≤ d.part then 4
  else if d.mapoff % 128 ≠ 0 ∨ w.scratchLen < d.mapoff + 2 * mapBytes (tabEntry t d.part).2.1 then 5
  else 0

/-- An engine command is done: results, and its flag may clear. -/
def swReady (c : Cmd) (results : List (Nat × W32)) (s : State) : State :=
  modOp c.group c.op (fun o => { o with results := o.results ++ results, lanes := 0, ready := true }) s

/-- Whether an address translates to a target other than local HBM. -/
def translatesElsewhere (s : State) (asid va : Nat) : Bool :=
  match (lookupLeaf s asid va).1 with
  | .ok l => targetOf (leafPa l va) != .hbm
  | .error _ => false

/-! ### Elements -/

def domOf (d : SwDecl) : Domain := ⟨d.dstat, d.ptab, d.pcount⟩

/-- The coordinates of a storage index (R271). -/
def coordsOf (d : SwDecl) (n : Nat) : List Nat :=
  let e0 := d.ext.getD 0 1
  let e1 := d.ext.getD 1 1
  [n % e0, n / e0 % e1, n / (e0 * e1)]

/-- The storage index of coordinates, if they lie inside the tensor. -/
def indexOf (d : SwDecl) (xs : List Int) : Option Nat :=
  if (List.range 3).all fun k => decide (0 ≤ xs.getD k 0) && decide (xs.getD k 0 < d.ext.getD k 1) then
    some ((xs.getD 0 0).toNat + d.ext.getD 0 1 * ((xs.getD 1 0).toNat + d.ext.getD 1 1 * (xs.getD 2 0).toNat))
  else none

/-- The element at offset number k, from 0, of element n, forwards or backwards (R271, R283). -/
def neighbour (d : SwDecl) (n k : Nat) (back : Bool) : Option Nat :=
  indexOf d ((List.range 3).map fun j =>
    let o := (d.off.getD k []).getD j 0
    ((coordsOf d n).getD j 0 : Int) + if back then -o else o)

def dataAddr (d : SwDecl) (n : Nat) : Nat :=
  wrapInt 64 ((List.range 3).foldl (fun a j => a + (coordsOf d n).getD j 0 * d.st.getD j 0) (d.dbase : Int))

def ctxAddr (d : SwDecl) (n : Nat) : Nat := (d.cbase + n * d.csize) % 2 ^ 57

/-- The fields of a context word (R272). -/
def cwState (w : Nat) : Nat := field w 24 8
def cwKind (w : Nat) : Nat := field w 21 3
def cwNbr (w : Nat) : Nat := field w 19 2
def cwThr (w : Nat) : Nat := field w 13 6
def cwSlot (w : Nat) : Nat := field w 13 8

/-- The kind a word has for the engine at SWSTART: a reserved kind, neighbour or slot counts as active (R276). -/
def startKind (d : SwDecl) (w : Nat) : Nat :=
  match cwKind w with
  | 1 => if cwNbr w < d.nnbr then 1 else 0
  | 2 => if cwSlot w < d.nwatch then 2 else 0
  | 3 => 3
  | 4 => 4
  | _ => 0

def inPart (d : SwDecl) (n : Nat) : Bool := decide (d.first ≤ n) && decide (n < d.first + d.count)

/-- Read a context word, as a package-scope atomic (R282). -/
def readCtx (g : Eng) (d : SwDecl) (n : Nat) (s : State) : EngRes × State × Nat :=
  swRmw g .atomic (ctxAddr d n) 4 (fun _ => none) s

/-! ### Maps -/

/-- The place of a map on the core: the proofing map, or the watch map. -/
def mapBase (s : State) (core : Nat) (d : SwDecl) (watch : Bool) : Nat :=
  let off := match sfind s.wgs (wkey core ((swOf s core).wg.getD 0)) with | some w => w.scratchOff | none => 0
  off + d.mapoff + if watch then mapBytes d.count else 0

def mapBit (s : State) (core : Nat) (d : SwDecl) (watch : Bool) (n : Nat) : Bool :=
  let i := n - d.first
  (cellByte (coreSt s core).sp (mapBase s core d watch + i / 8)).toNat.testBit (i % 8)

def setMap (core : Nat) (d : SwDecl) (watch : Bool) (n : Nat) (v : Bool) (s : State) : State :=
  let i := n - d.first
  let a := mapBase s core d watch + i / 8
  let b := (cellByte (coreSt s core).sp a).toNat
  let x := if v then b ||| 2 ^ (i % 8) else b - (if b.testBit (i % 8) then 2 ^ (i % 8) else 0)
  localWrite core .sp [(a, BitVec.ofNat 8 x)] s

/-- A proofing element rises (R283): its bits clear. -/
def rise (core : Nat) (d : SwDecl) (n : Nat) (s : State) : State := setMap core d true n false (setMap core d false n false s)

/-- Whether an element was handed out and is not committed. -/
def inBatch (x : SwSt) (n : Nat) : Bool := x.batches.any fun b => b.lanes.any fun e => e.2 == n

/-- A word as it stands, without an access. -/
def peekWord (s : State) (core va n : Nat) : Nat :=
  match (lookupLeaf s (swEng s core).asid va).1 with
  | .ok l => ofLeBytes (ctrlRead s l.ck (leafPa l va) n)
  | .error _ => 0

/-- Whether the run is decided: what a watch word or a wake would have moved since stays (R290). -/
def runDecided (s : State) (core : Nat) (d : SwDecl) : Bool := (peekWord s core d.dstat 8).testBit 63

/-- Whether an element can be handed out where p stands at or before it: active, or waiting on a slot that was satisfied
at the start of the sweep (R287), and no context read of it outstanding (R295). -/
def canGo (s : State) (core : Nat) (d : SwDecl) (n : Nat) : Bool :=
  let x := swOf s core
  !(x.patch.any fun p => p.work == .pull n) &&
    (!mapBit s core d false n || (mapBit s core d true n && nsHas x.satisfied n))

/-- Whether some element from n on, among the next `k`, can be handed out. -/
def someGo (s : State) (core : Nat) (d : SwDecl) : Nat → Nat → Bool
  | 0, _ => false
  | k + 1, n => canGo s core d n || someGo s core d k (n + 1)

/-! ### Waits -/

/-- Whether a watch slot is satisfied: its word is read as a package-scope acquire (R273, R282). -/
def slotDone (g : Eng) (d : SwDecl) (slot : Nat) (s : State) : EngRes × State × Bool :=
  match swRead g ((d.watch + 16 * slot) % 2 ^ 57) 16 s with
  | (.ok, s1, bs) =>
    match swRmw g .atomic (bytesAt bs 0 8 % 2 ^ 57 / 8 * 8) 8 (fun _ => none) s1 with
    | (.ok, s2, x) => (.ok, acquireScope s2 g.core g.asid 4, decide (bytesAt bs 8 8 ≤ x))
    | (r, s2, _) => (r, s2, false)
  | (r, s1, _) => (r, s1, false)

/-- Whether the wait in an element's word is satisfied (R273). -/
def waitDone (g : Eng) (d : SwDecl) (n w : Nat) (s : State) : EngRes × State × Bool :=
  match cwKind w with
  | 1 =>
    match neighbour d n (cwNbr w) false with
    | none => (.ok, s, true)
    | some y =>
      match readCtx g d y s with
      | (.ok, s1, v) => (.ok, s1, cwKind v == 4 || decide (cwThr w ≤ cwState v))
      | (r, s1, _) => (r, s1, false)
  | 2 => slotDone g d (cwSlot w) s
  | _ => (.ok, s, false)

/-- The elements of the partition that wait on a watch slot, each with its slot as its context word gives it; a context read
that faults goes to the patch list (R295). -/
def watchers (core : Nat) (d : SwDecl) (s : State) : List (Nat × Nat) × State :=
  (List.range d.count).foldl (fun r i =>
    let n := d.first + i
    let x := swOf r.2 core
    if !(mapBit r.2 core d false n && mapBit r.2 core d true n) || (x.patch.any fun p => p.work == .pull n) then r
    else match readCtx (swEng r.2 core) d n r.2 with
      | (.ok, s1, w) => (r.1 ++ [(n, cwSlot w)], s1)
      | (x, s1, _) => (r.1, if faultsOf (swOf s1 core) < 32 then patchOn core (.pull n) x s1 else s1)) ([], s)

/-- Whether the read of a watch slot stands in the patch list. -/
def slotPatched (x : SwSt) (slot : Nat) : Bool := x.patch.any fun p => p.work == .watch slot

/-- The read of one watch slot at the start of a sweep: the elements of a satisfied one are noted, a read that faults is
patched. -/
def rereadSlot (core : Nat) (d : SwDecl) (slot : Nat) (ns : List (Nat × Nat)) (s : State) : State :=
  if slotPatched (swOf s core) slot then s
  else match slotDone (swEng s core) d slot s with
    | (.ok, s1, v) =>
      if v then modSw s1 core fun x =>
        { x with satisfied := ns.foldl (fun m e => if e.2 = slot then nsAdd m e.1 else m) x.satisfied }
      else s1
    | (r, s1, _) => if faultsOf (swOf s1 core) < 32 then patchOn core (.watch slot) r s1 else s1

/-- The re-read of the watch words (R287): the elements that wait on a slot that is satisfied. -/
def rereadWatch (core : Nat) (s : State) : State :=
  match (swOf s core).decl with
  | none => s
  | some d =>
    let r := watchers core d (modSw s core fun x => { x with satisfied := [] })
    (r.1.foldl (fun m e => nsAdd m e.2) ([] : NatSet)).foldl (fun s e => rereadSlot core d e.1 r.1 s) r.2

/-! ### The decision (R290) -/

/-- The fields of the domain status word (R289). -/
def dsDone (x : Nat) : Nat := field x 0 16
def dsStalled (x : Nat) : Nat := field x 16 16
def dsInflight (x : Nat) : Nat := field x 32 16

/-- The decision a value of the word stands for: 0 none, 1 baked, 2 stalled. -/
def decisionOf (d : Domain) (x : Nat) : Nat :=
  if dsDone x = d.pcount then 1
  else if dsDone x + dsStalled x = d.pcount ∧ dsInflight x = 0 then 2 else 0

/-- The CORE field of partition p's entry. -/
def coreAddr (d : Domain) (p : Nat) : Nat := (d.ptab + 32 * p + 24) % 2 ^ 57

/-- Notify the engine that serves a partition of the decision. -/
def tellOne (core : Nat) (d : Domain) (p : Nat) (s : State) : State :=
  match swRmw (swEng s core) .read (coreAddr d p) 2 (fun _ => none) s with
  | (.ok, s1, c) => if c = 0 then s1 else modSw s1 (c - 1) fun x => { x with told := true }
  | (r, s1, _) => patchOn core (.tell d p) r s1

/-- The results of a pull: an element to each lane, in order, and the status word (R278). -/
def pullResults (d s : Opnd) (lanes : List Nat) (got : List (Nat × Nat × Nat)) (status sweep : Nat) : List (Nat × W32) :=
  ((List.range lanes.length).flatMap fun i =>
    let l := lanes.getD i 0
    match got[i]? with
    | some e => resultKeys d 4 l (e.1 + 2 ^ 32 * e.2.1 + 2 ^ 64 * e.2.2)
    | none => resultKeys d 4 l 0xFFFFFFFF)
    ++ resultKeys s 1 0 (status * 2 ^ 30 + sweep % 2 ^ 14 * 2 ^ 16 + got.length)

/-- Take elements for a pull from p on (R278, R287, R295): up to `want` of the next `k`, as (element, word, address). -/
def takeElems (core : Nat) (d : SwDecl) : Nat → Nat → Nat → State → List (Nat × Nat × Nat) × State
  | 0, _, _, s => ([], s)
  | k + 1, n, want, s =>
    if want = 0 ∨ 32 ≤ faultsOf (swOf s core) then ([], s)
    else if canGo s core d n then
      match readCtx (swEng s core) d n s with
      | (.ok, s1, w) =>
        match takeElems core d k (n + 1) (want - 1) (if mapBit s1 core d false n then rise core d n s1 else s1) with
        | (es, s2) => ((n, w, dataAddr d n) :: es, s2)
      | (r, s1, _) => takeElems core d k (n + 1) want (patchOn core (.pull n) r s1)
    else takeElems core d k (n + 1) want s

/-- A workgroup's stop request holds its pulls (R293). -/
def swStopping (s : State) (core : Nat) : Bool :=
  match sfind s.wgs (swEng s core).wk with
  | some w => w.stopping
  | none => true

/-- Answer a pull if it can be (R278): with the decision, or with a batch. The flag tells whether it was. -/
def tryPull (core : Nat) (c : Cmd) (s : State) : Bool × State :=
  let x := swOf s core
  match c.cmd, x.decl with
  | .swpull d st lanes, some e =>
    let ls := lanesOf lanes
    if x.run = 3 then (true, swReady c (pullResults d st ls [] x.dec x.sweep) s)
    else if swStopping s core || x.starting.isSome || x.run != 1 then (false, s)
    else
      match takeElems core e (e.first + e.count - x.p) x.p (min ls.length 32) s with
      | ([], s1) => (false, s1)
      | (got, s1) =>
        let s2 := acquireScope s1 core c.asid e.scope
        let last := got.foldl (fun _ e => e.1) 0
        (true, swReady c (pullResults d st ls got 0 x.sweep) (modSw s2 core fun y =>
          { y with
            p := last + 1
            batches := y.batches ++ [⟨c.group, c.op, (List.range got.length).map fun i =>
              (ls.getD i 0, (got.getD i (0, 0, 0)).1), 0⟩] }))
  | _, _ => (false, s)

/-- Held pulls are answered in the order they were accepted. -/
def answerPulls (core : Nat) (s : State) : State :=
  (swOf s core).pulls.foldl (fun s c =>
    match tryPull core c s with
    | (true, s1) => modSw s1 core fun x => { x with pulls := x.pulls.filter fun y => y != c }
    | (false, s1) => s1) s

/-- The read of a domain status word that SWDECL makes: the flag tells whether it was done. -/
def readDstat (core : Nat) (w : SwWork) (va : Nat) (s : State) : Bool × State :=
  if piecePatched (swOf s core) w va 8 then (false, s)
  else match swRmw (swEng s core) .atomic va 8 (fun _ => none) s with
    | (.ok, s1, _) => (true, s1)
    | (r, s1, _) => (false, patchPiece core w r s1)

/-- SWDECL once its reads are done: the status, and on 0 the new declaration. Pulls that a decided run still holds have its
decision (DEDUCED, log 41). -/
def finishDecl (core : Nat) (c : Cmd) (d : Opnd) (b t : List Byte) (e : SwDecl) (s : State) : State :=
  let g := swEng s core
  match sfind s.wgs g.wk with
  | none => s
  | some w =>
    let st := declStatus s w g.asid (swOf s core) b t e
    let p := tabEntry t e.part
    let s1 := if st = 0 ∧ (swOf s core).dec ≠ 0 then answerPulls core (modSw s core fun x => { x with run := 3 }) else s
    swReady c (resultKeys d 1 0 st) (modSw s1 core fun x =>
      let y := { x with declOut := x.declOut - 1 }
      if st = 0 then
        { y with
          declOk := true, decl := some { e with first := p.1, count := p.2.1, wplane := p.2.2 }
          run := 0, dec := 0, p := 0, sweep := 0, baked := 0, marks := [], groups := [], batches := []
          satisfied := [], told := false, done := false }
      else y)

/-- SWDECL (R275): the block, the table, and the domain status word, which is read once, but where it lies outside local HBM,
which is status 2. -/
def doDecl (core : Nat) (c : Cmd) (d : Opnd) (blk part mapoff : Nat) (s : State) : State :=
  match readDecl core (.decl c) blk s with
  | (ok, s1, b, t) =>
    let e := declOf blk part mapoff b
    let r := if !b.isEmpty && blockOk b e && !translatesElsewhere s1 (swEng s1 core).asid e.dstat then
        readDstat core (.decl c) e.dstat s1
      else (true, s1)
    if ok && r.1 then finishDecl core c d b t e r.2 else r.2

/-- The value of the completion word of the run an engine knows to be decided. -/
def wordVal (x : SwSt) : Nat := x.dec * 2 ^ 62 + x.cval

/-- Write a completion word, with release, and answer the pulls of its run (R290, steps 2 and 3). -/
def writeWord (core addr val : Nat) (s : State) : State :=
  let s0 := releaseScope s core (swEng s core).asid 4
  match swRmw (swEng s core) .write addr 8 (fun _ => some val) s0 with
  | (.ok, s1, _) =>
    let x := swOf s1 core
    if x.dec ≠ 0 ∧ x.waddr = addr ∧ wordVal x = val then
      answerPulls core (modSw s1 core fun x => { x with run := 3, told := false })
    else s1
  | (r, s1, _) => patchOn core (.word addr val) r s1

/-- An engine learns the decision from the domain status word, read as a package-scope acquire (R290). -/
def learn (core : Nat) (s : State) : State :=
  let x := swOf s core
  match x.decl with
  | none => s
  | some d =>
    if x.run = 0 ∨ x.run = 3 ∨ x.dec ≠ 0 then s
    else match swRmw (swEng s core) .atomic d.dstat 8 (fun _ => none) s with
      | (.ok, s0, v) =>
        let s1 := acquireScope s0 core (swEng s0 core).asid 4
        if v.testBit 63 then
          let s2 := modSw s1 core fun x => { x with dec := if dsDone v = d.pcount then 1 else 2 }
          writeWord core x.waddr (wordVal (swOf s2 core)) s2
        else s1
      | (r, s1, _) => patchOn core .readStat r s1

/-- After an update of a domain status word to `x`: the first to find the run decided sets DECIDED, notifies the engines
of the run, and learns at once if it serves one of its partitions (R290). -/
def testDecision (core : Nat) (d : Domain) (x : Nat) (s : State) : State :=
  if decisionOf d x = 0 || x.testBit 63 then s
  else match swRmw (swEng s core) .atomic d.dstat 8 (fun v => some (v ||| 2 ^ 63)) s with
    | (.ok, s1, _) =>
      let s2 := (List.range d.pcount).foldl (fun s p => tellOne core d p s) s1
      if ((swOf s2 core).decl.map domOf) = some d then learn core s2 else s2
    | (_, s1, _) => s1

/-- Add to the counts of a domain status word, INFLIGHT, STALLED, DONE: a package-scope atomic with acquire and release
(R289). -/
def addStat (core : Nat) (d : Domain) (inflight stalled done : Int) (again : SwWork) (s : State) : State × Bool :=
  let f (v : Nat) : Nat :=
    v / 2 ^ 48 * 2 ^ 48 + wrapInt 16 (dsInflight v + inflight) * 2 ^ 32 + wrapInt 16 (dsStalled v + stalled) * 2 ^ 16
      + wrapInt 16 (dsDone v + done)
  let g := swEng s core
  match swRmw g .atomic d.dstat 8 (fun v => some (f v)) (releaseScope s core g.asid 4) with
  | (.ok, s1, v) => (testDecision core d (f v) (acquireScope s1 core g.asid 4), true)
  | (r, s1, _) => (patchOn core again r s1, false)

/-! ### Wakes (R286) -/

/-- Whether the wakes of an SWWAKE are all done: no notice and no patch entry of it is left. -/
def wakesLeft (s : State) (group op : Nat) : Bool :=
  s.sw.any fun e =>
    (e.2.notices.any fun n => n.wake.group == group && n.wake.op == op)
      || e.2.patch.any fun p => match p.work with
          | .send w _ => w.group == group && w.op == op
          | .wake c _ => c.group == group && c.op == op
          | _ => false

def wakeOver (w : WakeTo) (s : State) : State :=
  if w.op = 0 ∨ wakesLeft s w.group w.op then s
  else modOp w.group w.op (fun o => { o with lanes := 0, ready := true }) s

/-- Step 4. -/
def wakeStep4 (core : Nat) (w : WakeTo) (s : State) : State := wakeOver w (addStat core w.dom (-1) 0 0 (.send w 4) s).1

/-- Step 3: the target's engine is notified, or there is none. -/
def wakeStep3 (core : Nat) (w : WakeTo) (s : State) : State :=
  match swRmw (swEng s core) .read (coreAddr w.dom w.part) 2 (fun _ => none) s with
  | (.ok, s1, c) =>
    if c = 0 then wakeStep4 core w s1 else modSw s1 (c - 1) fun x => { x with notices := x.notices ++ [⟨core, w⟩] }
  | (r, s1, _) => patchOn core (.send w 3) r s1

/-- Step 2. -/
def wakeStep2 (core : Nat) (w : WakeTo) (s : State) : State :=
  match swRmw (swEng s core) .atomic w.plane 8 (fun v => some (v ||| 2 ^ w.bit)) s with
  | (.ok, s1, _) => wakeStep3 core w s1
  | (r, s1, _) => patchOn core (.send w 2) r s1

/-- A wake from a step on. -/
def sendWake (core : Nat) (w : WakeTo) (step : Nat) (s : State) : State :=
  match step with
  | 2 => wakeStep2 core w s
  | 3 => wakeStep3 core w s
  | 4 => wakeStep4 core w s
  | _ =>
    match addStat core w.dom 1 0 0 (.send w 1) s with
    | (s1, true) => wakeStep2 core w s1
    | (s1, false) => s1

/-- The wake of element n, found in a partition table. -/
def wakeFor (d : SwDecl) (t : List Byte) (n group op : Nat) : Option WakeTo :=
  (List.range d.pcount).findSome? fun p =>
    let e := tabEntry t p
    if e.1 ≤ n ∧ n < e.1 + e.2.1 then
      let i := n - e.1
      some ⟨domOf d, p, (e.2.2 + 8 * (i / 64)) % 2 ^ 57, i % 64, group, op⟩
    else none

/-! ### Commits and checks (R280 to R283) -/

/-- The neighbour check of y for offset number k, from 0 (R283). -/
def checkOne (core : Nat) (y k : Nat) (s : State) : State :=
  let x := swOf s core
  match x.decl with
  | none => s
  | some d =>
    match neighbour d y k true with
    | none => s
    | some n =>
      let again (r : EngRes) (s : State) : State := patchOn core (.check y k) r s
      if inPart d n then
        if inBatch x n then modSw s core fun x => { x with marks := nsAdd x.marks n }
        else if !mapBit s core d false n then s
        else match readCtx (swEng s core) d n s with
          | (.ok, s1, w) =>
            if cwKind w = 1 ∧ cwNbr w = k then
              match waitDone (swEng s1 core) d n w s1 with
              | (.ok, s2, true) => rise core d n s2
              | (.ok, s2, false) => s2
              | (r, s2, _) => again r s2
            else s1
          | (r, s1, _) => again r s1
      else match readCtx (swEng s core) d n s with
        | (.ok, s1, w) =>
          if cwKind w = 1 ∧ cwNbr w = k then
            match waitDone (swEng s1 core) d n w s1 with
            | (.ok, s2, true) =>
              match readTable core (.check y k) d s2 with
              | (true, s3, t) => match wakeFor d t n 0 0 with
                | some dest => sendWake core dest 1 s3
                | none => s3
              | (false, s3, _) => s3
            | (.ok, s2, false) => s2
            | (r, s2, _) => again r s2
          else s1
        | (r, s1, _) => again r s1

/-- The word a commit writes (R280). -/
def commitWord (kind w : Nat) : Nat :=
  let low := w % 2 ^ 13
  let top := w / 2 ^ 24 % 2 ^ 8 * 2 ^ 24
  match kind with
  | 2 => top + 4 * 2 ^ 21 + low
  | 3 => top + low
  | _ => w

/-- An SWPARK of element n with word w: it rises at once, or becomes proofing (R280). -/
def parkElem (core : Nat) (d : SwDecl) (n w : Nat) (s : State) : State :=
  let x := swOf s core
  if nsHas x.marks n then s
  else
    let proof (s : State) : State :=
      let s1 := setMap core d false n true s
      if cwKind w = 2 then setMap core d true n true s1 else s1
    match waitDone (swEng s core) d n w s with
    | (.ok, s1, true) => s1
    | (.ok, s1, false) => proof s1
    | (r, s1, _) => patchOn core (.apply n) r (proof s1)

/-- The element of a batch is committed. -/
def leaveBatch (c : Cmd) (lane n : Nat) (x : SwSt) : SwSt :=
  { x with
    marks := nsDel x.marks n
    batches := (x.batches.map fun b =>
      if b.group == c.group then { b with lanes := b.lanes.filter fun e => e != (lane, n) } else b).filter
        fun b => !b.lanes.isEmpty }

/-- One commit (R280). -/
def commitOne (core : Nat) (c : Cmd) (kind lane n w : Nat) (s : State) : State :=
  match (swOf s core).decl with
  | none => s
  | some d =>
    match swRmw (swEng s core) .atomic (ctxAddr d n) 4 (fun _ => some (commitWord kind w)) s with
    | (.ok, s1, _) =>
      let s2 := match kind with
        | 2 => modSw (setMap core d false n true s1) core fun x => { x with baked := x.baked + 1 }
        | 3 => s1
        | _ => parkElem core d n w s1
      iter d.nnbr (fun k s => checkOne core n k s) (modSw s2 core (leaveBatch c lane n))
    | (r, s1, _) => patchOn core (.commit c kind lane n w) r s1

/-- Whether commits of a command stand in the patch list. -/
def commitsLeft (x : SwSt) (c : Cmd) : Bool :=
  x.patch.any fun p => match p.work with
    | .commit c' _ _ _ _ => c' == c
    | _ => false

def commitOver (core : Nat) (c : Cmd) (s : State) : State :=
  if commitsLeft (swOf s core) c then s else swReady c [] s

/-- The commits of one instruction (R280, R282): each lane's element and word. -/
def doCommit (core : Nat) (c : Cmd) (kind : Nat) (lanes : List (Nat × Nat × Nat)) (s : State) : State :=
  match (swOf s core).decl with
  | none => s
  | some d =>
    let s1 := releaseScope s core c.asid d.scope
    commitOver core c (lanes.foldl (fun s e => commitOne core c kind e.1 e.2.1 e.2.2 s) s1)

/-! ### Merges (R286) -/

/-- The wake that reached element n of the partition: the flag tells whether it rose. -/
def applyWake (core : Nat) (d : SwDecl) (n : Nat) (s : State) : Bool × State :=
  let x := swOf s core
  if runDecided s core d then (false, s)
  else if inBatch x n then (false, modSw s core fun x => { x with marks := nsAdd x.marks n })
  else if !inPart d n || !mapBit s core d false n then (false, s)
  else match readCtx (swEng s core) d n s with
    | (.ok, s1, w) =>
      match cwKind w with
      | 3 => (true, rise core d n s1)
      | 4 => (false, s1)
      | _ => match waitDone (swEng s1 core) d n w s1 with
        | (.ok, s2, true) => (true, rise core d n s2)
        | (.ok, s2, false) => (false, s2)
        | (r, s2, _) => (false, patchOn core (.apply n) r s2)
    | (r, s1, _) => (false, patchOn core (.apply n) r s1)

/-- Apply the bits of one plane word. -/
def applyWord (core : Nat) (d : SwDecl) (j v : Nat) (r : Bool × State) : Bool × State :=
  (List.range 64).foldl (fun r b =>
    if v.testBit b then
      let t := applyWake core d (d.first + 64 * j + b) r.2
      (r.1 || t.1, t.2)
    else r) r

/-- Swap plane words with zero and apply them; a fault leaves the rest to a later merge. -/
def mergeWords (core : Nat) (d : SwDecl) : Nat → Nat → Bool × State → Bool × State
  | 0, _, r => r
  | k + 1, j, r =>
    match swRmw (swEng r.2 core) .atomic ((d.wplane + 8 * j) % 2 ^ 57) 8 (fun _ => some 0) r.2 with
    | (.ok, s1, v) => mergeWords core d k (j + 1) (applyWord core d j v (r.1, s1))
    | (x, s1, _) => (r.1, patchOn core .merge x s1)

/-- The next sweep begins (R287, R289). -/
def newSweep (core : Nat) (s : State) : State :=
  match (swOf s core).decl with
  | none => s
  | some d =>
    rereadWatch core (modSw s core fun x =>
      { x with run := 1, sweep := min (x.sweep + 1) (2 ^ 32 - 1), p := d.first, satisfied := [] })

/-- A stalled partition moves again: STALLED falls by 1 and a new sweep begins (R286, R289). -/
def unstall (core : Nat) (s : State) : State :=
  match (swOf s core).decl with
  | none => s
  | some d =>
    if (swOf s core).run = 2 ∧ !runDecided s core d then newSweep core (addStat core (domOf d) 0 (-1) 0 (.stat (-1) 0) s).1 else s

/-- After a merge or a watch re-read: a stalled partition moves again where an element rose, or where its patch list is not
empty, for then it is not stalled (R286, R289, R295). -/
def unstallIf (core : Nat) (rose : Bool) (s : State) : State := if rose || !(swOf s core).patch.isEmpty then unstall core s else s

/-- The engine merges its plane. -/
def mergePlane (core : Nat) (s : State) : State :=
  match (swOf s core).decl with
  | none => s
  | some d =>
    let r := mergeWords core d ((d.count + 63) / 64) 0 (false, s)
    unstallIf core r.1 r.2

/-- Whether the engine still serves the partition a wake names. -/
def serves (x : SwSt) (w : WakeTo) : Bool :=
  (x.run == 1 || x.run == 2) &&
    match x.decl with
    | some d => decide (domOf d = w.dom) && d.part == w.part
    | none => false

/-- The core that takes step 4 of a wake: the sender's, or the notified one where the sender's engine has left the tensor's
context since (DEDUCED, log 54). -/
def ackCore (s : State) (core : Nat) (n : Notice) : Nat :=
  if (swOf s n.core).wg.isSome ∧ (swEng s n.core).asid = (swEng s core).asid then n.core else core

/-- The notices an engine holds are acknowledged (R286, step 4). -/
def ackNotices (core : Nat) (s : State) : State :=
  (swOf s core).notices.foldl (fun s n => wakeStep4 (ackCore s core n) n.wake s)
    (modSw s core fun y => { y with notices := [] })

/-- Notifications are taken: a merge if the engine serves a partition they name, then the acknowledgements (R286). Before the
context reads of SWSTART are done the engine does not merge (R276). -/
def takeNotices (core : Nat) (s : State) : State :=
  let x := swOf s core
  if x.notices.isEmpty || x.starting.isSome then s
  else
    let s1 := modSw (if x.notices.any fun n => serves x n.wake then mergePlane core s else s) core fun y =>
      { y with notices := [] }
    x.notices.foldl (fun s n => wakeStep4 (ackCore s core n) n.wake s) s1

/-! ### The end of a sweep (R289) -/

/-- The sweep is over: nothing at or after p can go, and every batch is committed. -/
def sweepOver (s : State) (core : Nat) (x : SwSt) (d : SwDecl) : Bool :=
  x.run == 1 && x.starting.isNone && !x.done && x.batches.isEmpty && !someGo s core d (d.first + d.count - x.p) x.p

/-- Whether a plane word of the partition holds a bit. -/
def planeBits (s : State) (core : Nat) (d : SwDecl) : Bool :=
  (List.range ((d.count + 63) / 64)).any fun j =>
    let a := (d.wplane + 8 * j) % 2 ^ 57
    match (lookupLeaf s (swEng s core).asid a).1 with
    | .ok l => ofLeBytes (ctrlRead s l.ck (leafPa l a) 8) != 0
    | .error _ => false

/-- The partition is stalled: STALLED + 1; where that faults, the patch list is not empty and the next sweep begins. -/
def stallSweep (core : Nat) (d : SwDecl) (s : State) : State :=
  match addStat core (domOf d) 0 1 0 .readStat (modSw s core fun x => { x with run := 2 }) with
  | (s1, true) => s1
  | (s1, false) => newSweep core s1

/-- The action at the end of a sweep (R289); while an access of the engine waits it waits too. -/
def endSweep (core : Nat) (s : State) : State :=
  let x := swOf s core
  match x.decl with
  | none => s
  | some d =>
    if !sweepOver s core x d || swBlocked x then s
    else if x.baked = d.count ∧ x.patch.isEmpty then
      (addStat core (domOf d) 0 0 1 (.stat 0 1) (modSw s core fun x => { x with done := true })).1
    else
      let s1 := rereadWatch core s
      if someGo s1 core d d.count d.first || !(swOf s1 core).patch.isEmpty || planeBits s1 core d then newSweep core s1
      else stallSweep core d s1

/-- Pulls are answered and ended sweeps acted upon. -/
def settleSweep (core : Nat) (s : State) : State := answerPulls core (endSweep core (answerPulls core s))

/-! ### SWSTART (R276) -/

/-- The context reads of SWSTART for elements n on, up to `k` (one element's read that faults is patched with the rest of
its 4 KiB, and the reads go on after it). -/
def readStart (core : Nat) (d : SwDecl) : Nat → Nat → State → State
  | 0, _, s => s
  | k + 1, n, s =>
    let blk (m : Nat) := ctxAddr d m / 4096
    if (swOf s core).patch.any fun p => match p.work with | .start m => decide (m < n) && blk m == blk n | _ => false then
      readStart core d k (n + 1) s
    else match readCtx (swEng s core) d n s with
      | (.ok, s1, w) =>
        let kd := startKind d w
        let s2 := setMap core d true n (kd == 2) (setMap core d false n (kd != 0) s1)
        readStart core d k (n + 1) (if kd = 4 then modSw s2 core fun x => { x with baked := x.baked + 1 } else s2)
      | (r, s1, _) => readStart core d k (n + 1) (patchOn core (.start n) r s1)

def startLeft (x : SwSt) (merge : Bool) : Bool :=
  x.patch.any fun p => match p.work with
    | .start _ => true
    | .core _ => true
    | .merge => merge
    | .apply _ => merge
    | _ => false

/-- Once the reads are done the plane is merged, and sweep 1 begins. -/
def finishStart (core : Nat) (s : State) : State :=
  match (swOf s core).starting with
  | none => s
  | some c =>
    if startLeft (swOf s core) false then s
    else
      let s1 := mergePlane core s
      if startLeft (swOf s1 core) true then s1
      else swReady c [] (newSweep core (modSw s1 core fun x => { x with starting := none }))

/-- Write CORE of the partition's entry. -/
def writeCore (core x : Nat) (s : State) : State :=
  match (swOf s core).decl with
  | none => s
  | some d =>
    match swRmw (swEng s core) .write (coreAddr (domOf d) d.part) 2 (fun _ => some x) s with
    | (.ok, s1, _) => s1
    | (r, s1, _) => patchOn core (.core x) r s1

def doStart (core : Nat) (c : Cmd) (wrd val : Nat) (s : State) : State :=
  match (swOf s core).decl with
  | none => s
  | some d =>
    let s1 := modSw s core fun x =>
      { x with
        run := 1, dec := 0, starting := some c, waddr := wrd, cval := val % 2 ^ 62, p := d.first, sweep := 0, baked := 0
        marks := [], satisfied := [], told := false, done := false }
    finishStart core (readStart core d d.count d.first (writeCore core (core + 1) s1))

/-! ### SWWAKE and SWSTAT -/

/-- The wake of one lane of SWWAKE (R286, R288). -/
def wakeLane (core : Nat) (c : Cmd) (blk lane n : Nat) (s : State) : State :=
  match readDecl core (.wake c lane) blk s with
  | (true, s1, b, t) =>
    match wakeFor (declOf blk 0 0 b) t n c.group c.op with
    | some w => sendWake core w 1 s1
    | none => s1
  | (false, s1, _, _) => s1

def wakeCmdOver (c : Cmd) (s : State) : State := if wakesLeft s c.group c.op then s else swReady c [] s

def doWake (core : Nat) (c : Cmd) (blk : Nat) (lanes : List (Nat × Nat)) (s : State) : State :=
  wakeCmdOver c (lanes.foldl (fun s e => wakeLane core c blk e.1 e.2 s) s)

/-- The four words of SWSTAT (R291). -/
def statWords (s : State) (core : Nat) : List Nat :=
  let x := swOf s core
  let active := match x.decl with
    | some d =>
      if x.run = 0 then 0
      else (List.range d.count).foldl (fun m i => if mapBit s core d false (d.first + i) then m else m + 1) 0
    | none => 0
  [(if x.dec = 0 then x.run else 3) * 2 ^ 30 + x.dec * 2 ^ 28 + min (faultsOf x) 32 * 2 ^ 22 + x.groups.length * 2 ^ 19,
    x.sweep, x.baked, active]

/-! ### Commands and replay -/

/-- Whether the queue can take a command (R108): 16 entries. -/
def swRoom (s : State) (core : Nat) : Bool :=
  let n := s.groups.foldl (fun n e =>
    if keyCore e.1 = core then
      n + (e.2.ops.filter fun o => !o.ready && match o.kind with | .engine 2 1 => true | _ => false).length
    else n) 0
  decide (n < 16)

/-- The sweep engine does a command. -/
def doSw (core : Nat) (c : Cmd) (s : State) : State :=
  match c.cmd with
  | .swdecl d blk part mapoff => doDecl core c d blk part mapoff s
  | .swstart wrd val => settleSweep core (doStart core c wrd val s)
  | .swpull _ _ _ => takePull core (modSw s core fun x => { x with pulls := x.pulls ++ [c] })
  | .swcommit kind lanes => settleSweep core (doCommit core c kind lanes s)
  | .swwake blk lanes => settleSweep core (doWake core c blk lanes s)
  | .swstat d => swReady c (resultKeys d 4 0 (ofWords (statWords s core))) s
  | _ => s
where
  /-- An accepted pull of a decided run has its answer; any other is answered when the engine comes to it (R278). -/
  takePull (core : Nat) (s : State) : State := if (swOf s core).run = 3 then answerPulls core s else s
  ofWords : List Nat → Nat
    | [] => 0
    | w :: ws => w % 2 ^ 32 + 2 ^ 32 * ofWords ws

/-- Whether a commit's release waits for an access of its lanes (R282). -/
def swWaits (s : State) (c : Cmd) : Bool :=
  match c.cmd with
  | .swcommit _ lanes => (earlierLeft s c.group c.op (lanes.foldl (fun m e => m ||| laneBit e.1) 0)).isSome
  | _ => false

/-- The commands an engine has accepted are done in order, up to a commit whose release waits. -/
def goSw (core : Nat) : Nat → State → State
  | 0, s => s
  | n + 1, s =>
    match (swOf s core).held with
    | [] => s
    | c :: cs => if swWaits s c then s else goSw core n (doSw core c (modSw s core fun x => { x with held := cs }))

/-- The sweep engine accepts a command, and does what it can. -/
def acceptSw (core : Nat) (c : Cmd) (s : State) : State :=
  let s1 := modSw s core fun x => { x with held := x.held ++ [c] }
  goSw core (swOf s1 core).held.length s1

/-- An engine comes to its held pulls: notices first, then what can be answered (R278, R286). -/
def servePulls (core : Nat) (s : State) : State := settleSweep core (takeNotices core s)

/-- A stalled partition whose engine's patch list holds a fault is not stalled (R295). -/
def wakeStalled (core : Nat) (s : State) : State :=
  let x := swOf s core
  if x.run = 2 ∧ faultsOf x ≠ 0 then unstall core s else s

/-- What sweep engines do at the end of a step: commits whose release waited go on, and a stalled partition with a patch
entry counts as stalled no more. -/
def sweepsGo (s : State) : State :=
  s.sw.foldl (fun s e => wakeStalled e.1 (if e.2.held.isEmpty then s else goSw e.1 e.2.held.length s)) s

/-- Replay one patch entry (R178, R295). A watch slot read after the start of its sweep takes effect at the next (R287). -/
def replaySw (core : Nat) (w : SwWork) (s : State) : State :=
  match w with
  | .decl c => doSw core c s
  | .start n =>
    match (swOf s core).decl with
    | some d =>
      let k := ((List.range d.count).filter fun i =>
        decide (n ≤ d.first + i) && ctxAddr d (d.first + i) / 4096 == ctxAddr d n / 4096).length
      readStart core d k n s
    | none => s
  | .pull n =>
    match (swOf s core).decl with
    | some d => match readCtx (swEng s core) d n s with
      | (.ok, s1, _) => s1
      | (r, s1, _) => patchOn core (.pull n) r s1
    | none => s
  | .commit c kind lane n x => commitOver core c (commitOne core c kind lane n x s)
  | .check n k => checkOne core n k s
  | .apply n =>
    match (swOf s core).decl with
    | some d =>
      let r := applyWake core d n s
      unstallIf core r.1 r.2
    | none => s
  | .wake c lane =>
    match c.cmd with
    | .swwake blk lanes =>
      wakeCmdOver c ((lanes.filter fun e => e.1 == lane).foldl (fun s e => wakeLane core c blk e.1 e.2 s) s)
    | _ => s
  | .send w step => wakeOver w (sendWake core w step s)
  | .tell d p => tellOne core d p s
  | .core x => writeCore core x s
  | .stat a b =>
    match (swOf s core).decl with
    | some d => (addStat core (domOf d) 0 a b (.stat a b) s).1
    | none => s
  | .readStat => learn core s
  | .merge => mergePlane core s
  | .word addr val => writeWord core addr val s
  | .watch slot =>
    match (swOf s core).decl with
    | some d => match slotDone (swEng s core) d slot s with
      | (.ok, s1, _) => s1
      | (r, s1, _) => patchOn core (.watch slot) r s1
    | none => s

/-- Replay the patch entries of a core's engine that a test picks, in order; then the engine goes on (DEDUCED, log 41). -/
def replaySweep (core : Nat) (pick : SwPatch → Bool) (s : State) : State :=
  let todo := (swOf s core).patch.filter pick
  if todo.isEmpty then s
  else
    let s1 := todo.foldl (fun s p =>
      replaySw core p.work (modSw s core fun x => { x with patch := x.patch.filter fun q => q != p })) s
    settleSweep core (finishStart core s1)

/-! ### Stop and restore (R293, R294) -/

/-- The engine stops for a workgroup: CORE becomes 0, and a stalled partition counts as stalled no more. -/
def stopSweep (core : Nat) (s : State) : State :=
  let x := swOf s core
  match x.decl with
  | none => s
  | some d =>
    if x.run = 0 then s
    else
      let s1 := writeCore core 0 s
      if x.run = 2 then
        modSw (addStat core (domOf d) 0 (-1) 0 (.stat (-1) 0) s1).1 core fun x => { x with run := 1 }
      else s1

/-- The engine goes on after a restore: CORE, the domain status word, the plane, then the same sweep. -/
def resumeSweep (core : Nat) (s : State) : State :=
  let x := swOf s core
  if x.run = 0 then s
  else
    let s1 := writeCore core (core + 1) s
    settleSweep core (if x.run = 3 then s1 else finishStart core (mergePlane core (learn core s1)))

/-- A workgroup that retires has its notices acknowledged, and sets CORE of the partition it served to 0 (R286, R296). -/
def retireSweep (core : Nat) (s : State) : State :=
  let s1 := ackNotices core s
  if (swOf s1 core).run = 0 then s1 else modSw (writeCore core 0 s1) core fun x => { x with run := 0 }

end Sys2Proof.Machine
end

