-- ==== Sys2Proof/Machine/Engines.lean ====
section
/-! DEFINITION. Group 110: engine commands (R440 to R466), their replay windows and acceptance (R108). -/

namespace Sys2Proof.Machine

/-! ### Windows and acceptance (R108) -/

/-- The key of an engine of a core: 0 matrix, 1 copy, 2 sweep; 3 the link engine of its die. -/
def engKey (core e : Nat) : Nat := if e = 3 then dieOf core else core

def engRoom (s : State) (core e : Nat) : Bool :=
  match e with
  | 0 => mxRoom s core
  | 1 => dmaRoom s 1 core
  | 2 => swRoom s core
  | _ => dmaRoom s 3 (dieOf core)

/-- An engine accepts a command: its operation is marked so. -/
def acceptCmd (core e : Nat) (c : Cmd) (s : State) : State :=
  let s1 := modOp c.group c.op (fun o => { o with kind := .engine e 1 }) s
  match e with
  | 0 => acceptMx core c s1
  | 1 => acceptDma 1 core c none s1
  | 2 => acceptSw core c s1
  | _ => acceptDma 3 (dieOf core) c none s1

/-- Whether a FENCE.X of the group issued before a command holds its path (R431). -/
def pathHeld (g : Group) (e op : Nat) : Bool :=
  g.ops.any fun o => decide (o.id < op) && !o.ready &&
    match o.kind with
    | .fenceX _ b => b != 0 && pathEngine b == e
    | _ => false

/-- The commands of a group's window for an engine. -/
def windowOf (g : Group) (e : Nat) : List WinCmd := g.window.filter fun w => w.engine == e

/-- Count a NAK of one of the core's engines (R109); the link engine is its die's. -/
def countNak (core : Nat) (s : State) : State := modCore s core fun c => { c with naks := min (c.naks + 1) 0xFFFF }

/-- Send the commands of a window to their engine in order, up to the first that is held or NAKed. -/
def flushGo (gk e : Nat) : List WinCmd → State → State
  | [], s => s
  | w :: ws, s =>
    match sfind s.groups gk with
    | none => s
    | some g =>
      if pathHeld g e w.cmd.op then s
      else if engRoom s (keyCore gk) e then
        let s1 := modGroup s gk fun g => { g with window := g.window.filter fun x => x.cmd.op != w.cmd.op }
        flushGo gk e ws (acceptCmd (keyCore gk) e w.cmd s1)
      else
        let s1 := modGroup s gk fun g =>
          { g with window := g.window.map fun x => if x.cmd.op = w.cmd.op then { x with naked := true } else x }
        if e = 3 then s1 else countNak (keyCore gk) s1

def flushWindow (gk e : Nat) (s : State) : State :=
  match sfind s.groups gk with
  | none => s
  | some g => flushGo gk e (windowOf g e) s

/-- Whether a window for an engine is full: the run stalls where it is (R108). -/
def windowFull (cx : Cx) (e : Nat) : Bool := decide (4 ≤ (windowOf cx.g e).length)

/-- Send a command: its operation starts, it enters the window, and the engine takes what it can. -/
def send (cx : Cx) (h : Hdr) (e : Nat) (lanes : Mask) (dests : List Nat) (cmd : EngCmd) (s : State) : State :=
  let c : Cmd := ⟨s.nextOp, cx.gk, cx.w.asid, cx.wk, cmd⟩
  let s1 := startOp cx h.f.toNat (.engine e 0) lanes dests [] false s
  let s2 := modGroup s1 cx.gk fun g => { g with window := g.window ++ [⟨e, false, nextInstr cx, cx.run.lanes, c⟩] }
  if (windowOf cx.g e).any fun w => w.naked then s2 else flushWindow cx.gk e s2

/-- Keys of a destination as an operation names them. -/
def destKeys (o : Opnd) (w : Nat) (lanes : Mask) : List Nat :=
  (if isS o then resultKeys o w 0 0 else (lanesOf lanes).flatMap fun l => resultKeys o w l 0).map fun e => e.1

/-- The words of S registers from an operand on, read at issue. -/
def sBlock (cx : Cx) (s : State) (o : Opnd) (n : Nat) : List Nat :=
  match o with
  | .s b => (List.range n).map fun i => (rdS cx s (b.toNat + i)).toNat
  | _ => []

/-! ### OBRES and OBFREE (R441 to R443) -/

/-- The illegal-instruction checks of a record image. -/
def recIllegal (r : List Byte) : Bool :=
  bytesAt r 0x0B 1 != 0 || bytesAt r 0x14 12 != 0 || decide (14 ≤ bytesAt r 8 1) || decide (2 ≤ bytesAt r 10 1)
    || decide (2 < recBlk r) || (recBlk r != 0 && !fmtScaled (bytesAt r 8 1))
    || recBase r % 128 != 0 || recLen r % 128 != 0 || recLen r == 0 || recSoff r % 4 != 0 || recPitch r % 4 != 0

def recForm (o : RM) (a : Role) : Form :=
  { unit := 2, modOk := decide (o.c.toNat < 16), ops := [(o.d, .unused), (o.a, a), (o.b, .unused)] }

/-- OBRES (R442). -/
def execObres (h : Hdr) (o : RM) (s : State) : Host.Outcome State Fault Refusal :=
  issue (recForm o (.sMul 8 504)) h (fun cx s =>
    let r := (sBlock cx s o.a 8).flatMap (leBytes 4)
    if recIllegal r then raiseExc cx 1 0 s
    else if cx.w.obLen < recBase r + recLen r then raiseExc cx 8 (recBase r + recLen r - 1) s
    else fixWrites cx [.obrec o.c.toNat r] s) s

/-- OBFREE (R443). -/
def execObfree (h : Hdr) (o : RM) (s : State) : Host.Outcome State Fault Refusal :=
  issue (recForm o .unused) h (fun cx s => fixWrites cx [.obrec o.c.toNat []] s) s

/-! ### MMA (R254 to R257) -/

/-- Whether a member of a tile reads its own A source, and its own B source (R249). -/
def readsA (bj : Nat) : Bool := bj == 0
def readsB (b : MBlock) (bi : Nat) : Bool := !b.bedge || bi == 0

/-- The illegal-instruction checks of R256 for a member at (bi, bj) of a tile of `r` by `c` engines: the fields of an operand
that it does not read are not range-checked. -/
def mmaIllegal (cx : Cx) (b : MBlock) (ra rb : List Byte) (r c bi bj : Nat) : Bool :=
  let f := recFmt ra
  let f2 := recFmt rb
  let kw := (b.k * fmtBits f + 7) / 8
  b.resv || b.a.resv || b.b.resv || b.asrc == 3 || decide (2 ≤ b.bsrc) || !recValid ra || !recValid rb
    || fmtClass f != fmtClass f2 || (recBlk ra != 0 && !fmtScaled f) || (recBlk rb != 0 && !fmtScaled f2)
    || decide (b.m < 1) || decide (8192 < b.m) || decide (b.k < 1) || decide (8 * r * fmtDepth f < b.k)
    || decide (b.nv < 1) || decide (8 * c < b.nv)
    || (b.k % 2 == 1 && (fmtBits f == 4 || fmtBits f2 == 4))
    || (readsA bj && b.asrc == 2 && (decide (32 < b.m) || decide (128 < kw) || decide (cx.g.vregs < b.areg + (kw + 3) / 4)))
    || (readsA bj && b.asrc == 0 && b.a.rot != 0) || (readsB b bi && b.bsrc == 0 && b.b.rot != 0)
    || b.bond != decide (1 < r * c) || !cx.w.mx
    || (bi + 1 == r && decide (32 * b.dpitch < 8 * accSize f))

/-- The lowest byte outside its space that the member would read or land (R235, R256). -/
def mmaOutside (w : Wg) (b : MBlock) (ra rb : List Byte) (r bi bj : Nat) : Option Nat :=
  let d := peDepth b.k r
  let lo := min (8 * bi * d) b.k
  let hi := min (8 * bi * d + 8 * d) b.k
  let cols := (List.range 8).filterMap fun j => if 8 * bj + j < b.nv then some (8 * bj + j) else none
  let a := if readsA bj then operandOutside w ra b.a b.asrc (List.range b.m) lo hi else none
  let x := if !readsB b bi then none
    else if b.bedge then operandOutside w rb b.b b.bsrc cols 0 b.k else operandOutside w rb b.b b.bsrc cols lo hi
  let sz := accSize (recFmt ra)
  let lands := (List.range b.m).map fun m => (b.dst + m * (32 * b.dpitch), cols.length * sz)
  ([a, x, if bi + 1 = r then outside 0 w.msLen lands else none].filterMap id).min?

/-- The register-sourced A of an MMA: 128 bytes of each lane from V[AREG] up (R255). -/
def regA (cx : Cx) (s : State) (b : MBlock) (words : Nat) : List Byte :=
  (List.range 32).flatMap fun l =>
    fitBytes 128 ((List.range words).flatMap fun j => leBytes 4 (rdV cx s (b.areg + j) l).toNat)

/-- The hazard of R221 on the registers that an MMA reads: those of all 32 lanes (R255). -/
def regHazard (cx : Cx) (areg words : Nat) : Bool :=
  cx.g.trap.hchk && (cx.g.ops.any fun o => o.dests.any fun k =>
    decide (32 * areg ≤ k) && decide (k < 32 * (areg + words)))

/-- The tile a core checks its MMAs against, and the member's place in it (R256, R264, R449). -/
def issueTile (s : State) (core : Nat) : Nat × Nat × Nat × Nat :=
  let x := mxOf s core
  match leaseOf s core with
  | some l =>
    if x.relIssued then (1, 1, 0, 0)
    else match l.members.find? fun m => m.1 == core with
      | some m => (x.itr, x.itc, m.2.1 % x.itr, m.2.2 % x.itc)
      | none => (1, 1, 0, 0)
  | none => (1, 1, 0, 0)

/-- Words of a register-sourced row: at most 128 bytes, whatever a member that does not read them is given (R255). -/
def regWords (b : MBlock) (f : Nat) : Nat := min 32 (((b.k * fmtBits f + 7) / 8 + 3) / 4)

/-- An MMA that passed its checks goes to the engine; `cycles` is what reading registers costs. -/
def sendMma (cx : Cx) (h : Hdr) (ws : List Nat) (ra rb reg : List Byte) (s : State) : State :=
  let s1 := modMx s cx.core fun x => { x with elect := elected cx, slot := cx.run.slot }
  send cx h 0 0 [] (.mma ws ra rb reg (elected cx)) s1

def mmaEff (h : Hdr) (o : R4) (cx : Cx) (s : State) : State :=
  let ws := sBlock cx s o.a 8
  let b := mblock ws
  let ra := cx.w.obrecs.getD b.ares []
  let rb := cx.w.obrecs.getD b.bres []
  let t := issueTile s cx.core
  if mmaIllegal cx b ra rb t.1 t.2.1 t.2.2.1 t.2.2.2 then raiseExc cx 1 0 s
  else match mmaOutside cx.w b ra rb t.1 t.2.2.1 t.2.2.2 with
    | some a => raiseExc cx 8 a s
    | none =>
      if windowFull cx 0 then stall cx s
      else if b.asrc == 2 then
        let n := regWords b (recFmt ra)
        if regHazard cx b.areg n then raiseExc cx 10 0 s
        else if !(windowOf cx.g 0).isEmpty || pathHeld cx.g 0 s.nextOp || !mxRoom s cx.core then stall cx s
        else sendMma cx h ws ra rb (regA cx s b n) (takeCycles cx ((b.k * fmtBits (recFmt ra) + 255) / 256) s)
      else sendMma cx h ws ra rb [] s

/-- MMA (R256, R444). -/
def execMma (h : Hdr) (o : R4) (s : State) : Host.Outcome State Fault Refusal :=
  issue { unit := 2, fcls := .opt, ops := [(o.d, .unused), (o.a, .sMul 8 504), (o.b, .unused), (o.c, .unused)] } h
    (mmaEff h o) s

/-! ### MSMLD and MSMST (R445, R446) -/

/-- The offset of a lane, its low bits cleared. -/
def msmOff (cx : Cx) (s : State) (o : R4) (n l : Nat) : Nat := (rdI cx s o.a l).toNat / n * n

/-- MSMLD (R446). -/
def execMsmld (h : Hdr) (x : Wd) (o : R4) (s : State) : Host.Outcome State Fault Refusal :=
  let w := if x = .w64 then 2 else 1
  issue { unit := 2, fcls := .res
          ops := [(o.d, .dst w true false), (o.a, .src 1 false), (o.b, .unused), (o.c, .unused)] } h
    (fun cx s =>
      let ys := (lanesOf cx.run.lanes).map fun l => (l, msmOff cx s o (4 * w) l)
      match firstOutside cx.w.msLen (ys.map fun e => (e.2, 4 * w)) with
      | some a => raiseExc cx 8 a s
      | none =>
        if windowFull cx 0 then stall cx s
        else send cx h 0 cx.run.lanes (destKeys o.d w cx.run.lanes) (.msmld (decide (w = 2)) o.d ys) s) s

/-- MSMST (R446). -/
def execMsmst (h : Hdr) (x : Wd) (o : R4) (s : State) : Host.Outcome State Fault Refusal :=
  let w := if x = .w64 then 2 else 1
  issue { unit := 2, fcls := .opt
          ops := [(o.d, .src w false), (o.a, .src 1 false), (o.b, .unused), (o.c, .unused)] } h
    (fun cx s =>
      let data (l : Nat) : Nat := if w = 2 then (rdI64 cx s o.d l).toNat else (rdI cx s o.d l).toNat
      let ys := (lanesOf cx.run.lanes).map fun l => (l, msmOff cx s o (4 * w) l, data l)
      match firstOutside cx.w.msLen (ys.map fun e => (e.2.1, 4 * w)) with
      | some a => raiseExc cx 8 a s
      | none =>
        if windowFull cx 0 then stall cx s
        else send cx h 0 0 [] (.msmst (decide (w = 2)) ys) s) s

/-! ### BOND.ACQ and BOND.REL (R447 to R449) -/

/-- Whether bond commands are legal on a core: a lease stands, and the member has not released. -/
def bondLegal (s : State) (core : Nat) : Option Lease :=
  if (mxOf s core).relIssued then none else leaseOf s core

/-- BOND.ACQ (R447, R448). -/
def execBondAcq (h : Hdr) (o : RM) (s : State) : Host.Outcome State Fault Refusal :=
  let lr := field o.c.toNat 2 2
  let lc := field o.c.toNat 0 2
  issue { unit := 2, fcls := .opt, feature := if lr = 3 then some 1 else none
          modOk := decide (o.c.toNat < 16) && lc != 3
          ops := [(o.d, .unused), (o.a, .unused), (o.b, .unused)] } h
    (fun cx s =>
      match bondLegal s cx.core with
      | none => raiseExc cx 1 0 s
      | some l =>
        if l.rows % 2 ^ lr ≠ 0 ∨ l.cols % 2 ^ lc ≠ 0 then raiseExc cx 1 0 s
        else if windowFull cx 0 then stall cx s
        else send cx h 0 0 [] (.bondAcq lr lc) (modMx s cx.core fun x => { x with itr := 2 ^ lr, itc := 2 ^ lc })) s

/-- BOND.REL (R447, R449). -/
def execBondRel (h : Hdr) (o : R4) (s : State) : Host.Outcome State Fault Refusal :=
  issue { unit := 2, fcls := .opt, ops := [(o.d, .unused), (o.a, .unused), (o.b, .unused), (o.c, .unused)] } h
    (fun cx s =>
      match bondLegal s cx.core with
      | none => raiseExc cx 1 0 s
      | some _ =>
        if windowFull cx 0 then stall cx s
        else send cx h 0 0 [] .bondRel (modMx s cx.core fun x => { x with relIssued := true })) s

/-! ### CPY and LXFER (R450 to R463) -/

/-- A command that commits the store buffer of a restartable workgroup first; while the buffer drains the run stalls (R134)
(DEDUCED, log 42). -/
def afterCommit (cx : Cx) (go : Bool) (eff : State → State) (s : State) : State :=
  if !go then eff s
  else
    let s1 := if uncommitted s cx.wk then commitWg cx.wk s else s
    if wgBuffers s1 cx.wk then stall cx s1 else eff s1

/-- CPY's command (R453): under .RS it is seeded with the elected lane's generator, which takes one draw. -/
def sendCpy (cx : Cx) (h : Hdr) (ws : List Nat) (b : CBlock) (s : State) : State :=
  let rs := b.conv && b.rnd == 4
  let s1 := if rs then
      modGroup s cx.gk fun g => onLanes g (laneBit (elected cx)) fun y => { y with gen := drawAt y.gen 0 }
    else s
  send cx h 1 0 [] (.cpy ws (laneOf cx.g (elected cx)).gen) s1

/-- CPY (R450, R454). -/
def execCpy (h : Hdr) (o : R4) (s : State) : Host.Outcome State Fault Refusal :=
  issue { unit := 2, fcls := .opt, ops := [(o.d, .unused), (o.a, .sMul 8 488), (o.b, .unused), (o.c, .unused)] } h
    (fun cx s =>
      let ws := sBlock cx s o.a 24
      let b := cblock ws
      if !cpyLegal b (featureOn s 4) then raiseExc cx 1 0 s
      else match cpyOutside cx.w b with
        | some a => raiseExc cx 8 a s
        | none =>
          if windowFull cx 1 then stall cx s
          else afterCommit cx (b.dsp == 0 || b.wsp == 1) (sendCpy cx h ws b) s) s

/-- The whole values of an LXFER block, and whether it passes the checks of R460. -/
def lxferBlock (ws : List Nat) : List Nat :=
  let w (i : Nat) := ws.getD i 0
  [w 0 + 2 ^ 32 * w 1, w 2 + 2 ^ 32 * w 3, w 4 + 2 ^ 32 * w 5, w 6 + 2 ^ 32 * w 7, w 8 + 2 ^ 32 * w 9, 0]

def lxferLegal (ws : List Nat) : Bool :=
  let b := lxferBlock ws
  let x (i : Nat) := b.getD i 0
  decide (x 0 < 2 ^ 57) && decide (x 1 < 2 ^ 57) && decide (x 2 < 2 ^ 48) && decide (x 3 < 2 ^ 57)
    && ws.getD 10 0 == 0 && ws.getD 11 0 == 0 && x 2 != 0 && x 3 % 8 == 0
    && !rangesMeet (x 0) (x 2) (x 1) (x 2)

/-- LXFER (R459, R460). -/
def execLxfer (h : Hdr) (o : R4) (s : State) : Host.Outcome State Fault Refusal :=
  issue { unit := 2, fcls := .opt, feature := some 7
          ops := [(o.d, .unused), (o.a, .sMul 4 500), (o.b, .unused), (o.c, .unused)] } h
    (fun cx s =>
      let ws := sBlock cx s o.a 12
      if !lxferLegal ws then raiseExc cx 1 0 s
      else if windowFull cx 3 then stall cx s
      else afterCommit cx true (send cx h 3 0 [] (.lxfer (lxferBlock ws))) s) s

/-! ### The sweep commands (R464 to R466) -/

def swForm (c : FCls) (ops : List (Opnd × Role)) : Form := { unit := 2, fcls := c, feature := some 2, ops := ops }

/-- The issue of a sweep command: the workgroup must have the engine (R465), and the window room. -/
def swIssue (f : Form) (h : Hdr) (eff : Cx → State → State) (s : State) : Host.Outcome State Fault Refusal :=
  issue f h (fun cx s =>
    if !cx.w.sw then raiseExc cx 1 0 s
    else if windowFull cx 2 then stall cx s
    else eff cx (modSw s cx.core fun x => { x with wg := some (keyNum cx.wk) })) s

/-- SWDECL (R275, R465): from its issue on no run counts as begun. -/
def execSwdecl (h : Hdr) (o : R4) (s : State) : Host.Outcome State Fault Refusal :=
  swIssue (swForm .res [(o.d, .dst 1 false true), (o.a, .src 2 true), (o.b, .src 1 true), (o.c, .src 1 true)]) h
    (fun cx s =>
      let e := elected cx
      let blk := (rdI64 cx s o.a e).toNat % 2 ^ 57
      send cx h 2 0 (destKeys o.d 1 0) (.swdecl o.d blk (rdI cx s o.b e).toNat (rdI cx s o.c e).toNat)
        (modSw s cx.core fun x => { x with declOut := x.declOut + 1, started := false })) s

/-- SWSTART (R276, R465). -/
def execSwstart (h : Hdr) (o : R4) (s : State) : Host.Outcome State Fault Refusal :=
  swIssue (swForm .opt [(o.d, .unused), (o.a, .src 2 true), (o.b, .src 2 true), (o.c, .unused)]) h
    (fun cx s =>
      let x := swOf s cx.core
      let wrd := (rdI64 cx s o.a (elected cx)).toNat % 2 ^ 57
      if x.declOut != 0 || !x.declOk || x.started || ((x.run == 1 || x.run == 2) && x.dec == 0) || wrd % 8 != 0 then
        raiseExc cx 1 0 s
      else
        afterCommit cx true (fun s =>
          send cx h 2 0 [] (.swstart wrd (rdI64 cx s o.b (elected cx)).toNat)
            (modSw s cx.core fun x => { x with started := true, groups := [], batches := [] })) s) s

/-- Whether a group holds a batch: the flag of the SWPULL that gave it has cleared (R465). -/
def holdsBatch (cx : Cx) (b : Batch) : Bool := b.group == cx.gk && !cx.g.ops.any fun o => o.id == b.op

/-- Whether a group holds an element whose commit has not issued (R279). -/
def holdsElem (cx : Cx) (x : SwSt) : Bool := x.batches.any fun b => holdsBatch cx b && b.lanes.any fun e => !b.sent.getLsbD e.1

/-- SWPULL (R277 to R279). -/
def execSwpull (h : Hdr) (o : R4) (s : State) : Host.Outcome State Fault Refusal :=
  swIssue (swForm .res [(o.d, .out true 4 0), (o.a, .out false 1 511), (o.b, .unused), (o.c, .unused)]) h
    (fun cx s =>
      let x := swOf s cx.core
      if !x.started || holdsElem cx x || (!x.groups.contains cx.gk && decide (4 ≤ x.groups.length)) then
        raiseExc cx 1 0 s
      else
        send cx h 2 cx.run.lanes (destKeys o.d 4 cx.run.lanes ++ destKeys o.a 1 0)
          (.swpull o.d o.a cx.run.lanes)
          (modSw s cx.core fun x => { x with groups := if x.groups.contains cx.gk then x.groups else x.groups ++ [cx.gk] })) s

/-- The element a lane holds at issue (R465): its SWPULL is complete, its commit not issued. -/
def lanesElem (cx : Cx) (x : SwSt) (l : Nat) : Option Nat :=
  x.batches.findSome? fun b =>
    if holdsBatch cx b && !b.sent.getLsbD l then
      (b.lanes.find? fun e => e.1 == l).map fun e => e.2
    else none

/-- The checks of R281 for one lane. -/
def commitLegal (cx : Cx) (x : SwSt) (kind : Nat) (l w : Nat) : Bool :=
  (lanesElem cx x l).isSome &&
    (kind != 1 || match x.decl with
      | some d => match cwKind w with
        | 1 => decide (cwNbr w < d.nnbr)
        | 2 => decide (cwSlot w < d.nwatch)
        | 3 => true
        | _ => false
      | none => false)

/-- The commit of a lane's element issues: the batch that holds it has it no more (R279, R465). -/
def sendLane (cx : Cx) (l : Nat) : List Batch → List Batch
  | [] => []
  | b :: bs =>
    if holdsBatch cx b && !b.sent.getLsbD l && b.lanes.any fun e => e.1 == l then
      { b with sent := b.sent ||| laneBit l } :: bs
    else b :: sendLane cx l bs

/-- SWPARK, SWDONE, SWKEEP (R280, R281). -/
def sweepCommit (kind : Nat) (h : Hdr) (o : R4) (s : State) : Host.Outcome State Fault Refusal :=
  swIssue (swForm .opt [(o.d, .unused), (o.a, .src 1 false), (o.b, .unused), (o.c, .unused)]) h
    (fun cx s =>
      let x := swOf s cx.core
      let ws := (lanesOf cx.run.lanes).map fun l => (l, (rdI cx s o.a l).toNat)
      if !(ws.all fun e => commitLegal cx x kind e.1 e.2) then raiseExc cx 1 0 s
      else
        send cx h 2 cx.run.lanes [] (.swcommit kind (ws.map fun e => (e.1, (lanesElem cx x e.1).getD 0, e.2)))
          (modSw s cx.core fun x => { x with batches := (lanesOf cx.run.lanes).foldl (fun bs l => sendLane cx l bs) x.batches })) s

/-- SWPARK (R280). -/
def execSwpark (h : Hdr) (o : R4) (s : State) : Host.Outcome State Fault Refusal := sweepCommit 1 h o s
/-- SWDONE (R280). -/
def execSwdone (h : Hdr) (o : R4) (s : State) : Host.Outcome State Fault Refusal := sweepCommit 2 h o s
/-- SWKEEP (R280). -/
def execSwkeep (h : Hdr) (o : R4) (s : State) : Host.Outcome State Fault Refusal := sweepCommit 3 h o s

/-- The number of elements of the block SWWAKE names, or what its read does to the run (R466). -/
def wakeCount (cx : Cx) (blk : Nat) (s : State) : Option Nat × State :=
  let x := swOf s cx.core
  match x.decl with
  | some d => if d.blk = blk then (some (swCount d), s) else readCount x
  | none => readCount x
where
  readCount (x : SwSt) : Option Nat × State :=
    if x.readFaults.any fun e => e.1 == cx.gk then (none, stall cx s)
    else match readPieces (agCx cx s) s.nextOp (spans (blk + 0x18) 12) s with
      | (none, s1, bs, none) => (some (bytesAt bs 0 4 * bytesAt bs 4 4 * bytesAt bs 8 4), s1)
      | (none, s1, _, some a) => (none, consumeAt cx.w.asid cx.wk a s1)
      | (some (.fault _ va), s1, _, _) =>
        (none, stall cx (modSw s1 cx.core fun x => { x with readFaults := x.readFaults ++ [(cx.gk, va)] }))
      | (some (.dead pa), s1, _, _) => (none, transferFails cx.w.asid cx.core (blk + 0x18) pa s1)
      | (some _, s1, _, _) => (none, stall cx s1)

/-- SWWAKE (R288, R466). -/
def execSwwake (h : Hdr) (o : R4) (s : State) : Host.Outcome State Fault Refusal :=
  swIssue (swForm .opt [(o.d, .unused), (o.a, .src 2 true), (o.b, .src 1 false), (o.c, .unused)]) h
    (fun cx s =>
      let blk := (rdI64 cx s o.a (elected cx)).toNat % 2 ^ 57
      let ys := (lanesOf cx.run.lanes).map fun l => (l, (rdI cx s o.b l).toNat)
      match wakeCount cx blk s with
      | (none, s1) => s1
      | (some n, s1) =>
        if ys.any fun e => decide (n ≤ e.2) then raiseExc cx 1 0 s1
        else afterCommit cx true (send cx h 2 cx.run.lanes [] (.swwake blk ys)) s1) s

/-- SWSTAT (R291). -/
def execSwstat (h : Hdr) (o : R4) (s : State) : Host.Outcome State Fault Refusal :=
  swIssue (swForm .res [(o.d, .out false 4 508), (o.a, .unused), (o.b, .unused), (o.c, .unused)]) h
    (fun cx s => send cx h 2 0 (destKeys o.d 4 0) (.swstat o.d) s) s

end Sys2Proof.Machine
end

