-- ==== Sys2Proof/Machine/System.lean ====
section
/-! DEFINITION. Group 111, user forms: TRAP, TRET, system registers, CLOCK (R467 to R474); the rows of the opcode table
that name writes of single system registers. -/

namespace Sys2Proof.Machine

/-- TRAP (R467 to R469): the run ends, and the lanes park on a system call. -/
def execTrap (h : Hdr) (o : I22) (s : State) : Host.Outcome State Fault Refusal :=
  issue { unit := 3, holds := true, ops := [(o.d, .unused), (o.a, .unused)] } h
    (fun cx s =>
      if cx.w.firmware then raiseExc cx 1 0 s
      else modRun s cx.rk fun r => { r with ends := .after, trapped := some o.m.toNat }) s

/-- TRET (R470, R241). -/
def execTret (h : Hdr) (o : R4) (s : State) : Host.Outcome State Fault Refusal :=
  issue { unit := 3, ends := true, ops := [(o.d, .unused), (o.a, .unused), (o.b, .unused), (o.c, .unused)] } h
    (fun cx s =>
      if !cx.g.trap.inh then raiseExc cx 1 0 s
      else
        modRun (modGroup s cx.gk fun g => checkReturn (onLanes g cx.run.lanes fun x => { x with st := .inactive }))
          cx.rk fun r => { r with ends := .moved }) s

/-! ### System registers (R472, R473) -/

def log2Of (n : Nat) : Nat := bitLen n - 1

/-- MXSTAT (R269). -/
def mxStat (s : State) (core : Nat) : Nat :=
  let x := sget MxSt.reset s.mx core
  let c := if x.iv = 0 then x.cfg0 else x.cfg1
  (if (leaseOf s core).isSome then 2 ^ 31 else 0) + x.iv % 2 * 2 ^ 30 + log2Of c.rows * 2 ^ 26 + log2Of c.cols * 2 ^ 24
    + x.elect * 2 ^ 19 + x.slot * 2 ^ 11 + x.queue.length * 2 ^ 5

/-- The modes of a core's banks, two bits each (R157). -/
def bankModes (c : CoreSt) : Nat := iter 16 (fun b m => m + c.bankMode.getD b 0 * 2 ^ (2 * b)) 0

/-- What SYSR reads, or none for a number that is no register (R472). -/
def sysRead (cx : Cx) (s : State) (num : Nat) : Option Nat :=
  let t := cx.g.trap
  let pc := (laneOf cx.g t.lpcsel).pc.addr.toNat
  let mx := sget MxSt.reset s.mx cx.core
  let c := coreSt s cx.core
  let b (x : Bool) (k : Nat) : Nat := if x then 2 ^ k else 0
  match num with
  | 0x040 => some t.tvec0.toNat
  | 0x041 => some t.tvec1.toNat
  | 0x042 => some t.tcause.toNat
  | 0x043 => some t.tmask.toNat
  | 0x044 => some (t.tepc.addr.toNat % 2 ^ 32)
  | 0x045 => some (t.tepc.addr.toNat / 2 ^ 32)
  | 0x046 => some (t.taddr.toNat % 2 ^ 32)
  | 0x047 => some (t.taddr.toNat / 2 ^ 32)
  | 0x048 => some t.lpcsel
  | 0x049 => some (pc % 2 ^ 32)
  | 0x04A => some (pc / 2 ^ 32)
  | 0x04B => some (b t.hchk 2 + b t.masked 1 + b t.inh 0)
  | 0x050 => some t.rngsel
  | 0x051 => some (laneOf cx.g t.rngsel).gen.toNat
  | 0x060 => some (mx.cap * 2 ^ 16 + mx.budget)
  | 0x061 => some mx.stall
  | 0x062 => some (mxStat s cx.core)
  | 0x070 => some (c.naks * 2 ^ 12 + c.backoff)
  | 0x080 => some (bankModes c)
  | 0x081 => some (bankPend c)
  | 0x090 => some (clusterSt s (clusterOf cx.core)).mergewin
  | _ => none

/-- Whether a user group may read a register (R472). -/
def userReads (num : Nat) : Bool := decide (num ≤ 0x062)

/-- Whether a register has a field its writer may write at the moment (R238, R269, R473). -/
def sysWritable (cx : Cx) (num : Nat) : Bool :=
  match num with
  | 0x040 => true
  | 0x041 => true
  | 0x044 => cx.g.trap.inh
  | 0x045 => cx.g.trap.inh
  | 0x048 => true
  | 0x049 => cx.g.trap.inh
  | 0x04A => cx.g.trap.inh
  | 0x04B => true
  | 0x050 => true
  | 0x051 => true
  | 0x060 => cx.w.firmware
  | 0x061 => cx.w.firmware
  | 0x070 => cx.w.firmware
  | 0x080 => cx.w.firmware
  | 0x090 => cx.w.firmware
  | _ => false

/-- What SYSW does with a register that is writable: the write lands with fixed latency (R218, R473). -/
def sysWrite (cx : Cx) (num : Nat) (x : W32) (s : State) : State :=
  match num with
  | 0x04B => fixWrites cx [.sys num (if featureOn s 10 then x else x &&& 0xFFFFFFFB)] s
  | _ => fixWrites cx [.sys num x] s

/-- The register number a uniform operand gives (R471). -/
def sysNum (cx : Cx) (s : State) (o : Opnd) : Nat := (rdI cx s o (elected cx)).toNat % 4096

/-- SYSR (R471, R473). -/
def execSysr (h : Hdr) (o : R4) (s : State) : Host.Outcome State Fault Refusal :=
  issue { unit := 3, ops := [(o.d, .dst 1 true true), (o.a, .src 1 true), (o.b, .unused), (o.c, .unused)] } h
    (fun cx s =>
      let num := sysNum cx s o.a
      match sysRead cx s num with
      | none => raiseExc cx 1 0 s
      | some x => if cx.w.firmware || userReads num then put32 cx o.d (fun _ => BitVec.ofNat 32 x) s else raiseExc cx 1 0 s) s

/-- SYSW (R471, R473). -/
def execSysw (h : Hdr) (o : R4) (s : State) : Host.Outcome State Fault Refusal :=
  issue { unit := 3, ops := [(o.d, .unused), (o.a, .src 1 true), (o.b, .src 1 true), (o.c, .unused)] } h
    (fun cx s =>
      let num := sysNum cx s o.a
      if sysWritable cx num then sysWrite cx num (rdI cx s o.b (elected cx)) s else raiseExc cx 1 0 s) s

/-- CLOCK (R474). -/
def execClock (h : Hdr) (o : R4) (s : State) : Host.Outcome State Fault Refusal :=
  issue { unit := 3, ops := [(o.d, .dst 2 true true), (o.a, .unused), (o.b, .unused), (o.c, .unused)] } h
    (fun cx s => put64 cx o.d (fun _ => BitVec.ofNat 64 s.refclk) s) s

/-! ### Rows of the table that are the landing of one register's write

Env: `core`, `slot` (the group's), `value`. -/

def envWord (s : State) : W32 := BitVec.ofNat 32 s.env.value

/-- LPC1_WRITE (R241): a SYSW to LPC1 in a handler lands. -/
def execLpc1Write (s : State) : Host.Outcome State Fault Refusal :=
  .next (modGroup s (gkey s.env.core s.env.slot) (landSys 0x04A (envWord s)))

/-- RNGVAL_WRITE (R312). -/
def execRngvalWrite (s : State) : Host.Outcome State Fault Refusal :=
  .next (modGroup s (gkey s.env.core s.env.slot) (landSys 0x051 (envWord s)))

/-- MXSTALL_CLEAR (R269). -/
def execMxstallClear (s : State) : Host.Outcome State Fault Refusal :=
  .next (landCoreSys s.env.core 0x061 (BitVec.ofNat 32 (2 ^ 31)) s)

/-- ENGNAK_CLEAR (R109): NAKS clears, BACKOFF takes the value written with it. -/
def execEngnakClear (s : State) : Host.Outcome State Fault Refusal :=
  .next (writeEngnak s.env.core (envWord s ||| 0x80000000) s)

/-- BANKMODE_WRITE (R157). -/
def execBankmodeWrite (s : State) : Host.Outcome State Fault Refusal :=
  .next (writeBankMode s.env.core (envWord s) s)

/-- Whether an offset of the scratch space, or a sector of it, lies in a bank. -/
def inBank (b a : Nat) : Bool := a / 32768 == 15 - b

/-- A bank's switch is complete (R158): PEND clears, lines of the departing way are gone, a bank that enters scratchpad mode
reads zero; a bank that was to go back to L1 does so now (R96). -/
def bankDone (core b : Nat) (s : State) : State :=
  let c := coreSt s core
  match sfind c.bankFrom b with
  | none => s
  | some _ =>
    let zero := c.bankMode.getD b 0 == 1
    let s1 := modCore s core fun c =>
      { c with
        bankFrom := sdel c.bankFrom b
        owed := false
        owedFifo := nsDel c.owedFifo b
        l1 := c.l1.filter fun e => e.2.1 != b
        sp := if zero then c.sp.filter fun e => !inBank b e.1 else c.sp
        spPoison := if zero then c.spPoison.filter fun e => !inBank b (32 * e.1) else c.spPoison }
    let s2 := if nsHas c.owedFifo b then switchBank core 0 s1 b else s1
    if c.owed then giveBack core s2 else s2

/-- BANK_SWITCH_COMPLETE (R158). Env: `core`, `index` the bank. -/
def execBankSwitchComplete (s : State) : Host.Outcome State Fault Refusal :=
  .next (bankDone s.env.core s.env.index s)

end Sys2Proof.Machine
end

