-- ==== Sys2Proof/Machine/Placement.lean ====
section
/-! DEFINITION. Carving a core (R93 to R98), release of groups (R212, R312), bond leases (R107), slot-table records
(R478), reservations of workgroups and gangs (R81, R82, R104 to R106). -/

namespace Sys2Proof.Machine

/-! ### Runs of units, granules and barriers -/

/-- The lowest base at which `need` fits below `top` beside the runs in use; a run of 0 stands at 0. -/
def lowestFit (need top : Nat) (used : List (Nat × Nat)) : Option Nat :=
  if need = 0 then some 0
  else
    ((0 :: used.map fun u => u.1 + u.2).filter fun b =>
      decide (b + need ≤ top) && used.all fun u => !rangesMeet b need u.1 u.2).min?

/-- The workgroups on a core. -/
def wgsOn (s : State) (core : Nat) : List (Nat × Wg) := s.wgs.filter fun e => keyCore e.1 == core && !e.2.firmware

def slotUsed (s : State) (core slot : Nat) : Bool := (sfind s.groups (gkey core slot)).isSome

/-- The free user slots of a quarter, ascending (R93). -/
def freeSlots (s : State) (core q : Nat) : List Nat :=
  ((List.range 48).map fun i => 4 * i + q).filter fun k => !slotUsed s core k

/-- The quarter with the most free user slots, the lowest on a tie. -/
def firstQuarter (s : State) (core : Nat) : Nat :=
  (List.range 4).foldl (fun b q => if (freeSlots s core b).length < (freeSlots s core q).length then q else b) 0

/-- The units in use in a quarter's register file. -/
def unitsUsed (s : State) (core q : Nat) : List (Nat × Nat) :=
  s.groups.filterMap fun e =>
    if keyCore e.1 = core ∧ keyNum e.1 % 4 = q ∧ keyNum e.1 ≠ fwSlot then some (e.2.ubase, e.2.vregs / 8) else none

/-- One group to place: its role, its entry point, its vector registers. -/
abbrev GroupNeed := Nat × Nat × Nat

/-- The groups of a workgroup in order (R93). -/
def groupNeeds (d : Desc) : List GroupNeed :=
  (d.roles.mapIdx fun k r => List.replicate r.groups (k, r.entry, r.vregs)).flatten

/-- Slot and unit base for each group, in order; none when one does not fit. -/
def placeGroups (s : State) (core q0 : Nat) :
    List GroupNeed → Nat → List (Nat × Nat × GroupNeed) → Option (List (Nat × Nat × GroupNeed))
  | [], _, acc => some acc
  | n :: ns, g, acc =>
    let q := (q0 + g) % 4
    let used := unitsUsed s core q ++
      (acc.filter fun a => a.1 % 4 == q).map fun a => (a.2.1, a.2.2.2.2 / 8)
    match (freeSlots s core q).find? fun k => !(acc.any fun a => a.1 == k), lowestFit (n.2.2 / 8) 256 used with
    | some k, some u => placeGroups s core q0 ns (g + 1) (acc ++ [(k, u, n)])
    | _, _ => none

/-- The highest-numbered L1 bank above bank 1, and the lowest. -/
def highL1 (c : CoreSt) : Option Nat :=
  (((List.range 14).map fun k => 15 - k).find? fun b => c.bankMode.getD b 0 == 0 && (sfind c.bankFrom b).isNone)
def lowL1 (c : CoreSt) : Option Nat :=
  (((List.range 14).map fun k => k + 2).find? fun b => c.bankMode.getD b 0 == 0 && (sfind c.bankFrom b).isNone)

/-- A contiguous run of the scratch space, banks switched one at a time until it fits (R96). -/
def scratchFit (core need : Nat) (used : List (Nat × Nat)) : Nat → State → Option (Nat × State)
  | 0, _ => none
  | n + 1, s =>
    match lowestFit need (scratchTop (coreSt s core)) used with
    | some b => some (b, s)
    | none =>
      match highL1 (coreSt s core) with
      | some k => if scratchTop (coreSt s core) = 32768 * (15 - k) then scratchFit core need used n (switchBank core 1 s k) else none
      | none => none

/-- A FIFO bank for a store buffer (R96). -/
def fifoFit (core : Nat) (want : Bool) (s : State) : Option (Nat × State) :=
  if !want then some (0, s)
  else match lowL1 (coreSt s core) with
    | some b => some (b, switchBank core 2 s b)
    | none => none

/-- Bytes rounded up to 4 KiB granules. -/
def granules (n : Nat) : Nat := roundUp n 4096

/-! ### A workgroup's place -/

/-- What a workgroup is, beside its allotments. -/
structure WgId where
  asid : Nat
  record : Nat
  index : Nat
  ticket : Nat
  bonded : Bool
  brow : Nat
  bcol : Nat
  restartable : Bool
  gx : Nat
  gy : Nat
  gz : Nat
  banks : List Nat
  drain : Nat
  attempt : Nat
  restores : Nat
  image : Option Nat
  deriving DecidableEq, Repr

/-- No ticket has been taken yet (R106). -/
def noTicket : Nat := 2 ^ 64

/-- The firmware copy of a record's constant bank (R332). -/
def kCopyAddr (record b : Nat) : Nat := firmwareBase + 2 ^ 28 + 1024 * record + 128 * b

def recBanks (record : Nat) (r : LaunchRec) : List Nat :=
  (List.range 8).map fun b =>
    if (r.desc.kbind.getD b 0 != 0) || (b == 0 && r.args != 0) then kCopyAddr record b else 0

/-- D of a workgroup in µs (R91, R110). -/
def drainOf (s : State) (r : LaunchRec) : Nat :=
  if r.desc.drain ≠ 0 then r.desc.drain else match ctxOf s r.asid with | some c => c.drain | none => 0

/-- The gang size, and the coordinates of bond rows and columns. -/
def gangRows (r : LaunchRec) : Nat := 2 ^ r.brows
def gangCols (r : LaunchRec) : Nat := 2 ^ r.bcols
def gangSize (r : LaunchRec) : Nat := gangRows r * gangCols r

/-- The identity of a member before its ticket is taken. -/
def wgId (s : State) (record : Nat) (r : LaunchRec) (i j : Nat) : WgId :=
  { asid := r.asid, record := record, index := 0, ticket := noTicket, bonded := decide (1 < gangSize r), brow := i, bcol := j
    restartable := r.restart, gx := r.gx, gy := r.gy, gz := r.gz, banks := recBanks record r, drain := drainOf s r
    attempt := 0, restores := 0, image := none }

/-- A group as it stands in its slot before release (R98, R212). -/
def newGroup (wg num : Nat) (ubase : Nat) (n : GroupNeed) : Group :=
  let lane : Lane := ⟨⟨BitVec.ofNat 57 n.2.1, 0⟩, .unblocked, 0, 1, false, 0, 0⟩
  { wg := wg, num := num, role := n.1, ubase := ubase, vregs := n.2.2, lanes := List.replicate 32 lane
    preds := List.replicate 7 0, members := List.replicate 16 0, arrivals := List.replicate 16 0, vreg := [], sreg := []
    tables := List.replicate 4 (List.replicate 32 0x80), ops := [], failed := [], trap := Trap.reset, window := [], call := none
    waiting := [], yielded := none, stamp := 0, waitAge := 0, watchdog := 0, recovery := 0 }

def zeroRecord : List Byte := List.replicate 32 0

/-- A workgroup's slot-table entry. -/
def newWg (d : Desc) (i : WgId) (slots : List Nat) (bar fifo so sl oo ol mo ml : Nat) : Wg :=
  { asid := i.asid, firmware := false, ngroups := slots.length, slots := slots, barBase := bar, nbar := d.nbar
    barriers := List.replicate d.nbar Barrier.reset, mx := d.mx, sw := d.sw, restartable := i.restartable
    committed := false, bonded := i.bonded, fifo := fifo, index := i.index, ticket := i.ticket, gridX := i.gx
    gridY := i.gy, gridZ := i.gz, scratchOff := so, scratchLen := sl, obOff := oo, obLen := ol, msOff := mo, msLen := ml
    record := i.record, brow := i.brow, bcol := i.bcol, banks := i.banks, obrecs := List.replicate 16 zeroRecord
    sbuf := [], spill := 0, restores := i.restores, attempt := i.attempt, sliceEnd := 0, drain := i.drain
    stopping := false, released := false, image := i.image }

/-- The lowest free workgroup number of a core. -/
def freeWgNum (s : State) (core : Nat) : Option Nat := firstBelow 192 fun n => (sfind s.wgs (wkey core n)).isNone

/-- Whether placement may use a core: its scan passed, it is not fenced, it is not held for ironing (R37, R147, R150). -/
def coreLive (s : State) (core : Nat) : Bool :=
  (s.boot.coresok.getD (core / 32) 0).testBit (core % 32) && s.boot.clustok.testBit (clusterOf core)
    && (sget IronSt.reset s.irons core).phase == 0

/-- The core of bond row i and column j of a rectangle: cluster, origin, rows (R104, R105). -/
def memberCore (cluster rows y0 x0 i j : Nat) : Nat :=
  if rows ≤ 4 then 16 * cluster + 4 * (y0 + i) + x0 + j
  else if i < 4 then 16 * cluster + 4 * (3 - i) + x0 + j
  else 16 * (cluster + 12) + 4 * (i - 4) + x0 + j

/-- The place of every bond row and column of the rectangle in which bond row i and column j stand on a core. -/
def rectOf (core rows i j : Nat) : Nat → Nat → Nat :=
  let x0 := core % 4 - j
  if rows ≤ 4 then memberCore (core / 16) rows (core % 16 / 4 - i) x0
  else memberCore (if i < 4 then core / 16 else core / 16 - 12) rows 0 x0

/-- Whether a core lies in the rectangle of a saved gang that stands reserved and is not released yet, its retired members'
places among it (R120). -/
def restoring (s : State) (core : Nat) : Bool :=
  s.wgs.any fun e => e.2.bonded && !e.2.released
    && match (e.2.image.bind fun a => sfind s.images a).bind fun img => img.bond with
      | some (l, _) => l.members.any fun m => rectOf (keyCore e.1) l.rows e.2.brow e.2.bcol m.2.1 m.2.2 == core
      | none => false

/-- Whether a hold request in progress has reserved a core: its own half, and once it is held the mirror's (R106). -/
def requested (s : State) (core : Nat) : Bool :=
  s.claims.any fun e =>
    let half := if e.2.answer = 1 then 8 else 4
    (List.range half).any fun i => (List.range e.2.cols).any fun j => memberCore e.1 8 0 e.2.col i j == core

/-- Whether a core's matrix engine is leased to a gang, or reserved for one that is not released yet (R104, R107). -/
def engineTaken (s : State) (core : Nat) : Bool :=
  (leaseOf s core).isSome || ((wgsOn s core).any fun e => e.2.bonded && !e.2.released) || restoring s core || requested s core

/-- Reserve a workgroup on a core: all of it or nothing (R93 to R98); a gang's engines are
tested with its rectangle. The answer names its key. -/
def reserve (core : Nat) (d : Desc) (dynscr : Nat) (i : WgId) (s : State) : Option (Nat × State) :=
  let ws := wgsOn s core
  if !coreLive s core || (d.mx && !i.bonded && engineTaken s core) || (d.sw && ws.any fun e => e.2.sw) then none
  else
    let sl := granules (d.scratch + dynscr)
    let ol := granules d.obuf
    let ml := granules d.msm
    match placeGroups s core (firstQuarter s core) (groupNeeds d) 0 [], freeWgNum s core,
      lowestFit ol 131072 (ws.map fun e => (e.2.obOff, e.2.obLen)),
      lowestFit ml 262144 (ws.map fun e => (e.2.msOff, e.2.msLen)),
      lowestFit d.nbar 256 (ws.map fun e => (e.2.barBase, e.2.nbar)),
      scratchFit core sl (ws.map fun e => (e.2.scratchOff, e.2.scratchLen)) 16 s with
    | some gs, some n, some oo, some mo, some bar, some (so, s1) =>
      match fifoFit core i.restartable s1 with
      | none => none
      | some (fifo, s2) =>
        let w := newWg d i (gs.map fun g => g.1) bar fifo so sl oo ol mo ml
        some (wkey core n, { s2 with
          wgs := sset s2.wgs (wkey core n) w
          groups := (gs.mapIdx fun k g => (gkey core g.1, newGroup n k g.2.1 g.2.2)).foldl
            (fun m e => sset m e.1 e.2) s2.groups })
    | _, _, _, _, _, _ => none

/-- Give up a reservation: the resources are free again. -/
def unreserve (wk : Nat) (s : State) : State := freeWg wk s

/-! ### Release (R98, R159, R212, R312) -/

/-- The seed of lane l of group g (R312). -/
def laneSeed (k0 : Nat) (index c g l : Nat) : W32 :=
  let w := fun (x : Nat) => BitVec.ofNat 32 x
  let x := w k0 ^^^ w (index % 2 ^ 32 * 0x9E3779B9) ^^^ w (index / 2 ^ 32 % 2 ^ 32 * 0x85EBCA6B) ^^^ w (c * 65536)
    ^^^ w (32 * g + l)
  if x = 0 then 1 else x

/-- Word 31 of the firmware copy of K0 at release, 0 when K0 is unbound. -/
def seedWord (s : State) (w : Wg) : Nat :=
  let pa := w.banks.getD 0 0
  if pa = 0 then 0 else memNat s (pa + 124) 4

/-- A group starts: its generators are seeded, its age stamp set. -/
def startGroup (s : State) (w : Wg) (stamp : Option Nat) (g : Group) : Group :=
  { g with
    lanes := g.lanes.mapIdx fun l x => { x with gen := laneSeed (seedWord s w) w.index w.restores g.num l }
    stamp := stamp.getD g.stamp }

/-- Cells of a run become zero. -/
def zeroRun (m : List Host.Cell) (a n : Nat) : List Host.Cell :=
  m.filter fun e => !(decide (a ≤ e.1) && decide (e.1 < a + n))
def cleanSectors (p : NatSet) (a n : Nat) : NatSet :=
  p.filter fun e => !(decide (a / 32 ≤ e.1) && decide (e.1 < (a + n) / 32))

/-- The granules of a workgroup read zero (R159). -/
def zeroRuns (wk : Nat) (w : Wg) (s : State) : State :=
  modCore s (keyCore wk) fun c =>
    { c with
      sp := zeroRun c.sp w.scratchOff w.scratchLen, ob := zeroRun c.ob w.obOff w.obLen
      ms := zeroRun c.ms w.msOff w.msLen
      spPoison := cleanSectors c.spPoison w.scratchOff w.scratchLen
      obPoison := cleanSectors c.obPoison w.obOff w.obLen }

/-- The slice end E = now + SLICE − d in reference ticks; the debt used is paid (R110). -/
def setSlice (wk : Nat) (s : State) : State :=
  match sfind s.wgs wk with
  | none => s
  | some w =>
    match ctxOf s w.asid with
    | none => s
    | some c =>
      let d := min c.debt (c.slice / 2)
      modCtx (modWg s wk fun w => { w with sliceEnd := s.refclk + 100 * (c.slice - d) }) w.asid fun c =>
        { c with debt := c.debt - d }

/-- All groups of a workgroup are released in one cycle. -/
def releaseFresh (wk : Nat) (s : State) : State :=
  match sfind s.wgs wk with
  | none => s
  | some w =>
    let s1 := modWg (zeroRuns wk w s) wk fun w => { w with released := true }
    (groupsOfWg s wk).foldl (fun s gk => modGroup s gk (startGroup s w (some s.refclk))) s1

/-- Whether the bank switches a workgroup waits for are done (R98, R158). -/
def banksReady (s : State) (wk : Nat) (w : Wg) : Bool :=
  (coreSt s (keyCore wk)).bankFrom.all fun e =>
    !(rangesMeet (bankBase e.1) 32768 w.scratchOff w.scratchLen || (w.fifo != 0 && e.1 == w.fifo))

/-! ### Gangs (R104 to R107) -/

/-- The lead agent's core of a cluster (R69). -/
def leadCore (s : State) (cluster : Nat) : Option Nat :=
  firstBelow 16 (fun k => coreLive s (16 * cluster + k)) |>.map fun k => 16 * cluster + k

/-- The core of the agent that placed a workgroup: its own, or for a gang that of the lead agent (R111, R128). -/
def placingCore (s : State) (core : Nat) (w : Wg) : Nat :=
  let tall := match sfind s.board w.record with | some r => decide (4 < gangRows r) | none => false
  let cl := if tall then clusterOf core % 12 else clusterOf core
  if w.bonded then (leadCore s cl).getD (16 * cl) else core

/-- The places of a gang as (bond row, bond column), in order of their index. -/
def gangPlaces (r : LaunchRec) : List (Nat × Nat) :=
  (List.range (gangSize r)).map fun m => (m / gangCols r, m % gangCols r)

/-- Whether a core may hold a gang member's matrix engine (R104). -/
def engineFree (s : State) (core : Nat) : Bool :=
  !(engineTaken s core || (wgsOn s core).any fun e => e.2.mx)

/-- Reserve members one after another, all or none; a place in `retired` must be able to hold a member, but takes only its
engine (R104, R120). -/
def reserveAll (record : Nat) (r : LaunchRec) (coreAt : Nat → Nat → Nat) (retired : List (Nat × Nat)) :
    List (Nat × Nat) → List Nat → State → Option (List Nat × State)
  | [], acc, s => some (acc, s)
  | (i, j) :: ps, acc, s =>
    if !engineFree s (coreAt i j) then none
    else
      match reserve (coreAt i j) r.desc r.dynscr (wgId s record r i j) s with
      | none => none
      | some (wk, s1) =>
        if retired.contains (i, j) then reserveAll record r coreAt retired ps acc s
        else reserveAll record r coreAt retired ps (acc ++ [wk]) s1

/-- The rectangles of a cluster in the order they are tested (R104, R105). -/
def origins (r : LaunchRec) : List (Nat × Nat) :=
  let rows := gangRows r
  let cols := gangCols r
  if 4 < rows then ((List.range 4).filter fun x => x % cols == 0 && decide (x + cols ≤ 4)).map fun x => (0, x)
  else (List.range 4).flatMap fun y => (List.range 4).filterMap fun x =>
    if y % rows = 0 ∧ x % cols = 0 ∧ y + rows ≤ 4 ∧ x + cols ≤ 4 then some (y, x) else none

/-- The places of a gang on the given half: all of them for up to 4 rows. -/
def placesOn (r : LaunchRec) (upper : Bool) : List (Nat × Nat) :=
  if gangRows r ≤ 4 then gangPlaces r else (gangPlaces r).filter fun p => decide (4 ≤ p.1) == upper

/-- The lease of a gang begins (R107): the configuration is written into every member's engine, as one version for all of
them, the version that the first member does not issue under: a token's V then selects the same configuration at either end
of a link, whatever leases the engines stood in before (DEDUCED, log 43). -/
def beginLease (l : Lease) (s : State) : State :=
  let now := match l.members with
    | m :: _ => (sget MxSt.reset s.mx m.1).iv
    | [] => 0
  let s1 := l.members.foldl (fun s m =>
    let cfg := tileCfg l.trows l.tcols m.2.1 m.2.2
    modMx s m.1 fun x =>
      let y := if now = 0 then { x with cfg1 := cfg, iv := 1 } else { x with cfg0 := cfg, iv := 0 }
      { y with bonded := true, relIssued := false, itr := l.trows, itc := l.tcols, bondOps := 0, past := [] }) s
  { s1 with leases := s1.leases ++ [l] }

/-! ### Slot-table records (R478, R479) -/

/-- What a slot-table record says. -/
structure SlotTab where
  asid : Nat
  num : Nat
  n : Nat
  bar : Nat
  nbar : Nat
  flags : Nat
  index : Nat
  so : Nat
  sl : Nat
  oo : Nat
  ol : Nat
  mo : Nat
  ml : Nat
  record : Nat
  brow : Nat
  bcol : Nat
  banks : List Nat
  groups : List (Nat × Nat × Nat × Nat × Nat)
  deriving DecidableEq, Repr

def slotTab (b : List Byte) : SlotTab :=
  let f (o n : Nat) := bytesAt b o n
  { asid := f 0 2, num := f 2 1, n := f 3 1, bar := f 4 1, nbar := f 5 1, flags := f 6 2, index := f 8 8, so := f 0x10 4
    sl := f 0x14 4, oo := f 0x18 4, ol := f 0x1C 4, mo := f 0x20 4, ml := f 0x24 4, record := f 0x28 2, brow := f 0x2A 1
    bcol := f 0x2B 1, banks := (List.range 8).map fun k => f (0x40 + 8 * k) 8
    groups := (List.range (min (f 3 1) 32)).map fun g =>
      (f (0x80 + 16 * g) 1, f (0x81 + 16 * g) 1, f (0x82 + 16 * g) 1, f (0x83 + 16 * g) 1, f (0x88 + 16 * g) 8) }

/-- Whether two groups of a record overlap: one slot twice, or units of one quarter's register file. -/
def groupsMeet : List (Nat × Nat × Nat × Nat × Nat) → Bool
  | [] => false
  | g :: gs =>
    (gs.any fun x => x.1 == g.1 || (x.1 % 4 == g.1 % 4 && rangesMeet x.2.2.1 x.2.2.2.1 g.2.2.1 g.2.2.2.1)) || groupsMeet gs

/-- A firmware defect in a slot-table record (R475): its address, an occupied or repeated slot, an overlapping run, a
resource beyond the core's. -/
def slotTabBad (s : State) (core pa : Nat) (t : SlotTab) : Bool :=
  let ws := wgsOn s core
  let meets (a n : Nat) (f : Wg → Nat × Nat) : Bool := ws.any fun e => rangesMeet a n (f e.2).1 (f e.2).2
  let fifo := field t.flags 4 4
  pa % 64 != 0 || targetOf pa != .firmware || targetOf (pa + 639) != .firmware
    || decide (191 < t.num) || (sfind s.wgs (wkey core t.num)).isSome || decide (t.n < 1) || decide (32 < t.n)
    || decide (256 < t.bar + t.nbar) || decide (32 < t.nbar) || meets t.bar t.nbar (fun w => (w.barBase, w.nbar))
    || decide (scratchTop (coreSt s core) < t.so + t.sl) || meets t.so t.sl (fun w => (w.scratchOff, w.scratchLen))
    || decide (131072 < t.oo + t.ol) || meets t.oo t.ol (fun w => (w.obOff, w.obLen))
    || decide (262144 < t.mo + t.ml) || meets t.mo t.ml (fun w => (w.msOff, w.msLen))
    || (fifo != 0 && ((coreSt s core).bankMode.getD fifo 0 != 2 || fifoBound s core fifo))
    || (t.groups.any fun g => decide (191 < g.1) || slotUsed s core g.1 || decide (256 < g.2.2.1 + g.2.2.2.1)
        || (unitsUsed s core (g.1 % 4)).any fun u => rangesMeet g.2.2.1 g.2.2.2.1 u.1 u.2)
    || groupsMeet t.groups || (t.flags.testBit 1 && ws.any fun e => e.2.sw)

/-- Write the slot tables of a record (R479): its workgroup and groups stand on the core, not released. -/
def writeSlots (core : Nat) (t : SlotTab) (s : State) : State :=
  let r := sfind s.board t.record
  let g (f : LaunchRec → Nat) : Nat := match r with | some r => f r | none => 0
  let bonded := t.flags.testBit 3
  let id : WgId :=
    { asid := t.asid, record := t.record, index := t.index
      ticket := if bonded then t.index / max 1 (g gangSize) else t.index, bonded := bonded, brow := t.brow, bcol := t.bcol
      restartable := t.flags.testBit 2, gx := g fun r => r.gx, gy := g fun r => r.gy, gz := g fun r => r.gz
      banks := t.banks, drain := match r with | some r => drainOf s r | none => 0, attempt := 0, restores := 0
      image := none }
  let d : Desc := ⟨t.flags.testBit 0, t.flags.testBit 1, t.nbar, 0, 0, 0, 0, [], []⟩
  let w := newWg d id (t.groups.map fun x => x.1) t.bar (field t.flags 4 4) t.so t.sl t.oo t.ol t.mo t.ml
  { s with
    wgs := sset s.wgs (wkey core t.num) w
    groups := (t.groups.mapIdx fun k x => (gkey core x.1, newGroup t.num k x.2.2.1 (x.2.1, x.2.2.2.2, 8 * x.2.2.2.1))).foldl
      (fun m e => sset m e.1 e.2) s.groups }

end Sys2Proof.Machine
end

