-- ==== Sys2Proof/Machine/Save.lean ====
section
/-! DEFINITION. Stopping, saving and restoring workgroups and gangs (R110 to R124, R293, R294, R437). -/

namespace Sys2Proof.Machine

/-! ### Keys within a save record: a group is known by its number, its workgroup by 0 -/

def mapCmd (f : Nat → Nat) (wk : Nat) (c : Cmd) : Cmd := { c with group := f c.group, wg := wk }

def mapDebts (f : Nat → Nat) (ds : List (Nat × Nat × Mask)) : List (Nat × Nat × Mask) :=
  ds.map fun d => (f d.1, d.2.1, d.2.2)

def mapBarrier (f : Nat → Nat) (b : Barrier) : Barrier :=
  { b with waiting := b.waiting.map fun e => (f e.1, e.2), debts := mapDebts f b.debts }

def mapOp (f : Nat → Nat) (o : POp) : POp :=
  { o with kind := match o.kind with
      | .barrier n ds => .barrier n (mapDebts f ds)
      | k => k }

def mapGroup (f : Nat → Nat) (wk n : Nat) (g : Group) : Group :=
  { g with
    wg := n, ops := g.ops.map (mapOp f), window := g.window.map fun w => { w with cmd := mapCmd f wk w.cmd } }

def mapWake (f : Nat → Nat) (w : WakeTo) : WakeTo := if w.op = 0 then w else { w with group := f w.group }

def mapWork (f : Nat → Nat) (wk : Nat) : SwWork → SwWork
  | .decl c => .decl (mapCmd f wk c)
  | .commit c kind lane n w => .commit (mapCmd f wk c) kind lane n w
  | .wake c lane => .wake (mapCmd f wk c) lane
  | .send w step => .send (mapWake f w) step
  | x => x

def mapSw (f : Nat → Nat) (wk : Nat) (x : SwSt) : SwSt :=
  { x with
    held := x.held.map (mapCmd f wk), starting := x.starting.map (mapCmd f wk), groups := x.groups.map f
    batches := x.batches.map fun b => { b with group := f b.group }
    pulls := x.pulls.map (mapCmd f wk)
    patch := x.patch.map fun p => { p with work := mapWork f wk p.work } }

/-- The number of a group within its workgroup, by its key. -/
def groupNum (w : Wg) (gk : Nat) : Nat := (w.slots.findIdx? fun k => k == keyNum gk).getD 0

/-- The key of group n of a workgroup. -/
def groupKey (wk : Nat) (w : Wg) (n : Nat) : Nat := gkey (keyCore wk) (w.slots.getD n 0)

/-! ### When an operation is done -/

/-- Whether an outstanding operation's flag may clear now (R219, R430, R431, R439, R425). -/
def opDone (s : State) (gk : Nat) (g : Group) (o : POp) : Bool :=
  match o.kind with
  | .fence rel acq _ => o.ready || (fenceDue s gk g o.id o.lanes rel acq && !(rel && draining s (wgOf gk g)))
  | .fenceX a _ => o.ready || pathDone g o.id a
  | .barrier _ debts => o.ready && debtsPaid s debts
  | .banks mask => o.ready || (coreSt s (keyCore gk)).bankFrom.all fun e => !mask.testBit e.1
  | _ => o.ready

/-- Whether an access of a group's operation is parked. -/
def opParked (s : State) (gk id : Nat) : Bool := s.parked.any fun p => p.group == gk && p.op == id

/-- What an operation may still wait for when its group is saved: its own parked accesses, a wait, a barrier, an engine,
the operations before it (R113, R114, R437). -/
def opStays (s : State) (gk : Nat) (g : Group) (o : POp) : Bool :=
  !opDone s gk g o && match o.kind with
    | .access => opParked s gk o.id
    | .acquire => opParked s gk o.id
    | .mcast _ _ _ _ _ => opParked s gk o.id
    | _ => true

/-- Whether a parked access can be saved: logged, or standing behind an operation of its own group. -/
def parkStays (p : Parked) : Bool :=
  match p.place with
  | .log => true
  | .held h => decide (2 ^ 21 ≤ h)
  | _ => false

/-- The waits of an operation, and the operations of a group that have one. -/
def waitOps (s : State) (gk : Nat) : List Nat :=
  ((s.waits.filter fun w => w.group == gk).map fun w => w.op).eraseDups

/-- Whether a group issues no run, and has reached its stop point. -/
def noRun (s : State) (gk : Nat) : Bool :=
  !s.runs.any fun e => e.1 / 4 == keyCore gk && e.2.slot == keyNum gk

def groupDrained (s : State) (gk : Nat) : Bool :=
  match sfind s.groups gk with
  | none => true
  | some g =>
    noRun s gk && g.ops.all (opStays s gk g)
      && (s.parked.all fun p => p.group != gk || parkStays p)
      && (s.waits.all fun w => w.group != gk || w.sat.isNone)
      && decide (logOfGroup s gk + (waitOps s gk).length ≤ 4)
      && s.sw.all fun e => e.2.notices.all fun n => n.wake.op == 0 || n.wake.group != gk

/-- Whether a workgroup has reached its stop points (R115 step 1); one that is restarted from its entry only has to stop
issuing (R124). -/
def wgDrained (s : State) (wk : Nat) : Bool :=
  match sfind s.wgs wk with
  | none => true
  | some w =>
    if w.restartable && !w.committed then (groupsOfWg s wk).all (noRun s)
    else !draining s wk && (groupsOfWg s wk).all (groupDrained s) && (mxOf s (keyCore wk)).tx.isEmpty
      && (mxOf s (keyCore wk)).rx.isEmpty && (!w.bonded || sentAll s w)
where
  /-- Every token of the gang has been sent, those of members that have retired among them (R116 step 2, R267). -/
  sentAll (s : State) (w : Wg) : Bool :=
    match gangLease s w with
    | some l => l.members.all fun m => (mxOf s m.1).tx.isEmpty
    | none => true

/-- Whether the stop that a GSTOP waits for is done (R480); its number may name no workgroup. -/
def stopDone (s : State) (core n : Nat) (gang : Bool) : Bool :=
  if 192 ≤ n then true
  else if gang then (gangOf s (wkey core n)).all (wgDrained s) else wgDrained s (wkey core n)

/-- Steps 3 and 4 of R116 for the gang of a workgroup that has stopped: its lease keeps the engines' states for the records,
and the links are released. What stands in its memories stays there until they are saved, for nothing can change it. -/
def cutGang (wk : Nat) (s : State) : State :=
  match (sfind s.wgs wk).bind fun w => if w.bonded && w.stopping then gangLease s w else none with
  | none => s
  | some l =>
    if !l.cut.isEmpty then s
    else
      let cut := l.members.map fun m => (m.1, mxOf s m.1)
      let s1 := releaseLinks l s
      { s1 with leases := s1.leases.map fun x => if x = l then { x with cut := cut } else x }

/-! ### The stop request (R111 to R113) -/

/-- The drain of a workgroup or of its gang. -/
def drainFor (s : State) (wk : Nat) : Option Drain :=
  s.drains.find? fun d => (gangOf s wk).contains (wkey d.core d.wg)

/-- Mark workgroups as stopping: their groups issue no further run, their engines hand out nothing more. -/
def markStop (ks : List Nat) (s : State) : State :=
  ks.foldl (fun s k => modWg s k fun w => if w.released && !w.firmware then { w with stopping := true } else w) s

/-- A stop request that was sent arrives: the drain begins (R112, R113). -/
def arriveStop (wk : Nat) (s : State) : State :=
  match drainFor s wk with
  | none => s
  | some d => markStop (gangOf s wk) { s with drains := s.drains.map fun x =>
      if x = d then { x with since := x.since.or (some s.refclk) } else x }

/-! ### The save pool and the size of a record (R117, R118) -/

def poolBase : Nat := firmwareBase + 2 ^ 30
def poolSize : Nat := 2 ^ 32

/-- Whether a queue entry carries a register-sourced A. -/
def regSourced (e : MxEnt) : Bool := (mmaOf e).1.asrc == 2 && (match e.cmd.cmd with | .mma _ _ _ _ _ => true | _ => false)

/-- The matrix commands of a workgroup in its core's engine. -/
def mxOfWg (s : State) (wk : Nat) : List MxEnt := (mxOf s (keyCore wk)).queue.filter fun e => e.cmd.wg == wk

/-- The sections' sizes of a record: header, group blocks, barriers, reservation records, operand buffer, matrix-side
memory, scratchpad, copy and link engines, matrix engine, sweep engine. -/
def sectionSizes (w : Wg) (vregs : List Nat) (regs : Nat) : List Nat :=
  [256, vregs.foldl (fun n v => n + 0x3C00 + 128 * v) 0, 16 * w.nbar, 512, w.obLen, w.msLen, w.scratchLen, 8192,
    4096 + 4096 * regs, 1024 + if w.sw then 4096 else 0]

/-- The sections' offsets: each at the next multiple of 256; the last number is where the record ends. -/
def sectionOffsets : Nat → List Nat → List Nat
  | a, [] => [a]
  | a, n :: ns => roundUp a 256 :: sectionOffsets (roundUp a 256 + n) ns

/-- The groups of a workgroup by number, those that have retired left out. -/
def numberedGroups (s : State) (wk : Nat) (w : Wg) : List (Nat × Group) :=
  (List.range w.slots.length).filterMap fun n => (sfind s.groups (groupKey wk w n)).bind fun g =>
    if g.wg = keyNum wk then some (n, g) else none

/-- The vector registers of each group, retired ones with those of their block's layout (log entry 30). -/
def blockVregs (s : State) (wk : Nat) (w : Wg) : List Nat :=
  let gs := numberedGroups s wk w
  let roles := match sfind s.board w.record with
    | some r => (groupNeeds r.desc).map fun (n : GroupNeed) => n.2.2
    | none => []
  (List.range w.slots.length).map fun n => match sfind gs n with
    | some g => g.vregs
    | none => roles.getD n 8

def recordLayout (s : State) (wk : Nat) (w : Wg) : List Nat :=
  sectionOffsets 0 (sectionSizes w (blockVregs s wk w) ((mxOfWg s wk).filter regSourced).length)

def recordSize (s : State) (wk : Nat) : Nat :=
  match sfind s.wgs wk with
  | none => 0
  | some w => (recordLayout s wk w).getD 10 0

/-- The parts of the pool in use. -/
def poolUsed (s : State) : List (Nat × Nat) :=
  s.images.filterMap fun e => if poolBase ≤ e.1 ∧ e.1 < poolBase + poolSize then some (e.1 - poolBase, roundUp e.2.size 256) else none

/-- Places for records of the given sizes, one after another. -/
def allocAll : List Nat → List (Nat × Nat) → Option (List Nat)
  | [], _ => some []
  | n :: ns, used =>
    match lowestFit (roundUp n 256) poolSize used with
    | none => none
    | some a => (allocAll ns (used ++ [(a, roundUp n 256)])).map fun l => (poolBase + a) :: l

/-- Whether the pool can take the records of a workgroup or gang beside those of the drains in progress. -/
def poolTakes (s : State) (wk : Nat) : Bool :=
  let others := s.drains.flatMap fun d => gangOf s (wkey d.core d.wg)
  (allocAll ((others ++ gangOf s wk).map (recordSize s)) (poolUsed s)).isSome

/-- The free bytes of the pool. -/
def poolFree (s : State) : Nat := poolSize - (poolUsed s).foldl (fun n u => n + u.2) 0

/-- The save-pool event (R117, R128); of a gang it names the placing core and the size of all its records (DESIGN CHOICE,
log 51). -/
def poolFull (wk : Nat) (w : Wg) (s : State) : State :=
  let size := (gangOf s wk).foldl (fun n k => n + recordSize s k) 0
  postEvent 0x22 w.asid (leBytes 4 (placingCore s (keyCore wk) w) ++ leBytes 4 (poolFree s / 1024)
    ++ leBytes 4 ((size + 1023) / 1024) ++ leBytes 4 0 ++ leBytes 8 w.index ++ leBytes 2 (tagOf s w.record)
    ++ leBytes 2 (queueOf s w.record)) s

/-- A stop request is sent to a workgroup, or to every member of its gang, if the pool can take their records; else the
save-pool event is posted (R117). Of a gang the event names the placing core, the index of the member it was found at, and
the size of all its records (DESIGN CHOICE, log 51). -/
def requestStop (wk : Nat) (ironing : Bool) (s : State) : State :=
  match sfind s.wgs wk with
  | none => s
  | some w =>
    if w.stopping || !w.released || w.firmware || (drainFor s wk).isSome then s
    else if !poolTakes s wk then poolFull wk w s
    else { s with drains := s.drains ++ [⟨keyCore wk, keyNum wk, none, 100 * w.drain, ironing⟩] }

/-! ### The bytes of a record (R118, R119) -/

abbrev Pieces := List (Nat × List Byte)

def pcBytes (p : Pc) : List Byte := leBytes 8 (p.ofs * 2 ^ 59 + p.addr.toNat)

def laneCode : LaneSt → Nat
  | .unblocked => 0 | .parked => 1 | .faultParked => 2 | .onCall => 3 | .exited => 4 | .inactive => 5

/-- The fields of an access descriptor (R176): opcode, space, width, destination, flag, scope and ordering. -/
def descFields (flag : Nat) (acc : Acc) : List Nat :=
  let reg : Opnd → Nat
    | .v n => n.toNat
    | .s n => 512 + n.toNat
    | _ => 2047
  let b (x : Bool) : Nat := if x then 1 else 0
  match acc with
  | .load w d => [0, 0, ldSize w + (if w = .i8 ∨ w = .i16 then 32 else 0), reg d, flag, 0, 0]
  | .store n => [1, 0, n, 2047, flag, 0, 0]
  | .stu => [2, 0, 8, 2047, flag, 0, 0]
  | .atom op ty scope order d => [16 + op, 0, ty, reg d, flag, scope, order]
  | .wait cond scope acq w64 d => [3 + 32 * (match cond with | .eq => 0 | .ne => 1 | .ge => 2 | .lt => 3), 0, if w64 then 8 else 4, reg d, flag, scope, b acq]
  | .mcast ob dst => [4, 1 + b ob, 128, dst, flag, 0, 0]
  | .acqRead d => [5, 0, 8, reg d, flag, 4, 1]
  | .relOp op => [6 + 32 * op, 0, 8, 2047, flag, 4, 2]
  | .hint act => [7 + 32 * act, 0, 1, 2047, flag, 0, 0]

/-- An operand-log entry (R176): its access descriptor has no stated layout (log entry 30). -/
def logPieces (flag off : Nat) (p : Parked) : Pieces :=
  [(off, leBytes 8 (Config.accessDescriptor (descFields flag p.acc)) ++ leBytes 4 (lanesMask p.lanes).toNat ++ leBytes 4 p.kind
      ++ leBytes 8 p.first ++ leBytes 8 p.clause)]
    ++ p.lanes.flatMap fun y => [(off + 0x100 + 8 * y.lane, leBytes 8 y.addr), (off + 0x200 + 16 * y.lane, y.data)]

/-- A lane's value in a command, 0 for a lane that takes no part. -/
def laneVal {α : Type} (e : Option α) (f : α → Nat) : Nat := (e.map f).getD 0

/-- The operands a replay-window entry holds (R119). -/
def cmdBytes : EngCmd → List Byte
  | .mma block ar br _ _ => block.flatMap (leBytes 4) ++ ar ++ br
  | .cpy block _ => block.flatMap (leBytes 4)
  | .lxfer block => block.flatMap (leBytes 8)
  | .msmld _ _ lanes => (List.range 32).flatMap fun l => leBytes 4 (laneVal (lanes.find? fun e => e.1 == l) fun e => e.2)
  | .msmst _ lanes =>
    ((List.range 32).flatMap fun l => leBytes 4 (laneVal (lanes.find? fun e => e.1 == l) fun e => e.2.1))
      ++ (List.range 32).flatMap fun l => leBytes 8 (laneVal (lanes.find? fun e => e.1 == l) fun e => e.2.2)
  | .swcommit _ lanes => (List.range 32).flatMap fun l => leBytes 4 (laneVal (lanes.find? fun e => e.1 == l) fun e => e.2.2)
  | .swwake blk lanes =>
    leBytes 8 blk ++ (List.range 32).flatMap fun l => leBytes 4 (laneVal (lanes.find? fun e => e.1 == l) fun e => e.2)
  | .swdecl _ blk part mapoff => leBytes 8 blk ++ leBytes 4 part ++ leBytes 4 mapoff
  | .swstart wrd val => leBytes 8 wrd ++ leBytes 8 val
  | _ => []

/-- The replay windows: four entries for each engine in the order matrix, copy, sweep, link. -/
def windowPieces (off : Nat) (g : Group) : Pieces :=
  (List.range 4).flatMap fun e => (windowOf g e).mapIdx fun i w =>
    (off + 512 * (4 * e + i), leBytes 8 w.word.toNat ++ leBytes 8 w.lanes.toNat ++ cmdBytes w.cmd.cmd)

/-- The flag of a parked access's operation. -/
def flagOf (g : Group) (p : Parked) : Nat := ((g.ops.find? fun o => o.id == p.op).map fun o => o.flag).getD 15

/-- The block of a group that has retired: every lane has exited (DEDUCED, log 62). -/
def emptyBlock (off vregs : Nat) : Pieces :=
  [(off, List.replicate (0x3C00 + 128 * vregs) 0), (off + 0x100, List.replicate 32 (BitVec.ofNat 8 (laneCode .exited)))]

/-- The block of a group at an offset, zero but for its fields, with the entries its operand log then holds. -/
def groupPieces (s : State) (gk off : Nat) (g : Group) (log : List Parked) : Pieces :=
  let t := g.trap
  let b (x : Bool) : Nat := if x then 1 else 0
  [ (off, List.replicate 0x3C00 0),
    (off, g.lanes.flatMap fun x => pcBytes x.pc),
    (off + 0x100, g.lanes.flatMap fun x => leBytes 1 (laneCode x.st)),
    (off + 0x120, g.lanes.flatMap fun x => leBytes 2 x.age),
    (off + 0x160, (List.range 32).flatMap fun l => leBytes 1 (iter 8 (fun k m => m + b ((predOf g k).getLsbD l) * 2 ^ k) 0)),
    (off + 0x180, (List.range 16).flatMap fun n => leBytes 4 (g.members.getD n 0).toNat ++ leBytes 4 (g.arrivals.getD n 0).toNat),
    (off + 0x200, leBytes 2 (pendingMask g) ++ leBytes 2 (faultedMask s gk g) ++ leBytes 2 (failedMask g) ++ leBytes 1 (b t.hchk)),
    (off + 0x220, leBytes 4 t.tvec0.toNat ++ leBytes 4 t.tvec1.toNat ++ leBytes 4 t.tcause.toNat ++ leBytes 4 t.tmask.toNat
      ++ pcBytes t.tepc ++ leBytes 8 t.taddr.toNat ++ leBytes 4 (maskOf fun l => (laneOf g l).rewritten).toNat
      ++ leBytes 1 t.lpcsel ++ leBytes 1 (2 * b t.masked + b t.inh) ++ leBytes 1 t.rngsel
      ++ leBytes 4 (t.staged.getD 0).toNat ++ leBytes 1 (b t.staged.isSome)),
    (off + 0x280, g.tables.flatten),
    (off + 0x300, leBytes 8 g.stamp ++ leBytes 4 g.waitAge ++ leBytes 4 0 ++ leBytes 8 g.watchdog
      ++ leBytes 4 (g.recovery / 100) ++ leBytes 4 0 ++ leBytes 8 ((g.call.map fun c => c.seq).getD 0)),
    (off + 0x3400, (List.range 512).flatMap fun n => leBytes 4 (sreg g n).toNat),
    (off + 0x3C00, (List.range g.vregs).flatMap fun r => (List.range 32).flatMap fun l => leBytes 4 (vreg g r l).toNat) ]
    ++ (log.mapIdx fun i p => logPieces (flagOf g p) (off + 0x400 + 1024 * i) p).flatten ++ windowPieces (off + 0x1400) g

/-- The header (R118). -/
def headerBytes (w : Wg) (gs : List (Nat × Group)) (retired : Nat) (again : Bool) : List Byte :=
  let b (x : Bool) (k : Nat) : Nat := if x then 2 ^ k else 0
  fitBytes 256 (leBytes 2 w.asid ++ leBytes 2 w.record
    ++ leBytes 4 (b w.bonded 0 + b again 1 + b (gs.any fun e => e.2.trap.inh) 2 + b (gs.any fun e => inState e.2 .onCall != 0) 3)
    ++ leBytes 8 w.index ++ leBytes 8 (if w.bonded then w.ticket else 0) ++ leBytes 1 w.brow ++ leBytes 1 w.bcol
    ++ leBytes 2 retired ++ leBytes 4 w.ngroups)

/-- A barrier of a record: count, arrivals, waiting group mask (log entry 30 for the fields' widths). -/
def barrierBytes (w : Wg) (b : Barrier) : List Byte :=
  leBytes 4 b.expected ++ leBytes 4 b.arrivals
    ++ leBytes 8 (b.waiting.foldl (fun m e => m ||| 2 ^ groupNum w e.1) 0)

/-! ### Saving -/

/-- The waits of a group as operand-log entries of kind 0 (R437). -/
def waitEntries (s : State) (gk : Nat) : List Parked :=
  (waitOps s gk).filterMap fun id =>
    let ws := s.waits.filter fun w => w.group == gk && w.op == id
    ws.head?.map fun w =>
      { group := gk, op := id, acc := .wait w.cond w.scope w.acq w.w64 w.d
        lanes := ws.foldl (fun l w => insLane ⟨w.lane, w.va, leBytes (if w.w64 then 8 else 4) w.cmp, 0⟩ l) []
        kind := 0, first := w.va, clause := w.clause, place := .log }

/-- The parked accesses of a group as they are saved. -/
def savedPark (s : State) (gk : Nat) : List Parked := (s.parked.filter fun p => p.group == gk) ++ waitEntries s gk

/-- The commands of a workgroup in a copy or link engine. -/
def dmaOfWg (s : State) (e key wk : Nat) : List (Nat × DmaEnt) :=
  ((dmaOf s e key).filter fun x => x.cmd.wg == wk && x.packet.isNone).map fun x => (e, x)

/-- What the record of a workgroup holds. -/
def saveImage (s : State) (wk : Nat) (w : Wg) : SaveImg :=
  let f := groupNum w
  let core := keyCore wk
  let c := coreSt s core
  let x := swOf s core
  { wg := { w with barriers := w.barriers.map (mapBarrier f) }
    groups := (numberedGroups s wk w).map fun e => (e.1, mapGroup f 0 0 e.2)
    sp := cellBytes c.sp w.scratchOff w.scratchLen
    ob := cellBytes c.ob w.obOff w.obLen
    ms := cellBytes c.ms w.msOff w.msLen
    spPoison := shiftDown w.scratchOff w.scratchLen c.spPoison
    obPoison := shiftDown w.obOff w.obLen c.obPoison
    mx := (mxOfWg s wk).map fun e => { e with cmd := mapCmd f 0 e.cmd, sent := 0 }
    bond := if w.bonded then (gangLease s w).map fun l => ({ l with cut := [] }, (sfind l.cut core).getD (mxOf s core)) else none
    dma := ((dmaOfWg s 1 core wk) ++ (dmaOfWg s 3 (dieOf core) wk)).map fun e =>
      (e.1, { e.2 with cmd := mapCmd f 0 e.2.cmd })
    sw := if w.sw && x.wg == some (keyNum wk) then some (mapSw f 0 x) else none
    parked := (groupsOfWg s wk).flatMap fun gk => (savedPark s gk).map fun p => { p with group := f gk }
    size := recordSize s wk }
where
  /-- The poisoned sectors of a run, numbered from its start. -/
  shiftDown (off len : Nat) (p : NatSet) : NatSet :=
    p.filterMap fun e => if off / 32 ≤ e.1 ∧ e.1 < (off + len) / 32 then some (e.1 - off / 32, ()) else none

/-- The retired members of a gang as a mask: bit i·c + j for the member at bond row i and column j (DESIGN CHOICE, log 30). -/
def retiredMask (s : State) (w : Wg) : Nat :=
  match gangLease s w with
  | none => 0
  | some l => (l.members.filter fun m => l.retired.contains m.1).foldl (fun k m => k ||| 2 ^ (m.2.1 * l.cols + m.2.2)) 0

/-- A command of the copy or link engine, with its position and its patch list (R114). -/
def dmaData (e : Nat × DmaEnt) : List Nat :=
  [e.1, e.2.pos, if e.2.aside then 1 else 0] ++ (cmdBytes e.2.cmd.cmd).map BitVec.toNat
    ++ e.2.patch.flatMap fun p => [p.seg, p.kind, p.va]

/-- A command of the matrix engine, with its version and next row (R267). -/
def mxData (e : MxEnt) : List Nat := [e.ver, e.opseq, e.place, e.row] ++ (cmdBytes e.cmd.cmd).map BitVec.toNat

/-- The lanes and the destinations of a held pull (R491). -/
def pullData : EngCmd → List Nat
  | .swpull d st lanes => [lanes.toNat, opndNum d, opndNum st]
  | _ => []
where
  opndNum : Opnd → Nat
    | .v n => n.toNat
    | .s n => 512 + n.toNat
    | _ => 2047

/-- The state of a sweep engine (R293). -/
def swData (x : SwSt) : List Nat :=
  [x.run, x.dec, x.waddr, x.cval, x.p, x.sweep, x.baked] ++ x.marks.map (fun e => e.1)
    ++ x.batches.flatMap (fun b => b.group :: b.op :: b.sent.toNat :: b.lanes.flatMap fun e => [e.1, e.2])
    ++ x.pulls.flatMap (fun c => c.group :: c.op :: pullData c.cmd)
    ++ (x.held.flatMap fun c => (cmdBytes c.cmd).map BitVec.toNat)
    ++ x.patch.flatMap fun p => [p.kind, p.va]

/-- The register-sourced A of a command: 4,096 bytes (R118). -/
def regImage (e : MxEnt) : List Byte := fitBytes 4096 (mmaOf e).2.2.2

/-- The maps of a workgroup's sweep engine. -/
def mapsOf (s : State) (core : Nat) : List Byte :=
  match (swOf s core).decl with
  | some d => cellBytes (coreSt s core).sp (mapBase s core d false) (2 * mapBytes d.count)
  | none => []

/-- The engine sections of a record, their inner layouts left open (log entry 30). -/
def enginePieces (s : State) (wk : Nat) (w : Wg) (o : Nat → Nat) : Pieces :=
  let core := keyCore wk
  let mx := mxOfWg s wk
  let dma := dmaOfWg s 1 core wk ++ dmaOfWg s 3 (dieOf core) wk
  [ (o 7, fitBytes 8192 (Config.engineSection 1 (dma.flatMap dmaData))),
    (o 8, fitBytes 4096 (Config.engineSection 2 (mx.flatMap mxData)) ++ (mx.filter regSourced).flatMap regImage),
    (o 9, fitBytes 1024 (if w.sw then Config.engineSection 3 (swData (swOf s core)) else [])
      ++ if w.sw then fitBytes 4096 (Config.mapImage s.tick (mapsOf s core)) else []) ]

/-- The bytes of a record (R118). -/
def recordPieces (s : State) (wk : Nat) (w : Wg) : Pieces :=
  let offs := recordLayout s wk w
  let o (k : Nat) := offs.getD k 0
  let gs := numberedGroups s wk w
  let c := coreSt s (keyCore wk)
  let vr := blockVregs s wk w
  let start (n : Nat) : Nat := o 1 + (vr.take n).foldl (fun a v => a + 0x3C00 + 128 * v) 0
  [ (0, headerBytes w gs (retiredMask s w) false),
    (o 2, w.barriers.flatMap (barrierBytes w)),
    (o 3, w.obrecs.flatten),
    (o 4, cellBytes c.ob w.obOff w.obLen), (o 5, cellBytes c.ms w.msOff w.msLen), (o 6, cellBytes c.sp w.scratchOff w.scratchLen) ]
    ++ ((List.range vr.length).flatMap fun n => match sfind gs n with
      | some g =>
        let gk := groupKey wk w n
        groupPieces s gk (start n) g ((savedPark s gk).filter fun p => p.place == .log)
      | none => emptyBlock (start n) (vr.getD n 0))
    ++ enginePieces s wk w o

/-- Before the state of a workgroup is written: its sweep engine stops (R293), and its ASID's lines are released at
package scope in the cluster it leaves (R199). -/
def beforeSave (wk : Nat) (w : Wg) (s : State) : State :=
  let core := keyCore wk
  let s1 := if w.sw && (swOf s core).wg == some (keyNum wk) then stopSweep core (ackNotices core (takeNotices core s)) else s
  releaseScope s1 core w.asid 4

/-- Write the save record of a workgroup at an address. -/
def storeSave (wk addr : Nat) (s : State) : State :=
  match sfind s.wgs wk with
  | none => s
  | some w =>
    let s1 := beforeSave wk w s
    let img := saveImage s1 wk w
    let s2 := (recordPieces s1 wk w).foldl (fun s p => memPut s (addr + p.1) p.2) s1
    { s2 with images := sset s2.images addr img }

/-- A workgroup's record is written and its resources are freed (R115 steps 2 and 3). -/
def saveFree (s : State) (e : Nat × Nat) : State := freeWg e.1 (storeSave e.1 e.2 s)

/-- The record of a workgroup that starts over: a header with its restart bit (R118, R124). -/
def storeRestart (wk addr : Nat) (w : Wg) (s : State) : State :=
  let img : SaveImg := { saveImage s wk w with
    groups := [], sp := [], ob := [], ms := [], spPoison := [], obPoison := [], mx := [], bond := none, dma := [], sw := none
    parked := [], size := 256 }
  let s1 := memPut s addr (headerBytes w [] (retiredMask s w) true)
  { s1 with images := sset s1.images addr img }

/-- The lease of a workgroup ends, if it stood in one. -/
def dropLease (l : Option Lease) (s : State) : State :=
  match l with
  | some l => endLease l s
  | none => s

/-- The name a save-list entry has: the gang's ticket or the workgroup's index (R101). -/
def entName (w : Wg) : Nat := if w.bonded then w.ticket else w.index

/-- The excess of a drain over D is charged and reported (R112), each rounded down to whole µs (DESIGN CHOICE, log 51); an
ironing drain is not charged (R147). The event names the index of the member the drain was found complete at (DESIGN
CHOICE, log 51). -/
def chargeDrain (w : Wg) (d : Option Drain) (s : State) : State :=
  match d with
  | none => s
  | some d =>
    let took := s.refclk - d.since.getD s.refclk
    if d.ironing || decide (took ≤ d.limit) then s
    else
      let s1 := modCtx s w.asid fun c => { c with debt := c.debt + (took - d.limit) / 100 }
      let debt := ((ctxOf s1 w.asid).map fun c => c.debt).getD 0
      postEvent 0x21 w.asid (leBytes 4 (placingCore s d.core w) ++ leBytes 4 (d.limit / 100) ++ leBytes 4 (took / 100)
        ++ leBytes 4 debt
        ++ leBytes 8 w.index ++ leBytes 2 (tagOf s w.record) ++ leBytes 2 (queueOf s w.record)) s1

/-- A stopped workgroup or gang goes onto its record's save list (R115, R116, R124). -/
def completeDrain (wk : Nat) (s : State) : State :=
  match sfind s.wgs wk with
  | none => s
  | some w =>
    let ks := gangOf s wk
    let d := drainFor s wk
    let l := if w.bonded then gangLease s w else none
    if !w.stopping || d.isNone || !(ks.all (wgDrained s)) then s
    else if w.restartable && !w.committed then
      let s1 := dropLease l (ks.foldl (fun s k => freeWg k s) s)
      chargeDrain w d { s1 with saves := s1.saves ++ [⟨w.record, entName w, [], w.attempt, none, w.restores⟩] }
    else
      match allocAll (ks.map (recordSize s)) (poolUsed s) with
      | none => s
      | some addrs =>
        let s1 := dropLease l ((ks.zip addrs).foldl saveFree s)
        chargeDrain w d { s1 with saves := s1.saves ++ [⟨w.record, entName w, addrs, w.attempt, none, w.restores⟩] }

/-! ### Restoring (R120, R294) -/

/-- Bytes of a record placed in a core's memory at a run's offset, with the poison of its sectors. -/
def loadLocals (core : Nat) (w : Wg) (img : SaveImg) (s : State) : State :=
  modCore s core fun c =>
    { c with
      sp := cellPut c.sp w.scratchOff img.sp, ob := cellPut c.ob w.obOff img.ob, ms := cellPut c.ms w.msOff img.ms
      spPoison := img.spPoison.foldl (fun p e => nsAdd p (w.scratchOff / 32 + e.1)) c.spPoison
      obPoison := img.obPoison.foldl (fun p e => nsAdd p (w.obOff / 32 + e.1)) c.obPoison }

/-- A lease over another rectangle of the same shape. -/
def moveLease (l : Lease) (at' : Nat → Nat → Nat) : Lease :=
  let there (core : Nat) : Nat := match l.members.find? fun m => m.1 == core with
    | some m => at' m.2.1 m.2.2
    | none => core
  { l with
    members := l.members.map fun m => (at' m.2.1 m.2.2, m.2.1, m.2.2)
    retired := l.retired.map there, released := l.released.map there
    cmds := l.cmds.foldl (fun c e => sset c (there e.1) e.2) [] }

/-- The lease a saved gang held stands again, unless another member's restore has made it so: every member's engine is
bonded under the shape and tiles it had. -/
def restoreLease (core : Nat) (img : SaveImg) (s : State) : State :=
  match img.bond with
  | none => s
  | some (l, x) =>
    if (gangLease s img.wg).isSome then s
    else
      let l1 := moveLease l (rectOf core l.rows img.wg.brow img.wg.bcol)
      let s1 := l1.members.foldl (fun s m => modMx s m.1 fun y =>
        { y with
          cfg0 := tileCfg x.cfg0.rows x.cfg0.cols m.2.1 m.2.2, cfg1 := tileCfg x.cfg1.rows x.cfg1.cols m.2.1 m.2.2
          iv := x.iv, bonded := true
          relIssued := false, itr := l.trows, itc := l.tcols }) s
      { s1 with leases := s1.leases ++ [l1] }

/-- The saved matrix commands of a workgroup stand in its new core's engine again. -/
def loadMx (core : Nat) (img : SaveImg) (cmd : Cmd → Cmd) (s : State) : State :=
  let q := img.mx.map fun e => { e with cmd := cmd e.cmd }
  match img.bond with
  | some (_, x) =>
    modMx s core fun y =>
      { y with
        queue := y.queue ++ q, relIssued := x.relIssued, itr := x.itr, itc := x.itc, ops := x.ops, bondOps := x.bondOps
        past := x.past }
  | none => q.foldl (fun s e => modMx s core fun y =>
      { y with queue := y.queue ++ [{ e with ver := 0, opseq := y.ops % 16 }], ops := y.ops + 1 }) s

/-- The saved state enters the slots and runs of a workgroup (R120), with the generators of one restore more (R312). -/
def loadImage (wk : Nat) (img : SaveImg) (s : State) : State :=
  match sfind s.wgs wk with
  | none => s
  | some w =>
    let core := keyCore wk
    let f := groupKey wk w
    let cmd := mapCmd f wk
    let w1 := { w with
      barriers := img.wg.barriers.map (mapBarrier f), committed := img.wg.committed, obrecs := img.wg.obrecs
      sbuf := img.wg.sbuf, spill := img.wg.spill, restores := img.wg.restores + 1, attempt := img.wg.attempt
      index := img.wg.index, ticket := img.wg.ticket, restartable := img.wg.restartable, image := none
      stopping := false, released := true }
    let s1 := acquireScope s core w.asid 4
    let s2 := loadLocals core w img (zeroRuns wk w { s1 with wgs := sset s1.wgs wk w1 })
    let s3 := (List.range w.slots.length).foldl (fun s n =>
      match sfind img.groups n with
      | none => dropGroup (f n) s
      | some g =>
        let ub := match sfind s.groups (f n) with | some old => old.ubase | none => 0
        let g1 := startGroup s w1 none { mapGroup f wk (keyNum wk) g with ubase := ub }
        { s with groups := sset s.groups (f n) g1 }) s2
    let s4 := loadMx core img cmd (restoreLease core img s3)
    let s5 := img.dma.foldl (fun s e =>
      let key := engKey core e.1
      putDma s e.1 key (dmaOf s e.1 key ++ [{ e.2 with cmd := cmd e.2.cmd }])) s4
    let s6 := { s5 with parked := s5.parked ++ img.parked.map fun p => { p with group := f p.group } }
    let s7 := match img.sw with
      | none => s6
      | some x =>
        replaySweep core (fun p => p.kind == 0)
          (resumeSweep core (modSw s6 core fun _ => { mapSw f wk x with wg := some (keyNum wk) }))
    let ready (p : Parked) : Bool := p.kind == 0 && p.place == .log && (img.groups.any fun e => f e.1 == p.group)
    replayWhere (fun _ p => ready p) s7

/-! ### Reading a record (R118, R119, R482) -/

/-- A little-endian number of a record's bytes. -/
def recNat (m : List Host.Cell) (a n : Nat) : Nat := ofLeBytes (cellBytes m a n)

/-- A field of the header of a record in memory. -/
def headerAt (s : State) (addr o n : Nat) : Nat := memNat s (addr + o) n

/-- Whether a record stands at an address (a header with ASID 0 is none, R481), its number of groups, and whether the
workgroup starts over (R124). -/
def recordThere (s : State) (addr : Nat) : Bool :=
  targetOf addr == .firmware && targetOf (addr + 255) == .firmware && headerAt s addr 0 2 != 0
def recordGroups (s : State) (addr : Nat) : Nat := headerAt s addr 0x1C 4
def startsOver (s : State) (addr : Nat) : Bool := (headerAt s addr 4 4).testBit 1

def pcOf (x : Nat) : Pc := ⟨BitVec.ofNat 57 x, field x 59 5⟩

def codeLane : Nat → LaneSt
  | 0 => .unblocked | 1 => .parked | 2 => .faultParked | 3 => .onCall | 4 => .exited | _ => .inactive

/-- The trap registers of a block at an address. -/
def readTrap (m : List Host.Cell) (a : Nat) (t : Trap) : Trap :=
  let f (o n : Nat) : Nat := recNat m (a + o) n
  { t with
    hchk := (f 0x206 1).testBit 0
    tvec0 := BitVec.ofNat 32 (f 0x220 4), tvec1 := BitVec.ofNat 32 (f 0x224 4), tcause := BitVec.ofNat 32 (f 0x228 4)
    tmask := BitVec.ofNat 32 (f 0x22C 4), tepc := pcOf (f 0x230 8), taddr := BitVec.ofNat 64 (f 0x238 8), lpcsel := f 0x244 1
    inh := (f 0x245 1).testBit 0, masked := (f 0x245 1).testBit 1, rngsel := f 0x246 1
    staged := if f 0x24B 1 = 0 then none else some (BitVec.ofNat 32 (f 0x247 4)) }

/-- The lanes of a block. -/
def readLanes (m : List Host.Cell) (a : Nat) (g : Group) : List Lane :=
  (List.range 32).map fun l =>
    { laneOf g l with
      pc := pcOf (recNat m (a + 8 * l) 8), st := codeLane (recNat m (a + 0x100 + l) 1), age := recNat m (a + 0x120 + 2 * l) 2
      rewritten := (recNat m (a + 0x240) 4).testBit l }

/-- The words of a file of registers that are not zero, by key. -/
def readWords (m : List Host.Cell) (a n : Nat) : List (Nat × W32) :=
  (List.range n).filterMap fun k =>
    let x := BitVec.ofNat 32 (recNat m (a + 4 * k) 4)
    if x = 0 then none else some (k, x)

/-- A group of a record, as its block at an address says; what a block has no stated layout for (its operations and entries)
is as the device wrote it (DESIGN CHOICE, log 30). -/
def readGroup (m : List Host.Cell) (a : Nat) (g : Group) : Group :=
  let f (o n : Nat) : Nat := recNat m (a + o) n
  let r := f 0x318 4
  { g with
    lanes := readLanes m a g
    preds := (List.range 7).map fun k => maskOf fun l => (f (0x160 + l) 1).testBit k
    members := (List.range 16).map fun n => BitVec.ofNat 32 (f (0x180 + 8 * n) 4)
    arrivals := (List.range 16).map fun n => BitVec.ofNat 32 (f (0x184 + 8 * n) 4)
    failed := g.failed.filter fun e => (f 0x204 2).testBit e.1
    trap := readTrap m a g.trap
    tables := (List.range 4).map fun k => cellBytes m (a + 0x280 + 32 * k) 32
    stamp := f 0x300 8, waitAge := f 0x308 4, watchdog := f 0x310 8
    recovery := if g.recovery / 100 = r then g.recovery else 100 * r
    call := g.call.map fun c => { c with seq := f 0x320 8 }
    sreg := readWords m (a + 0x3400) 512, vreg := readWords m (a + 0x3C00) (32 * g.vregs) }

/-- What the device knows of the record at an address beside its bytes: of the one that it wrote there, or of one with the
same header elsewhere, of which this is a copy; of no other (DESIGN CHOICE, log 30). -/
def imageAt (s : State) (addr : Nat) : Option SaveImg :=
  let same (e : Nat × SaveImg) : Bool :=
    let w := e.2.wg
    w.asid == headerAt s addr 0 2 && w.record == headerAt s addr 2 2 && w.index == headerAt s addr 8 8
  match sfind s.images addr with
  | some img => if same (addr, img) then some img else (s.images.find? same).map fun e => e.2
  | none => (s.images.find? same).map fun e => e.2

/-- The image of a record that nothing is known of beside its bytes. -/
def blankImage (w : Wg) : SaveImg :=
  { wg := { w with restores := 0 }, groups := [], sp := [], ob := [], ms := [], spPoison := [], obPoison := [], mx := []
    bond := none, dma := [], sw := none, parked := [], size := 0 }

/-- A barrier of a record. -/
def readBarrier (m : List Host.Cell) (a : Nat) (b : Barrier) : Barrier :=
  { b with
    expected := recNat m a 4, arrivals := recNat m (a + 4) 4
    waiting := b.waiting.filter fun e => (recNat m (a + 8) 8).testBit e.1 }

/-- What a record holds for the workgroup that is restored from it: every field with a stated place is read from its bytes
(R119, R482). -/
def readRecord (s : State) (wk addr : Nat) (w : Wg) : SaveImg :=
  let img := (imageAt s addr).getD (blankImage w)
  let gs := (List.range w.slots.length).map fun n => (sfind s.groups (groupKey wk w n)).getD (newGroup 0 n 0 (0, 0, 8))
  let vr := gs.map fun g => g.vregs
  let offs := sectionOffsets 0 (sectionSizes w vr 0)
  let o (k : Nat) : Nat := addr + offs.getD k 0
  let m := s.mem.filter fun e => decide (addr ≤ e.1) && decide (e.1 < o 10)
  let block (n : Nat) : Nat := o 1 + (vr.take n).foldl (fun a v => a + 0x3C00 + 128 * v) 0
  let gone (n : Nat) : Bool := (sfind img.groups n).isNone && (List.range 32).all fun l => recNat m (block n + 0x100 + l) 1 == 4
  let group (n : Nat) (g : Group) : Group :=
    let old := (sfind img.groups n).getD { g with wg := 0 }
    readGroup m (block n) { old with vregs := g.vregs }
  { img with
    wg := { img.wg with
      index := recNat m (addr + 8) 8, ticket := if w.bonded then recNat m (addr + 0x10) 8 else img.wg.ticket
      restartable := w.restartable
      barriers := (List.range w.nbar).map fun k => readBarrier m (o 2 + 16 * k) (img.wg.barriers.getD k Barrier.reset)
      obrecs := (List.range 16).map fun k => cellBytes m (o 3 + 32 * k) 32 }
    groups := gs.zipIdx.filterMap fun e => if gone e.2 then none else some (e.2, group e.2 e.1)
    ob := cellBytes m (o 4) w.obLen, ms := cellBytes m (o 5) w.msLen, sp := cellBytes m (o 6) w.scratchLen }

/-- The record of a restored workgroup is read and freed. -/
def restoreFrom (wk addr : Nat) (s : State) : State :=
  match sfind s.wgs wk with
  | none => s
  | some w =>
    let s1 := loadImage wk (readRecord s wk addr w) s
    { s1 with images := sdel s1.images addr }

/-- A workgroup that starts over is released from its entry points under its old index, and its record is freed (R124). -/
def releaseAgain (wk addr : Nat) (s : State) : State :=
  let old := imageAt s addr
  let s1 := modWg s wk fun w =>
    { w with
      index := headerAt s addr 8 8, ticket := if w.bonded then headerAt s addr 0x10 8 else w.ticket, image := none
      attempt := (old.map fun i => i.wg.attempt).getD w.attempt, restores := (old.map fun i => i.wg.restores + 1).getD w.restores }
  { releaseFresh wk s1 with images := sdel s1.images addr }

end Sys2Proof.Machine
end

