-- ==== Sys2Proof/Machine/Errors.lean ====
section
/-! DEFINITION. Detection and containment of errors (R129 to R153), and the hang of a group (R125 to R128). -/

namespace Sys2Proof.Machine

/-! ### Errors by structure (R130) -/

/-- The save record that holds a physical address. -/
def recordAt (s : State) (pa : Nat) : Option SaveImg :=
  (s.images.find? fun e => decide (e.1 ≤ pa) && decide (pa < e.1 + e.2.size)).map fun e => e.2

/-- The cause of a fatal event for an address of the firmware region (R153): 0 the work board, 1 the firmware image, 2 other. -/
def fatalCause (s : State) (pa : Nat) : Nat :=
  if boardAddr 0 ≤ pa ∧ pa < boardAddr 4096 then 0
  else if s.boot.loaded ∧ s.boot.agentEntry ≤ pa ∧ pa < s.boot.agentEntry + s.boot.agentCode.length then 1
  else 2

/-- Loss of a byte of the firmware region: the save pool's costs the context that the record names, anything else is
device-fatal; a part of the pool that holds no record costs nothing (DEDUCED, log 25). -/
def firmwareLoss (place pa : Nat) (s : State) : State :=
  match recordAt s pa with
  | some img => killContext img.wg.asid 5 place 0 pa s
  | none => if poolBase ≤ pa ∧ pa < poolBase + poolSize then s else deviceFatal (fatalCause s pa) pa s

/-- An uncorrectable error in a sector of HBM. -/
def hbmError (place pa : Nat) (s : State) : State :=
  match targetOf pa with
  | .hbm => { s with poison := nsAdd s.poison (pa / 32) }
  | .firmware => firmwareLoss place pa s
  | _ => s

/-- A dirty sector was found bad as its line was written back (R145): memory holds it poisoned; its frame is quarantined,
and its owner dies with cause 2. -/
def sectorLost (cl asid va pa : Nat) (s : State) : State :=
  let place := 4 * cl + sliceOf va
  if asid = 0 then firmwareLoss place pa s
  else quarantine asid (pa / 65536) (killContext asid 2 place va pa s)

/-- Check bits of dirty sectors of an L2 line stop holding (R145). -/
def markBad (cl asid va sectors : Nat) (s : State) : State :=
  modCluster s cl fun c => { c with l2 := smod c.l2 (lineKey asid va) fun ln =>
    { ln with bad := ln.bad ||| (sectors &&& sectorsTouched ln.dirty) } }

/-- A dirty sector of an L2 line is found bad (R145): the line is written back, which finds it; where the page has no
translation no memory can take it, and the owner dies all the same. -/
def dirtyLost (cl asid va sector : Nat) (s : State) : State :=
  let s1 := evictLine (markBad cl asid va (2 ^ sector) s) cl (lineKey asid va)
  match (lookupLeaf s1 asid va).1 with
  | .ok _ => s1
  | .error _ => killContext asid 2 (4 * cl + sliceOf va) (va / 128 * 128 + 32 * sector) 0 s1

/-- The key of a slice's residency bit for an ASID (R145). -/
def residKey (cl slice asid : Nat) : Nat := (4 * cl + slice) * 65536 + asid

/-- Whether a key of a cluster's lines lies in a slice. -/
def inSlice (slice key : Nat) : Bool := sliceOf (keyVa key) == slice

/-- The wash of a slice begins: every line and tag goes; requests wait until it ends (R144). -/
def startWash (cl slice : Nat) (s : State) : State :=
  modCluster s cl fun c =>
    { c with l2 := c.l2.filter fun e => !inSlice slice e.1, washing := nsAdd c.washing slice }

/-- Whether a slice holds dirty lines of the firmware region outside the save pool. -/
def firmwareDirty (s : State) (cl slice : Nat) : Bool :=
  (clusterSt s cl).l2.any fun e =>
    keyAsid e.1 == 0 && inSlice slice e.1 && e.2.dirty != 0 && targetOf (keyVa e.1) == .firmware
      && !(decide (poolBase ≤ keyVa e.1) && decide (keyVa e.1 < poolBase + poolSize))

/-- The tag of a line that may be dirty is lost, and with it the line (R146): every context whose residency bit is set dies;
`lost` has a bit for each word of the bitmap whose own parity fails. -/
def tagLost (cl key lost : Nat) (s : State) : State :=
  let slice := sliceOf (keyVa key)
  let place := 4 * cl + slice
  let set' (a : Nat) : Bool := nsHas s.residency (residKey cl slice a) || lost.testBit (a / 64)
  let s1 := s.ctxs.foldl (fun s e => if set' e.1 then killContext e.1 3 place 0 0 s else s) (dropL2 s cl key)
  let s2 := if set' 0 && firmwareDirty s cl slice then deviceFatal 2 0 s1 else s1
  startWash cl slice s2

/-- The workgroup of a core's matrix engine head, for an error in its pipeline. -/
def headWg (s : State) (core : Nat) : Nat := match (mxOf s core).queue with | e :: _ => e.cmd.wg | [] => noWg

/-- Drop every translation a unit holds for an address. -/
def dropUnit (unit asid va : Nat) (s : State) : State :=
  let u := sget UnitSt.reset s.units unit
  let keep (e : TlbEnt) : Bool := !tlbHit asid va e
  let u1 : UnitSt := ⟨u.tlb1.filter keep, u.tlb2.filter keep,
    u.pwc.filter fun e => !(e.asid == asid && e.tag == va / 2 ^ levelShift e.level)⟩
  { s with units := sset s.units unit u1 }

/-- The store-buffer consumption of a workgroup (R136). -/
def sbufError (wk : Nat) (s : State) : State := consumeBy 1 wk 0 0 s

/-- UNCORRECTABLE_ERROR (R130). Env: `kind` the structure in the order of R130's table; `core` a core or cluster, `slot` a
workgroup number or slice, `asid` and `addr` an address (physical for HBM and the firmware region), `index` a sector, `flag`
an L2 sector's error that nothing has found yet, `mask` the bitmap words whose parity fails. -/
def execUncorrectableError (s : State) : Host.Outcome State Fault Refusal :=
  let e := s.env
  let wk := wkey e.core e.slot
  let key := lineKey e.asid e.addr
  .next (match e.kind with
    | 0 => hbmError e.core e.addr s
    | 1 =>
      match sfind (clusterSt s e.core).l2 key with
      | none => s
      | some ln =>
        if e.flag then markBad e.core e.asid e.addr (2 ^ (e.index % 4)) s
        else if (sectorsTouched ln.dirty).testBit e.index then dirtyLost e.core e.asid e.addr (e.index % 4) s
        else countCorrected 1 (evictLine s e.core key)
    | 2 =>
      match sfind (clusterSt s e.core).l2 key with
      | none => s
      | some ln =>
        if ln.dirty = 0 then countCorrected 1 (dropL2 s e.core key)
        else tagLost e.core key e.mask s
    | 3 => countCorrected 1 (dropL1 s e.core key)
    | 4 => modCore s e.core fun c => { c with spPoison := nsAdd c.spPoison (e.addr / 32) }
    | 5 => sbufError wk s
    | 6 => consumeBy 0 wk 0 0 s
    | 7 => consumeBy 2 wk 0 0 s
    | 8 => if (leaseOf s e.core).isSome then consumeGang 3 e.core s else consumeBy 3 (headWg s e.core) 0 0 s
    | 9 => countCorrected 1 (dropUnit (unitOf e.addr) e.asid e.addr s)
    | 10 => killContext e.asid 4 e.core 0 e.addr s
    | 11 => firmwareLoss e.core e.addr s
    | 12 => deviceFatal 0 e.addr s
    | 13 => deviceFatal 1 e.addr s
    | 14 => deviceFatal 2 e.addr s
    | 15 => killContext e.asid 7 e.core 0 0 s
    | _ => s)

/-- Whether poison stands where an event says it was consumed. -/
def poisonThere (s : State) (core pa : Nat) : Bool :=
  nsHas s.poison (pa / 32) || (pa == 0 && (!(coreSt s core).spPoison.isEmpty || !(coreSt s core).obPoison.isEmpty))

/-- POISON_CONSUMED (R132). Env: `core`, `slot` (the workgroup), `addr` the virtual and `value` the physical address of the
sector, both 0 for a local one. -/
def execPoisonConsumed (s : State) : Host.Outcome State Fault Refusal :=
  let e := s.env
  .next (if poisonThere s e.core e.value then
    consume (wkey e.core e.slot) (e.addr / 32 * 32) (e.value / 32 * 32) s else s)

/-- KILL_COMPLETE (R139 step 7, R153). Env: `asid`. -/
def execKillComplete (s : State) : Host.Outcome State Fault Refusal :=
  .next (match s.kills.find? fun k => k.asid == s.env.asid with
    | none => s
    | some k =>
      postFatals (postEvent 0x11 k.asid (leBytes 2 k.cause ++ leBytes 2 k.place ++ leBytes 4 0 ++ leBytes 8 k.va
        ++ leBytes 8 k.pa ++ leBytes 4 k.frames) { s with kills := s.kills.filter fun x => x != k }))

/-- FRAME_WASH_COMPLETE (R143). Env: `index` the frame, `flag` whether the read-back held. -/
def execFrameWashComplete (s : State) : Host.Outcome State Fault Refusal :=
  let f := s.env.index
  let asid := (sfind s.quarantined f).getD 0
  let ev (result : Nat) (s : State) : State := postEvent 0x13 asid (leBytes 8 (f * 65536) ++ leBytes 8 result) s
  .next (
    if !frameBad s f || nsHas s.retired f then s
    else if s.env.flag then
      ev 0 { s with
        quarantined := sdel s.quarantined f
        mem := zeroRun s.mem (f * 65536) 65536
        poison := cleanSectors s.poison (f * 65536) 65536 }
    else ev 1 { s with retired := nsAdd s.retired f })

/-- L2_SLICE_WASH_COMPLETE (R144). Env: `core` the cluster, `slot` the slice: the bitmap is clear, and requests go on. -/
def execL2SliceWashComplete (s : State) : Host.Outcome State Fault Refusal :=
  let cl := s.env.core
  let slice := s.env.slot
  .next (
    if !nsHas (clusterSt s cl).washing slice then s
    else
      let s1 := modCluster s cl fun c => { c with washing := nsDel c.washing slice }
      let s2 := { s1 with residency := s1.residency.filter fun e => e.1 / 65536 != 4 * cl + slice }
      resumeDrains (replayWhere (fun _ p => p.place == .held (washHold cl slice)) s2))

/-- L2_EVICTION (R164): replacement takes no line that is kept (R424). Env: `core` the cluster, `asid` and `addr` the line,
`flag` whether the ECC of sector `index` fails. -/
def execL2Eviction (s : State) : Host.Outcome State Fault Refusal :=
  let e := s.env
  let key := lineKey e.asid e.addr
  .next (match sfind (clusterSt s e.core).l2 key with
    | none => s
    | some ln =>
      if ln.kept.isSome && !e.flag then s
      else if e.flag && (sectorsTouched ln.dirty).testBit e.index then dirtyLost e.core e.asid e.addr (e.index % 4) s
      else evictLine s e.core key)

/-! ### Hangs (R125 to R128) -/

/-- The oldest lane: the highest ageing counter among the lanes in neither state 3 nor state 4, the lowest on a tie. -/
def oldestLane (g : Group) : Nat :=
  let ok (l : Nat) : Bool := (laneOf g l).st != .onCall && (laneOf g l).st != .exited
  (List.range 32).foldl (fun b l =>
    if ok l && (!ok b || decide ((laneOf g b).age < (laneOf g l).age)) then l else b) 0

/-- The header address of a lane's clause (R322). -/
def clauseAddr (pc : Pc) : Nat := (pc.addr - BitVec.ofNat 57 (8 * pc.ofs)).toNat

/-- Whether one of a group's replay windows is full (R102, R108). -/
def windowsFull (g : Group) : Bool := (List.range 4).any fun e => decide (4 ≤ (windowOf g e).length)

/-- The wait kind of a hang record (R128): of several operations that hold the flag the oldest one's, and 0 where no pending
flag is awaited (DESIGN CHOICE, log 51). -/
def waitKind (s : State) (gk : Nat) (g : Group) (asid : Nat) : Nat :=
  let x := laneOf g (oldestLane g)
  if windowsFull g then 3
  else if x.st == .parked || x.st == .faultParked then 4
  else
    let wait := match (fetchWord (keyCore gk) asid (clauseAddr x.pc) s).1 with
      | .word w => waitOf w
      | _ => 0
    match firstBelow 12 fun f => wait.testBit f && decide (0 < flagCount g f) with
    | none => 0
    | some f => match g.ops.find? fun o => o.flag == f with
      | some o => match o.kind with
        | .waita _ => 2
        | .barrier _ _ => 1
        | _ => 0
      | none => 0

/-- A hang is declared: event 0x20, and the context is killed with cause 6 (R127). -/
def declareHang (gk : Nat) (s : State) : State :=
  match sfind s.groups gk with
  | none => s
  | some g =>
    match sfind s.wgs (wgOf gk g) with
    | none => s
    | some w =>
      let at' := clauseAddr (laneOf g (oldestLane g)).pc
      let body := leBytes 2 (keyCore gk) ++ leBytes 1 (keyNum gk) ++ leBytes 1 (waitKind s gk g w.asid)
        ++ leBytes 4 (g.recovery / 100) ++ leBytes 8 at' ++ leBytes 8 w.index ++ leBytes 2 (tagOf s w.record)
        ++ leBytes 2 (queueOf s w.record)
      killContext w.asid 6 (keyCore gk) 0 0 (postEvent 0x20 w.asid body s)

/-- The watchdog interval of a context in reference ticks: 4,000 ms where WDOG is 0 (R127). -/
def wdogTicks (c : Ctx) : Nat := 100000 * (if c.wdog = 0 then 4000 else c.wdog)

/-- WATCHDOG_HANG (R125). Env: `core`, `slot` (the group). -/
def execWatchdogHang (s : State) : Host.Outcome State Fault Refusal :=
  let gk := gkey s.env.core s.env.slot
  .next (match sfind s.groups gk with
    | none => s
    | some g =>
      match (sfind s.wgs (wgOf gk g)).bind fun w => ctxOf s w.asid with
      | none => s
      | some c => if wdogTicks c ≤ g.watchdog then declareHang gk s else s)

/-- REMOTE_PENDING_LIMIT (R126). Env: `core`, `slot` (the group): 2 s of recovery in all. -/
def execRemotePendingLimit (s : State) : Host.Outcome State Fault Refusal :=
  let gk := gkey s.env.core s.env.slot
  .next (match sfind s.groups gk with
    | none => s
    | some g => if 200000000 ≤ g.recovery then declareHang gk s else s)

/-- What a step met on its way costs contexts (R27, R130, R145). -/
def settleTrouble (t : Trouble) (s : State) : State :=
  match t with
  | .badWalk asid va pa => killContext asid 4 0 va pa s
  | .badSector cl asid va pa => sectorLost cl asid va pa s
  | .linkDown asid place va pa => transferFails asid place va pa s

/-- The troubles of a step, and those that the kills' own write-backs meet, are settled as it ends. -/
def settleTroubles (s : State) : State := settleOnce (settleOnce s)
where
  settleOnce (s : State) : State :=
    if s.troubles.isEmpty then s else s.troubles.foldl (fun s t => settleTrouble t s) { s with troubles := [] }

end Sys2Proof.Machine
end

