-- ==== Sys2Proof/Machine/Privileged.lean ====
section
/-! DEFINITION. Group 111, privileged firmware-slot forms (R475 to R482), and the release of a workgroup (R98, R199). -/

namespace Sys2Proof.Machine

/-! ### PLD, PST, MSIX -/

/-- The physical address of a lane: bits [51:0], low bits cleared. -/
def physAddr (cx : Cx) (s : State) (o : R4) (n l : Nat) : Nat := (rdI64 cx s o.a l).toNat % 2 ^ 52 / n * n

/-- What a lane's physical access meets: nothing, a peer in recovery, a peer no port leads to (R22, R27). -/
def physReach (s : State) (pas : List Nat) : LineRes :=
  (pas.findSome? fun pa => match reach s pa with
    | .ready => none
    | r => some r).getD .ready

/-- A physical access of some lanes: it waits for a recovering peer, fails with the link, or has its effect. -/
def physIssue (cx : Cx) (pas : List Nat) (eff : State → State) (s : State) : State :=
  match physReach s pas with
  | .ready => eff (pas.foldl (fun s pa => (request cx.w.asid cx.core 0 pa s).2) s)
  | .linkDown pa => transferFails cx.w.asid cx.core 0 pa s
  | _ => stall cx s

/-- The words a PLD of one lane returns; what it returns of a poisoned sector is open (DEDUCED, log 25). -/
def pldValue (s : State) (n pa lane : Nat) : Nat :=
  if rangePoisoned s.poison pa n then
    (Config.freeWord s.tick (2 * lane)).toNat + 2 ^ 32 * (Config.freeWord s.tick (2 * lane + 1)).toNat
  else ofLeBytes (ctrlRead s 0 pa n)

/-- The errors a PLD meets: a poisoned sector is an uncorrectable error at its address (R476, R130). -/
def pldErrors (core n : Nat) (pas : List Nat) (s : State) : State :=
  pas.foldl (fun s pa => if rangePoisoned s.poison pa n then hbmError core pa s else s) s

/-- PLD (R476). -/
def execPld (h : Hdr) (x : Wd) (o : R4) (s : State) : Host.Outcome State Fault Refusal :=
  let w := if x = .w64 then 2 else 1
  issue { unit := 3, priv := true, fcls := .res
          ops := [(o.d, .dst w true false), (o.a, .src 2 false), (o.b, .unused), (o.c, .unused)] } h
    (fun cx s =>
      let ls := lanesOf cx.run.lanes
      let pas := ls.map (physAddr cx s o (4 * w))
      physIssue cx pas (fun s =>
        let rs := ls.flatMap fun l => resultKeys o.d w l (pldValue s (4 * w) (physAddr cx s o (4 * w) l) l)
        pldErrors cx.core (4 * w) pas
          (startOp cx h.f.toNat .access 0 (destKeys o.d w cx.run.lanes) rs true { s with tick := s.tick + 1 })) s) s

/-- PST (R476). -/
def execPst (h : Hdr) (x : Wd) (o : R4) (s : State) : Host.Outcome State Fault Refusal :=
  let w := if x = .w64 then 2 else 1
  issue { unit := 3, priv := true, fcls := .opt
          ops := [(o.d, .src w false), (o.a, .src 2 false), (o.b, .unused), (o.c, .unused)] } h
    (fun cx s =>
      let ls := lanesOf cx.run.lanes
      let data (l : Nat) : Nat := if w = 2 then (rdI64 cx s o.d l).toNat else (rdI cx s o.d l).toNat
      let ys := ls.map fun l => (physAddr cx s o (4 * w) l, leBytes (4 * w) (data l))
      physIssue cx (ys.map fun y => y.1) (fun s =>
        let s1 := ys.foldl (fun s y => ctrlWrite s 0 y.1 y.2) s
        if h.f = 15 then s1 else startOp cx h.f.toNat .access 0 [] [] true s1) s) s

/-- MSIX (R477): every earlier PST has been performed (DESIGN CHOICE, log 38). -/
def execMsix (h : Hdr) (o : R4) (s : State) : Host.Outcome State Fault Refusal :=
  issue { unit := 3, priv := true, ops := [(o.d, .unused), (o.a, .src 1 true), (o.b, .unused), (o.c, .unused)] } h
    (fun cx s => raiseMsix s ((rdI cx s o.a (elected cx)).toNat % 2048)) s

/-! ### Release of a workgroup -/

/-- A package-scope acquire of a cluster for an ASID: its L2 lines and the L1 lines of its cores go (R197, R199). -/
def clusterAcquire (cl asid : Nat) (s : State) : State :=
  (List.range 16).foldl (fun s k => dropL1Where s (16 * cl + k) fun x => keyAsid x == asid)
    (evictWhere s cl fun k _ => keyAsid k == asid)

/-- Before the first workgroup of a launch is released on a cluster it acquires (R199). -/
def launchAcquire (core record : Nat) (s : State) : State :=
  match sfind s.board record with
  | none => s
  | some r =>
    if nsHas r.ran (clusterOf core) then s
    else modRec (clusterAcquire (clusterOf core) r.asid s) record fun r => { r with ran := nsAdd r.ran (clusterOf core) }

/-- The lease of a fresh gang whose member stands on a core. -/
def freshLease (core : Nat) (w : Wg) (r : LaunchRec) : Lease :=
  let at' := rectOf core (gangRows r) w.brow w.bcol
  { members := (gangPlaces r).map fun p => (at' p.1 p.2, p.1, p.2)
    rows := gangRows r, cols := gangCols r, record := w.record, ticket := w.ticket, retired := [], released := []
    trows := gangRows r, tcols := gangCols r, cmds := [], flips := 0, cut := [] }

/-- The lease of a gang begins with the release of its groups, unless it stands (R107). -/
def leaseFor (core : Nat) (w : Wg) (s : State) : State :=
  if !w.bonded || (gangLease s w).isSome then s
  else match sfind s.board w.record with
    | some r => beginLease (freshLease core w r) s
    | none => s

/-- The groups of a reserved workgroup are released: from their entry points, or as a record saved them. -/
def releaseWg (wk : Nat) (s : State) : State :=
  match sfind s.wgs wk with
  | none => s
  | some w =>
    let s1 := launchAcquire (keyCore wk) w.record s
    match w.image with
    | some a =>
      if startsOver s1 a then releaseAgain wk a (leaseFor (keyCore wk) w s1) else restoreFrom wk a s1
    | none => releaseFresh wk (leaseFor (keyCore wk) w s1)

/-- The flag of a privileged command that is done at issue. -/
def flagNow (cx : Cx) (h : Hdr) (s : State) : State :=
  if h.f = 15 then s else startOp cx h.f.toNat .access 0 [] [] true s

/-- GREL (R479). -/
def execGrel (h : Hdr) (o : R4) (s : State) : Host.Outcome State Fault Refusal :=
  issue { unit := 3, priv := true, fcls := .opt
          ops := [(o.d, .unused), (o.a, .sMul 2 510), (o.b, .unused), (o.c, .unused)] } h
    (fun cx s =>
      let pa := (rdI64 cx s o.a (elected cx)).toNat
      let t := slotTab (memBytes s pa 640)
      if slotTabBad s cx.core pa t then deviceFatal 1 pa s
      else
        let wk := wkey cx.core t.num
        flagNow cx h (releaseWg wk (setSlice wk (writeSlots cx.core t s)))) s

/-! ### GSTOP, GSAVE, GREST -/

/-- GSTOP (R480) (DEDUCED, log 24). -/
def execGstop (h : Hdr) (x : StopX) (o : R4) (s : State) : Host.Outcome State Fault Refusal :=
  issue { unit := 3, priv := true, fcls := .opt
          ops := [(o.d, .unused), (o.a, .src 1 true), (o.b, .src 1 true), (o.c, .unused)] } h
    (fun cx s =>
      let core := (rdI cx s o.a (elected cx)).toNat
      let n := (rdI cx s o.b (elected cx)).toNat
      let wk := wkey core n
      let ks := if n < 192 then (if x = .gang then gangOf s wk else [wk]) else []
      startOp cx h.f.toNat (.stop core n (x == .gang)) 0 [] [] false (markStop ks s)) s

/-- The lease of a gang whose last member has been saved ends. -/
def lastSaved (w : Wg) (s : State) : State :=
  match gangLease s w with
  | none => s
  | some l =>
    if s.wgs.any fun e => e.2.bonded && e.2.record == w.record && e.2.ticket == w.ticket then s else endLease l s

/-- The stopped workgroup that a GSAVE names. -/
def stoppedWg (s : State) (core n : Nat) : Option Wg :=
  if n < 192 then (sfind s.wgs (wkey core n)).filter fun w => w.stopping && wgDrained s (wkey core n) else none

/-- The bytes that a GSAVE writes: a whole record, or a header. -/
def savedBytes (s : State) (core n : Nat) : Nat :=
  match stoppedWg s core n with
  | some _ => if uncommitted s (wkey core n) then 256 else recordSize s (wkey core n)
  | none => 256

/-- GSAVE (R481). An uncommitted restartable workgroup is not saved: its store buffer goes with its resources, and its record
is a header that says so (R124). -/
def execGsave (h : Hdr) (o : R4) (s : State) : Host.Outcome State Fault Refusal :=
  issue { unit := 3, priv := true, fcls := .opt
          ops := [(o.d, .unused), (o.a, .sMul 4 508), (o.b, .unused), (o.c, .unused)] } h
    (fun cx s =>
      let ws := sBlock cx s o.a 4
      let addr := (ws.getD 0 0 + 2 ^ 32 * ws.getD 1 0) % 2 ^ 52
      let n := ws.getD 2 0
      let wk := wkey cx.core n
      if targetOf addr ≠ .firmware ∨ targetOf (addr + savedBytes s cx.core n - 1) ≠ .firmware then deviceFatal 1 addr s
      else flagNow cx h (match stoppedWg s cx.core n with
        | some w => lastSaved w (if uncommitted s wk then freeWg wk (storeRestart wk addr w s) else saveFree s (wk, addr))
        | none => emptyHeader addr s)) s
where
  /-- A header with ASID 0 and nothing more. -/
  emptyHeader (addr : Nat) (s : State) : State :=
    { memPut s addr (List.replicate 256 0) with images := sdel s.images addr }

/-- GREST (R482) (DEDUCED, log 24): what it restores is read from the record's bytes. -/
def execGrest (h : Hdr) (o : R4) (s : State) : Host.Outcome State Fault Refusal :=
  issue { unit := 3, priv := true, fcls := .opt
          ops := [(o.d, .unused), (o.a, .sMul 4 508), (o.b, .unused), (o.c, .unused)] } h
    (fun cx s =>
      let ws := sBlock cx s o.a 4
      let addr := (ws.getD 0 0 + 2 ^ 32 * ws.getD 1 0) % 2 ^ 52
      let pa := (ws.getD 2 0 + 2 ^ 32 * ws.getD 3 0) % 2 ^ 52
      let t := slotTab (memBytes s pa 640)
      let wk := wkey cx.core t.num
      if !recordThere s addr then deviceFatal 1 addr s
      else if slotTabBad s cx.core pa t || t.n != recordGroups s addr then deviceFatal 1 pa s
      else
        let s1 := modWg (writeSlots cx.core t s) wk fun w => { w with image := some addr }
        flagNow cx h (releaseWg wk (setSlice wk s1))) s

end Sys2Proof.Machine
end

