-- ==== Sys2Proof/Machine/Calls.lean ====
section
/-! DEFINITION. Host accesses to a context's memory (R15) and the host's side of system calls (R86, R87, R468). -/

namespace Sys2Proof.Machine

/-! ### Host accesses (R15) -/

/-- What a host access finds at a line: its leaf, a fault, no live port to its peer, or a port that it waits for. -/
inductive HostRes where
  | leaf (l : Leaf)
  | fault
  | lost
  | wait
  deriving DecidableEq, Repr

/-- The translation of a host access: a held range counts as a fault, for a host access is never held at a unit. Where a peer
has no live port the access fails as a link-fault event, and the aperture's address space as its requester's (DEDUCED, log
63); behind a port in recovery or with a full window it waits (R27). -/
def hostLeaf (asid va : Nat) (a : Access) (s : State) : HostRes × State :=
  if (heldBy s asid va).isSome then (.fault, s)
  else match translate s asid va a with
    | (.error _, s1) => (.fault, s1)
    | (.ok l, s1) =>
      match request asid 0 va (leafPa l va) s1 with
      | (.ready, s2) => (.leaf l, touchSidecar asid l.ck (leafPa l va) s2)
      | (.linkDown pa, s2) => (.lost, transferFails asid 0 va pa s2)
      | (_, s2) => (.wait, s2)

/-- Resume words that a write to physical bytes covers have been written (R86). -/
def noteWrite (pa n : Nat) (s : State) : State :=
  let covers (asid : Nat) (k : CallSt) : Bool :=
    k.posted && match (lookupLeaf s asid k.word).1 with
      | .ok l => rangesMeet (leafPa l k.word) 8 pa n
      | .error _ => false
  let note (asid : Nat) (g : Group) : Group :=
    { g with call := g.call.map fun k => if covers asid k then { k with written := true } else k }
  let asidOf (e : Nat × Group) : Nat := match sfind s.wgs (wgOf e.1 e.2) with | some w => w.asid | none => 0
  { s with
    groups := s.groups.map fun e => (e.1, note (asidOf e) e.2)
    images := s.images.map fun e => (e.1, { e.2 with groups := e.2.groups.map fun x => (x.1, note e.2.wg.asid x.2) }) }

/-- Host bytes written at a virtual address, line by line: the pieces that are left where one stops, and what stops it. -/
def hostPut (asid : Nat) : List (Nat × List Byte) → State → Option HostRes × List (Nat × List Byte) × State
  | [], s => (none, [], s)
  | (va, bs) :: ps, s =>
    match hostLeaf asid va .write s with
    | (.leaf l, s1) => hostPut asid ps (noteWrite (leafPa l va) bs.length (ctrlWrite s1 l.ck (leafPa l va) bs))
    | (r, s1) => (some r, (va, bs) :: ps, s1)

/-- The event of a host access that faults (R15, R88, R89): `port` is aperture + 32·offset; the record names the address
space the aperture is bound to (DEDUCED, log 48). -/
def aperFault (port write asid va : Nat) (s : State) : State :=
  postEvent 0x03 asid (leBytes 1 (port % 32) ++ leBytes 1 write ++ leBytes 6 0 ++ leBytes 8 (port / 32) ++ leBytes 8 va) s

/-- Host bytes written through a port: an aperture with the offset, or 16 where no aperture is named; a fault drops the
write, with an event through an aperture; what waits for a link is tried again later. -/
def hostWriteNow (port asid va : Nat) (bs : List Byte) (s : State) : State :=
  match hostPut asid (linePieces (bs.length / 128 + 2) va bs) s with
  | (some .fault, _, s1) => if port % 32 = 16 then s1 else aperFault port 1 asid va s1
  | (some .wait, ps, s1) =>
    let at' := match ps with | p :: _ => p.1 | [] => va
    { s1 with retries := s1.retries ++ [(port, asid, at', ps.flatMap fun p => p.2)] }
  | (_, _, s1) => s1

/-- A host write that a migration's freeze refuses is tried again at its end, and later ones through its aperture stay
behind it (R15, R184), as they do behind one that waits for a link. -/
def hostWriteVa (port asid va : Nat) (bs : List Byte) (s : State) : State :=
  if frozen s asid va || frozen s asid (va + bs.length - 1) || s.retries.any fun e => e.1 % 32 == port % 32 then
    { s with retries := s.retries ++ [(port, asid, va, bs)] }
  else hostWriteNow port asid va bs s

/-- The host writes that waited, in order; those of a killed context are dropped (DESIGN CHOICE, log 29). -/
def flushHost (s : State) : State :=
  let live (asid : Nat) : Bool := match ctxOf s asid with | some c => !c.killed | none => false
  (s.retries.filter fun e => live e.2.1).foldl (fun s e => hostWriteVa e.1 e.2.1 e.2.2.1 e.2.2.2 s) { s with retries := [] }

/-! ### Resumption -/

/-- The group reads its reply words and resumes (R86 step 3, R468); the record of a second call is written then. -/
def resumeLanes (gk : Nat) (k : CallSt) (reply : List Byte) (s : State) : State :=
  let s1 := modGroup s gk fun g =>
    let g1 := { g with sreg := (List.range 4).foldl (fun m i =>
      sput 0 m i (BitVec.ofNat 32 (bytesAt reply (4 * i) 4))) g.sreg }
    let g2 := wakeLanes g1 k.lanes
    match g2.waiting with
    | [] => { g2 with call := none }
    | x :: xs => { g2 with call := some x, waiting := xs }
  postCall gk s1

/-- A written resume word is read: a matching SEQ resumes the group once its reply words are read; any other value leaves
it parked. What faults is read again at the next scan (R493). -/
def tryResume (gk : Nat) (s : State) : State :=
  match sfind s.groups gk with
  | none => s
  | some g =>
    match g.call, sfind s.wgs (wgOf gk g) with
    | some k, some w =>
      let who := agentWho (keyCore gk) (tagOf s w.record) (queueOf s w.record)
      match ctxOf s w.asid with
      | none => s
      | some c =>
        if !k.written || !k.posted then s
        else match agentNat who w.asid k.word 8 s with
          | (.ok, s1, v) =>
            if v ≠ k.seq then modGroup s1 gk fun g => { g with call := some { k with written := false } }
            else match agentRead who w.asid (c.scring + 64 * (k.seq % 2 ^ c.sclog) + 0x30) 16 s1 with
              | (.ok, s2, bs) => resumeLanes gk k bs s2
              | (_, s2, _) => s2
          | (_, s1, _) => s1
    | _, _ => s

/-- The groups that a test on their workgroup picks. -/
def groupsWhere (s : State) (p : Nat → Wg → Bool) : List Nat :=
  (s.groups.filter fun e => match sfind s.wgs (wgOf e.1 e.2) with
    | some w => p e.1 w
    | none => false).map fun e => e.1

/-- The agent's side of the parked calls of some groups: written resume words are read, unposted records are written (DESIGN
CHOICE, log 46). -/
def serveCalls (p : Nat → Wg → Bool) (s : State) : State :=
  (groupsWhere s p).foldl (fun s gk => postCall gk (tryResume gk s)) s

/-- The resume word of a group: the one its record names, or else that of its place. -/
def resumeWordOf (s : State) (gk : Nat) (w : Wg) (g : Group) : Nat :=
  match g.call with
  | some k => if k.posted then k.word else match ctxOf s w.asid with | some c => resumeAddr c gk | none => 0
  | none => match ctxOf s w.asid with | some c => resumeAddr c gk | none => 0

/-- RESUME_WORD_WRITE (R86). Env: `core`, `slot` the group whose word it is, `value` what the host writes. -/
def execResumeWordWrite (s : State) : Host.Outcome State Fault Refusal :=
  let gk := gkey s.env.core s.env.slot
  .next (match sfind s.groups gk with
    | none => s
    | some g =>
      match sfind s.wgs (wgOf gk g) with
      | none => s
      | some w => serveCalls (fun k _ => k == gk) (hostWriteVa 16 w.asid (resumeWordOf s gk w g) (leBytes 8 s.env.value) s))

/-- SYSCALL_CONS_WRITE (R86). Env: `asid`, `value` the new CONS. -/
def execSyscallConsWrite (s : State) : Host.Outcome State Fault Refusal :=
  let a := s.env.asid
  .next (match ctxOf s a with
    | none => s
    | some c => serveCalls (fun _ w => w.asid == a) (hostWriteVa 16 a c.scctl (leBytes 8 s.env.value) s))

end Sys2Proof.Machine
end

