-- ==== Sys2Proof/Machine/Queues.lean ====
section
/-! DEFINITION. User queues: slots (R69 to R73), packets and their checks (R65 to R67, R74 to R77), signals (R78, R79,
R205), launch records (R80, R91, R92, R332), agents' retries (R493). -/

namespace Sys2Proof.Machine

/-! ### Clusters, agents, the queue control block -/

/-- The clusters whose CLUSTOK bit is set, ascending (R39). -/
def liveClusters (s : State) : List Nat := (List.range 24).filter fun c => s.boot.clustok.testBit c

/-- The cluster a queue is assigned to (R69). -/
def assignCluster (s : State) (q : Nat) : Nat :=
  let l := liveClusters s
  l.getD ((q ^^^ (q >>> 5)) % max 1 l.length) 0

/-- The core of a cluster's lead agent; the first of the cluster stands for it while every core is held. -/
def agentCore (s : State) (cl : Nat) : Nat := (leadCore s cl).getD (16 * cl)

def queueWho (s : State) (qn : Nat) (q : Queue) (tag : Nat) : Issuer := agentWho (agentCore s q.cluster) tag qn

/-- Whether a queue is read: its number is a queue's own, its context lives, it is not in error. -/
def queueLive (s : State) (qn : Nat) (q : Queue) : Bool :=
  decide (qn < 4096) && q.qstate != 3 && (match ctxOf s q.asid with | some c => !c.killed | none => false)

/-- The device's line of a queue control block (R65). -/
def qctlBytes (q : Queue) : List Byte :=
  leBytes 8 q.ridx ++ leBytes 4 q.qstate ++ leBytes 4 q.qerr ++ leBytes 8 q.waitSince ++ leBytes 2 q.markTag
    ++ List.replicate 38 0

/-- Write the device's line; what faults is written again later (R493). -/
def writeQctl (qn : Nat) (s : State) : State :=
  match sfind s.queues qn with
  | none => s
  | some q =>
    match agentWrite (queueWho s qn q 0) q.asid (q.qctl + 0x40) (qctlBytes q) s with
    | (r, s1) => modQueue s1 qn fun q => { q with unwritten := r != .ok }

def changeQueue (qn : Nat) (f : Queue → Queue) (s : State) : State := writeQctl qn (modQueue s qn f)

/-- A packet error (R74): the queue enters the error state and its slot is free. -/
def queueError (qn code tag : Nat) (s : State) : State :=
  match sfind s.queues qn with
  | none => s
  | some q =>
    let s1 := changeQueue qn (fun q =>
      { q with qstate := 3, qerr := code, slotted := false, order := none, head := none }) s
    postEvent 0x01 q.asid (leBytes 2 qn ++ leBytes 2 tag ++ leBytes 4 code ++ leBytes 8 q.ridx) s1

/-! ### Packets -/

/-- The fields of a packet's words (R75 to R77). -/
def pktKind (w : List Nat) : Nat := field (w.getD 0 0) 56 8
def pktBarrier (w : List Nat) : Bool := (w.getD 0 0).testBit 55
def pktIrq (w : List Nat) : Bool := (w.getD 0 0).testBit 54
def pktTag (w : List Nat) : Nat := field (w.getD 0 0) 16 16
def pktCsop (w : List Nat) : Nat := field (w.getD 0 0) 45 2

/-- The bits that the kinds use in word 0 beside the common ones, and in words 1 to 7. -/
def pktBits (kind : Nat) (fill : Bool) : Option (Nat × List Nat) :=
  let a := 2 ^ 57 - 1
  let x := 2 ^ 64 - 1
  let c := 3 * 2 ^ 45
  match kind with
  | 1 => some (511 * 2 ^ 45, [a, x, 2 ^ 32 - 1, a, a, x, 2 ^ 32 - 1])
  | 2 => some (2 ^ 53 + c, [if fill then x else a, a, 2 ^ 48 - 1, a, x, 0, 0])
  | 3 => some (7 * 2 ^ 51, [a, x, 2 ^ 32 - 1, 0, 0, 0, 0])
  | 4 => some (c, [a, x, 0, 0, 0, 0, 0])
  | 5 => some (c, [a, a, a, a, a, a, x])
  | 6 => some (0, [a, 0, 0, 0, 0, 0, 0])
  | _ => none

/-- Code 2 of R74 in a packet's own words. -/
def pktReserved (w : List Nat) : Bool :=
  let outside (x m : Nat) : Bool := x ||| m != m
  match pktBits (pktKind w) ((w.getD 0 0).testBit 53) with
  | none => true
  | some (m0, ms) =>
    outside (w.getD 0 0) (0xFF * 2 ^ 56 + 3 * 2 ^ 54 + 0xFFFF * 2 ^ 16 + m0)
      || ((w.drop 1).zip ms).any (fun e => outside e.1 e.2) || (pktKind w == 6 && w.getD 1 0 % 8 != 0)

/-- The signal addresses a packet names; those of a wait and a set must be given. -/
def pktSignals (w : List Nat) : List Nat :=
  let opt (l : List Nat) : List Nat := l.filter fun x => x != 0
  match pktKind w with
  | 1 => opt [w.getD 5 0]
  | 2 => opt [w.getD 4 0]
  | 3 => [w.getD 1 0]
  | 4 => [w.getD 1 0]
  | 5 => opt ((w.drop 1).take 6)
  | _ => []

def isSignal (s : State) (asid va : Nat) : Bool :=
  match ctxOf s asid with | some c => c.signals.any fun g => g.1 == va | none => false

def isHostVis (s : State) (asid va : Nat) : Bool :=
  match ctxOf s asid with | some c => c.signals.any fun g => g.1 == va && g.2 | none => false

/-- The launch packet's bond shape and grid product. -/
def pktBrows (w : List Nat) : Nat := field (w.getD 0 0) 49 2
def pktBcols (w : List Nat) : Nat := field (w.getD 0 0) 47 2
def pktBond (w : List Nat) : Nat := 2 ^ (pktBrows w + pktBcols w)
def pktGrid (w : List Nat) : Nat := w.getD 2 0 % 2 ^ 32 * (w.getD 2 0 / 2 ^ 32) * w.getD 3 0

/-- The first code of R74 that a packet's own words give, in the order of that rule (DEDUCED, log 27). -/
def pktCheck (s : State) (asid : Nat) (w : List Nat) : Option Nat :=
  let k := pktKind w
  let restart := (w.getD 0 0).testBit 51
  let ctx := ctxOf s asid
  let csopBad := (k == 1 || k == 2 || k == 4 || k == 5) && pktCsop w == 3
  let copyBad := w.getD 3 0 == 0 ||
    (!(w.getD 0 0).testBit 53 && rangesMeet (w.getD 1 0) (w.getD 3 0) (w.getD 2 0) (w.getD 3 0))
  if pktReserved w then some 2
  else if k = 1 ∧ restart ∧ !featureOn s 9 then some 3
  else if csopBad ∨ (k = 3 ∧ 3 < field (w.getD 0 0) 51 3) then some 13
  else if k = 1 ∧ ((ctx.map fun c => c.prioMax).getD 0) < field (w.getD 0 0) 52 2 then some 5
  else if k = 1 ∧ restart ∧ !((ctx.map fun c => c.rstok).getD false) then some 12
  else if k = 1 ∧ (16 < pktBond w ∨ pktBcols w = 3 ∨ (pktBrows w = 3 ∧ !featureOn s 1)) then some 6
  else if k = 1 ∧ (pktGrid w = 0 ∨ 2 ^ 48 < pktGrid w ∨ pktGrid w % pktBond w ≠ 0) then some 7
  else if k = 2 ∧ copyBad then some 9
  else if (pktSignals w).any (fun va => va % 8 != 0 || !isSignal s asid va) then some 4
  else if k = 1 ∧ w.getD 1 0 % 256 ≠ 0 then some 8
  else none

/-! ### Pick-up (R66) -/

/-- The agent reads WIDX: out of range is code 1. The answer is the new WIDX. The event of codes 1 and 11, for which no
packet was read, carries TAG 0 (DESIGN CHOICE, log 55). -/
def readWidx (qn : Nat) (s : State) : Option Nat × State :=
  match sfind s.queues qn with
  | none => (none, s)
  | some q =>
    match agentNat (queueWho s qn q 0) q.asid q.qctl 8 s with
    | (.ok, s1, w) =>
      if w < q.ridx ∨ q.ridx + 2 ^ q.qlog < w then (none, queueError qn 1 0 s1)
      else (some w, modQueue s1 qn fun q => { q with widx := w })
    | (_, s1, _) => (none, s1)

/-- The head packet is read once; a faulting slot is code 11, with TAG 0 in its event (DESIGN CHOICE, log 55). Its own words
are checked before any wait (R74). -/
def readHead (qn : Nat) (s : State) : State :=
  match sfind s.queues qn with
  | none => s
  | some q =>
    match agentRead (queueWho s qn q 0) q.asid (q.ring + 64 * (q.ridx % 2 ^ q.qlog)) 64 s with
    | (.ok, s1, bs) =>
      let w := (List.range 8).map fun i => bytesAt bs (8 * i) 8
      match pktCheck s1 q.asid w with
      | some code => queueError qn code (pktTag w) s1
      | none => modQueue s1 qn fun q => { q with head := some ⟨w, false, 0, 0, false⟩ }
    | (.fault, s1, _) => queueError qn 11 0 s1
    | (.wait, s1, _) => s1

/-- A slotted queue's agent looks for its next packet. -/
def pickUp (qn : Nat) (s : State) : State :=
  match sfind s.queues qn with
  | none => s
  | some q =>
    if !q.slotted || !queueLive s qn q || q.head.isSome then s
    else match readWidx qn s with
      | (some w, s1) => if q.ridx < w then readHead qn s1 else s1
      | (none, s1) => s1

/-- PACKET_PICKUP (R66). Env: `queue`. -/
def execPacketPickup (s : State) : Host.Outcome State Fault Refusal := .next (pickUp s.env.queue s)

/-! ### Processed and complete (R67, R68) -/

/-- The head packet is processed: RIDX advances past it. -/
def processed (qn : Nat) (s : State) : State :=
  changeQueue qn (fun q =>
    { q with
      ridx := q.ridx + 1, head := none, qstate := if q.slotted then 1 else q.qstate
      emptySince := if q.widx ≤ q.ridx + 1 then s.refclk else q.emptySince }) s

/-- The interrupt of a complete packet (R68). -/
def packetIrq (qn : Nat) (irq : Bool) (s : State) : State :=
  match sfind s.queues qn with
  | some q => if irq then raiseMsix s q.qvec else s
  | none => s

/-- A processed packet is complete: it leaves the list of those outstanding, and a queue that lives on only for them goes
with its last. -/
def retirePacket (qn index : Nat) (irq : Bool) (s : State) : State :=
  let s1 := modQueue (packetIrq qn irq s) qn fun q => { q with out := q.out.filter fun p => p.index != index }
  match sfind s1.queues qn with
  | some q => if 4096 ≤ qn ∧ q.out.isEmpty then { s1 with queues := sdel s1.queues qn } else s1
  | none => s1

/-- The head begins to wait (R71, R72). -/
def beginWait (qn : Nat) (s : State) : State :=
  match (sfind s.queues qn).bind fun q => q.head with
  | some h =>
    if h.waiting then s
    else changeQueue qn (fun q =>
      { q with waitSince := s.refclk, head := some { h with waiting := true, since := s.refclk } }) s
  | none => s

/-! ### Signals (R78, R79, R199, R205) -/

/-- The new value of a signal operation (R78). -/
def sigNew (csop old val : Nat) : Nat :=
  match csop with
  | 0 => val
  | 1 => (old + val) % 2 ^ 64
  | _ => (old + 2 ^ 64 - val) % 2 ^ 64

/-- Before a launch's signal operation every cluster that ran it writes back its unbound dirty lines; of the bound ones it
records the slices that hold lines bound to the signal, or for a host-visible signal writes every bound line back. -/
def launchRelease (ran : NatSet) (asid sig : Nat) (vis : Bool) (s : State) : State :=
  let bs := boundTo s asid sig
  ran.foldl (fun s e =>
    let s1 := writeBackWhere s e.1 fun k ln => keyAsid k == asid && (vis || ln.bind.isNone)
    if vis then s1
    else
      let bits := (clusterSt s1 e.1).l2.foldl (fun m x =>
        if x.2.dirty != 0 && boundLine bs asid x.1 x.2 then m ||| 2 ^ (4 * e.1 + sliceOf (keyVa x.1)) else m) 0
      modCtx s1 asid fun c => if bits = 0 then c else { c with pulls := sset c.pulls sig (pullMask c sig ||| bits) }) s

/-- The release of a signal by an agent: lazy as a REL of its cluster (R202), or, where it is host-visible, the write-back
of every dirty line bound to it (R79). -/
def signalRelease (who : Issuer) (asid sig : Nat) (vis : Bool) (s : State) : State :=
  if vis then
    let bs := boundTo s asid sig
    (List.range 24).foldl (fun s cl => writeBackWhere s cl fun k ln => boundLine bs asid k ln) s
  else markPull who.core asid sig s

/-- A packet's signal operation (R78); no signal, nothing is written. -/
def signalOp (who : Issuer) (asid sig csop val : Nat) (ran : NatSet) (s : State) : AgRes × State :=
  if sig = 0 then (.ok, launchRelease ran asid 0 false s)
  else
    let vis := isHostVis s asid sig
    let s1 := signalRelease who asid sig vis (launchRelease ran asid sig vis s)
    match agentAtomic who asid sig .atomic (fun old => some (sigNew csop old val)) s1 with
    | (r, s2, _) => (r, s2)

/-- The test of an awaited signal, and its acquire once the condition holds (R79, R205) (DEDUCED, log 23). -/
def signalTest (who : Issuer) (asid sig : Nat) (cond : WaX) (cmp : Nat) (s : State) : Bool × State :=
  match agentAtomic who asid sig .read (fun _ => none) s with
  | (.ok, s1, x) => if waitHolds cond x cmp then (true, acquireObject who.core asid sig s1) else (false, s1)
  | (_, s1, _) => (false, s1)

def condOf (c : Nat) : WaX :=
  match c with
  | 0 => .eq | 1 => .ne | 2 => .lt | _ => .ge

/-! ### Launches (R76, R80, R91, R92, R332) -/

/-- A reserved byte of a descriptor is non-zero, or a field is outside its range. -/
def descBad (b : List Byte) : Bool :=
  let f (o n : Nat) := bytesAt b o n
  let roles := f 0 1
  let role (k : Nat) : Bool :=
    let o := 0x20 + 16 * k
    if roles ≤ k then f o 16 != 0
    else f (o + 12) 4 != 0 || f o 8 % 8 != 0 || decide (2 ^ 57 ≤ f o 8) || f (o + 8) 2 == 0
      || decide (f (o + 10) 2 < 8) || decide (256 < f (o + 10) 2) || f (o + 10) 2 % 8 != 0
  let bank (k : Nat) : Bool := decide (2 ^ 57 ≤ f (0x60 + 8 * k) 8) || f (0x60 + 8 * k) 8 % 128 != 0
  decide (roles < 1) || decide (4 < roles) || decide (4 ≤ f 1 1) || decide (32 < f 2 1) || f 3 1 != 0
    || decide (131072 < f 0xC 4) || decide (262144 < f 0x10 4) || f 0x14 12 != 0 || f 0xA0 96 != 0
    || (List.range 4).any role || (List.range 8).any bank

def descOf (b : List Byte) : Desc :=
  let f (o n : Nat) := bytesAt b o n
  { mx := (f 1 1).testBit 0, sw := (f 1 1).testBit 1, nbar := f 2 1, drain := f 4 4, scratch := f 8 4, obuf := f 0xC 4
    msm := f 0x10 4
    roles := (List.range (f 0 1)).map fun k => ⟨f (0x20 + 16 * k) 8, f (0x28 + 16 * k) 2, f (0x2A + 16 * k) 2⟩
    kbind := (List.range 8).map fun k => f (0x60 + 8 * k) 8 }

/-- The refusals of R92 that depend on the packet and the context. -/
def descRefused (d : Desc) (w : List Nat) (drain : Nat) : Bool :=
  let scr := d.scratch + w.getD 7 0
  decide (32 < d.roles.foldl (fun n r => n + r.groups) 0) || decide (drain < d.drain) || decide (458752 < scr)
    || ((w.getD 0 0).testBit 51 && decide (425984 < scr)) || (decide (1 < pktBond w) && !d.mx)

/-- The launch record of a packet (R80). -/
def launchRec (q : Queue) (qn : Nat) (w : List Nat) (d : Desc) (now : Nat) : LaunchRec :=
  { asid := q.asid, queue := qn, tag := pktTag w, prio := field (w.getD 0 0) 52 2, restart := (w.getD 0 0).testBit 51
    irq := pktIrq w, csop := pktCsop w, brows := pktBrows w, bcols := pktBcols w, kdesc := w.getD 1 0, args := w.getD 4 0
    gx := w.getD 2 0 % 2 ^ 32, gy := w.getD 2 0 / 2 ^ 32, gz := w.getD 3 0, dynscr := w.getD 7 0
    total := pktGrid w / pktBond w, ticket := 0, done := 0, csig := w.getD 5 0, cval := w.getD 6 0, posted := now, st := 1
    desc := d, ran := [] }

/-- The constant banks of a launch copied into the firmware region; the first answer that is not `ok` stops it. -/
def copyBanks (who : Issuer) (asid record : Nat) : List (Nat × Nat) → State → AgRes × State
  | [], s => (.ok, s)
  | (k, va) :: bs, s =>
    if va = 0 then copyBanks who asid record bs s
    else match agentRead who asid va 128 s with
      | (.ok, s1, d) => copyBanks who asid record bs (memPut s1 (kCopyAddr record k) d)
      | (r, s1, _) => (r, s1)

/-- Bank addresses of a launch: ARGS replaces K0. -/
def bankAddrs (d : Desc) (args : Nat) : List (Nat × Nat) :=
  (List.range 8).map fun k => (k, if k = 0 ∧ args ≠ 0 then args else d.kbind.getD k 0)

/-- The lead agent posts a launch record, unless the board is full. -/
def processLaunch (qn : Nat) (q : Queue) (w : List Nat) (s : State) : State :=
  let who := queueWho s qn q (pktTag w)
  match firstBelow 4096 fun r => (sfind s.board r).isNone with
  | none => s
  | some rn =>
    match agentRead who q.asid (w.getD 1 0) 256 s with
    | (.wait, s1, _) => s1
    | (.fault, s1, _) => queueError qn 8 (pktTag w) s1
    | (.ok, s1, b) =>
      let d := descOf b
      if descBad b || descRefused d w (((ctxOf s q.asid).map fun c => c.drain).getD 0) then queueError qn 2 (pktTag w) s1
      else match copyBanks who q.asid rn (bankAddrs d (w.getD 4 0)) s1 with
        | (.wait, s2) => s2
        | (.fault, s2) => queueError qn 8 (pktTag w) s2
        | (.ok, s2) =>
          let r := launchRec q qn w d s.refclk
          processed qn (modQueue (putRec s2 rn r) qn fun q =>
            { q with out := q.out ++ [⟨q.ridx, 1, rn, r.csop, r.csig, r.cval, r.irq, false, r.tag⟩] })

/-- The last workgroup of a launch has retired (R83): its signal, its interrupt, and its record is free. A signal word that
faults leaves it in STATE 3 (R493). -/
def completeLaunch (core rn : Nat) (s : State) : State :=
  match sfind s.board rn with
  | none => s
  | some r =>
    match signalOp (agentWho core r.tag r.queue) r.asid r.csig r.csop r.cval r.ran s with
    | (.ok, s1) =>
      let s2 := { freeRec s1 rn with fails := s1.fails.filter fun f => f.record != rn }
      match s2.queues.find? fun e => e.2.out.any fun p => p.kind == 1 && p.id == rn with
      | some e =>
        (e.2.out.filter fun p => p.kind == 1 && p.id == rn).foldl (fun s p => retirePacket e.1 p.index p.irq s) s2
      | none => s2
    | (_, s1) => s1

/-! ### Copies (R77) -/

/-- The core whose copy engine takes a packet: the one the agent chose, if it is a live one of the queue's cluster (DESIGN
CHOICE, log 47). -/
def copyCore (s : State) (cl pick : Nat) : Nat :=
  if clusterOf pick = cl ∧ coreLive s pick then pick else agentCore s cl

/-- A copy packet enters a copy engine. -/
def processCopy (qn : Nat) (q : Queue) (w : List Nat) (s : State) : State :=
  let core := copyCore s q.cluster s.env.core
  if !dmaRoom s 1 core then s
  else
    let fill := (w.getD 0 0).testBit 53
    let c : Cmd := ⟨0, core, q.asid, noWg, .lxfer [w.getD 1 0, w.getD 2 0, w.getD 3 0, 0, 0, if fill then 1 else 0]⟩
    let s1 := modQueue (acceptDma 1 core c (some (qn, q.ridx)) s) qn fun q =>
      { q with out := q.out ++ [⟨q.ridx, 2, core, pktCsop w, w.getD 4 0, w.getD 5 0, pktIrq w, false, pktTag w⟩] }
    processed qn s1

/-- Copies whose last byte is written do their signal operations, and are complete (R67, R78). -/
def finishCopies (pick : Nat → Queue → Bool) (s : State) : State :=
  (s.queues.filter fun e => pick e.1 e.2).foldl (fun s e =>
    (e.2.out.filter fun p => p.kind == 2 && p.done).foldl (fun s p =>
      match ctxOf s e.2.asid with
      | none => s
      | some c =>
        if c.killed then s
        else match signalOp (queueWho s e.1 e.2 p.tag) e.2.asid p.csig p.csop p.cval [] s with
          | (.ok, s1) => retirePacket e.1 p.index p.irq s1
          | (_, s1) => s1) s) s

/-! ### The other kinds -/

/-- A wait-signal packet: its test and its acquire. -/
def processWait (qn : Nat) (q : Queue) (w : List Nat) (s : State) : State :=
  match signalTest (queueWho s qn q (pktTag w)) q.asid (w.getD 1 0) (condOf (field (w.getD 0 0) 51 3)) (w.getD 2 0) s with
  | (true, s1) => packetIrq qn (pktIrq w) (processed qn s1)
  | (false, s1) => beginWait qn s1

/-- A set-signal packet. -/
def processSet (qn : Nat) (q : Queue) (w : List Nat) (s : State) : State :=
  match signalOp (queueWho s qn q (pktTag w)) q.asid (w.getD 1 0) (pktCsop w) (w.getD 2 0) [] s with
  | (.ok, s1) => packetIrq qn (pktIrq w) (processed qn s1)
  | (_, s1) => s1

/-- The DEP entries of a barrier-and packet not yet observed at 0 are tested, each acquired once it is. -/
def observeDeps (who : Issuer) (asid : Nat) : List (Nat × Nat) → Nat → State → Nat × State
  | [], m, s => (m, s)
  | (k, sig) :: ds, m, s =>
    if sig = 0 ∨ m.testBit k then observeDeps who asid ds (m ||| 2 ^ k) s
    else match signalTest who asid sig .eq 0 s with
      | (true, s1) => observeDeps who asid ds (m ||| 2 ^ k) s1
      | (false, s1) => observeDeps who asid ds m s1

/-- The DEP entries of a packet by number. -/
def pktDeps (w : List Nat) : List (Nat × Nat) := (List.range 5).map fun k => (k, w.getD (k + 1) 0)

/-- A barrier-and packet. -/
def processBarrier (qn : Nat) (q : Queue) (w : List Nat) (h : HeadPkt) (s : State) : State :=
  let who := queueWho s qn q (pktTag w)
  match observeDeps who q.asid (pktDeps w) h.observed s with
  | (m, s1) =>
    let s2 := modQueue s1 qn fun q => { q with head := q.head.map fun h => { h with observed := m } }
    if m ≠ 31 then beginWait qn s2
    else match signalOp who q.asid (w.getD 6 0) (pktCsop w) (w.getD 7 0) [] s2 with
      | (.ok, s3) => packetIrq qn (pktIrq w) (processed qn s3)
      | (_, s3) => s3

/-- A marker packet: the timestamp first, then MARKTAG. -/
def processMarker (qn : Nat) (q : Queue) (w : List Nat) (s : State) : State :=
  let done (s : State) : State :=
    packetIrq qn (pktIrq w) (processed qn (modQueue s qn fun q => { q with markTag := pktTag w }))
  if w.getD 1 0 = 0 then done s
  else match agentWrite (queueWho s qn q (pktTag w)) q.asid (w.getD 1 0) (leBytes 8 s.refclk) s with
    | (.ok, s1) => done s1
    | (_, s1) => s1

/-- The DEP entries of a barrier-and packet that are not yet observed at 0. -/
def depsLeft (h : HeadPkt) : List (Nat × Nat) :=
  if pktKind h.words = 5 then (pktDeps h.words).filter fun d => d.2 != 0 && !h.observed.testBit d.1 else []

/-- Whether a signal that a standing head still needs has been unregistered (R62): every one it names, but for the DEP
entries already observed. -/
def signalGone (s : State) (q : Queue) (h : HeadPkt) : Bool :=
  let names :=
    if pktKind h.words = 5 then
      (depsLeft h).map (fun d => d.2) ++ if h.words.getD 6 0 = 0 then [] else [h.words.getD 6 0]
    else pktSignals h.words
  names.any fun va => !isSignal s q.asid va

/-- The head packet of a queue is processed, or waits: a packet with BARRIER for every earlier one (R67). The registration
of its signals is looked at again whenever the agent takes it up, before any wait (R62, R74). While BARRIER holds a
barrier-and packet its DEP signals are not tested (DESIGN CHOICE, log 55). -/
def processHead (qn : Nat) (s : State) : State :=
  match sfind s.queues qn with
  | none => s
  | some q =>
    match q.head with
    | none => s
    | some h =>
      let w := h.words
      if !q.slotted || !queueLive s qn q then s
      else if signalGone s q h then queueError qn 4 (pktTag w) s
      else if pktBarrier w && !q.out.isEmpty then beginWait qn s
      else match pktKind w with
        | 1 => processLaunch qn q w s
        | 2 => processCopy qn q w s
        | 3 => processWait qn q w s
        | 4 => processSet qn q w s
        | 5 => processBarrier qn q w h s
        | _ => processMarker qn q w s

/-- The kind of a queue's head packet. -/
def headKind (s : State) (qn : Nat) : Option Nat :=
  ((sfind s.queues qn).bind fun q => q.head).map fun h => pktKind h.words

/-- A head packet of a kind is taken up. -/
def onKind (k : Nat) (s : State) : State :=
  if headKind s s.env.queue = some k then processHead s.env.queue s else s

/-- LAUNCH_PACKET (R76). Env: `queue`. -/
def execLaunchPacket (s : State) : Host.Outcome State Fault Refusal := .next (onKind 1 s)

/-- COPY_PACKET (R77). Env: `queue`, `core` whose copy engine the agent chose. -/
def execCopyPacket (s : State) : Host.Outcome State Fault Refusal := .next (onKind 2 s)

/-- WAIT_SIGNAL_PACKET (R77). Env: `queue`. -/
def execWaitSignalPacket (s : State) : Host.Outcome State Fault Refusal := .next (onKind 3 s)

/-- SET_SIGNAL_PACKET (R78). Env: `queue`. -/
def execSetSignalPacket (s : State) : Host.Outcome State Fault Refusal := .next (onKind 4 s)

/-- BARRIER_AND_PACKET (R77). Env: `queue`. -/
def execBarrierAndPacket (s : State) : Host.Outcome State Fault Refusal := .next (onKind 5 s)

/-- MARKER_PACKET (R77). Env: `queue`. -/
def execMarkerPacket (s : State) : Host.Outcome State Fault Refusal := .next (onKind 6 s)

/-- HEAD_WAIT_SATISFIED (R67): a waiting head is tested again. Env: `queue`. -/
def execHeadWaitSatisfied (s : State) : Host.Outcome State Fault Refusal :=
  .next (match (sfind s.queues s.env.queue).bind fun q => q.head with
    | some h => if h.waiting then processHead s.env.queue s else s
    | none => s)

/-! ### Waits that last (R71, R72, R74) -/

/-- Whether a head that began to wait still does (R71): held by BARRIER, or its condition does not hold. A launch or a copy
whose hold has ended and that finds no room does not (R80). -/
def headWaits (q : Queue) (h : HeadPkt) : Bool :=
  h.waiting && ((pktBarrier h.words && !q.out.isEmpty) || pktKind h.words == 3 || !(depsLeft h).isEmpty)

/-- How long a head has waited, in reference ticks; none for one that does not wait. -/
def waitedFor (s : State) (qn : Nat) : Option (Queue × HeadPkt × Nat) :=
  (sfind s.queues qn).bind fun q => q.head.bind fun h => if headWaits q h then some (q, h, s.refclk - h.since) else none

/-- WAIT_SIGNAL_TIMEOUT (R74). TIMEOUT counts from WAITSINCE: a packet that BARRIER holds first counts its hold, and may
expire in it (DESIGN CHOICE, log 55). Env: `queue`. -/
def execWaitSignalTimeout (s : State) : Host.Outcome State Fault Refusal :=
  let qn := s.env.queue
  .next (match waitedFor s qn with
    | none => s
    | some (_, h, t) =>
      let limit := h.words.getD 3 0
      if pktKind h.words = 3 ∧ limit ≠ 0 ∧ 100 * limit ≤ t then queueError qn 10 (pktTag h.words) s else s)

/-- QUEUE_EVICTION (R71): after more than 1 ms. Env: `queue`. -/
def execQueueEviction (s : State) : Host.Outcome State Fault Refusal :=
  let qn := s.env.queue
  .next (match waitedFor s qn with
    | none => s
    | some (q, _, t) =>
      if q.slotted && decide (100000 < t) then changeQueue qn (fun q => { q with slotted := false, qstate := 2 }) s else s)

/-- The signal address that a suspected-wait-cycle event names (R72). -/
def awaited (q : Queue) (h : HeadPkt) : Nat :=
  if pktBarrier h.words && !q.out.isEmpty then 0
  else if pktKind h.words = 3 then h.words.getD 1 0
  else match depsLeft h with
    | d :: _ => d.2
    | [] => 0

/-- SUSPECTED_WAIT_CYCLE (R72). Env: `queue`. -/
def execSuspectedWaitCycle (s : State) : Host.Outcome State Fault Refusal :=
  let qn := s.env.queue
  .next (match waitedFor s qn with
    | none => s
    | some (q, h, t) =>
      let limit := ((ctxOf s q.asid).map wdogTicks).getD 0
      if h.reported || decide (t ≤ limit) then s
      else
        let s1 := modQueue s qn fun q => { q with head := some { h with reported := true } }
        postEvent 0x02 q.asid (leBytes 2 qn ++ leBytes 6 0 ++ leBytes 8 (awaited q h) ++ leBytes 8 h.since) s1)

/-! ### Slots (R69 to R71, R73) -/

/-- Whether the condition of an evicted head may hold now; the acquires are made when the packet is processed. A signal
unregistered since fails the packet (R62). -/
def headHolds (qn : Nat) (q : Queue) (h : HeadPkt) (s : State) : Bool × State :=
  let who := queueWho s qn q (pktTag h.words)
  let w := h.words
  if signalGone s q h then (false, queueError qn 4 (pktTag w) s)
  else if pktBarrier w && !q.out.isEmpty then (false, s)
  else match pktKind w with
    | 3 => signalTest who q.asid (w.getD 1 0) (condOf (field (w.getD 0 0) 51 3)) (w.getD 2 0) s
    | 5 =>
      match observeDeps who q.asid (pktDeps w) h.observed s with
      | (m, s1) =>
        (m == 31, modQueue s1 qn fun q => { q with head := q.head.map fun h => { h with observed := m } })
    | _ => (true, s)

/-- Whether an unslotted queue wants a slot at a scan; one reassigned with a head wait left has the rest of its condition
tested, and joins whether it holds or not (R73, steps 4 and 5). -/
def wantsSlot (qn : Nat) (s : State) : Bool × State :=
  match sfind s.queues qn with
  | none => (false, s)
  | some q =>
    match q.head with
    | some h =>
      if headWaits q h then ((headHolds qn q h s).1 || (q.moved && !signalGone s q h), (headHolds qn q h s).2) else (true, s)
    | none => match readWidx qn s with
      | (some w, s1) => (decide (q.ridx < w), s1)
      | (none, s1) => (false, s1)

/-- The place behind the queues that wait for a slot. -/
def nextOrder (s : State) : Nat :=
  s.queues.foldl (fun n e => match e.2.order with | some k => max n (k + 1) | none => n) 0

/-- One queue at a scan: a non-empty one joins the order. -/
def scanQueue (s : State) (qn : Nat) : State :=
  match sfind s.queues qn with
  | none => s
  | some q =>
    if q.slotted || q.order.isSome || !queueLive s qn q then s
    else match wantsSlot qn s with
      | (true, s1) => modQueue s1 qn fun q => { q with order := some (nextOrder s1), moved := false }
      | (false, s1) => modQueue s1 qn fun q => { q with moved := false }

def slotsHeld (s : State) (p : Queue → Bool) : Nat := (s.queues.filter fun e => e.2.slotted && p e.2).length

/-- The queue of a cluster that is first in the slot order. -/
def firstInOrder (s : State) (cl : Nat) : Option Nat :=
  (s.queues.foldl (fun (b : Option (Nat × Nat)) e =>
    match e.2.order with
    | some k =>
      if e.2.cluster = cl then
        match b with
        | some x => if x.2 ≤ k then b else some (e.1, k)
        | none => some (e.1, k)
      else b
    | none => b) none).map fun x => x.1

/-- Slots are granted in order while there are any: 31 of a cluster, 128 of the device. The order is each cluster's own: also
where the device's 128 are the limit, a scan grants its own first queue, whatever other clusters found before (DESIGN CHOICE,
log 55). -/
def grantSlots (cl : Nat) : Nat → State → State
  | 0, s => s
  | n + 1, s =>
    if 31 ≤ slotsHeld s (fun q => q.cluster == cl) ∨ 128 ≤ slotsHeld s (fun _ => true) then s
    else match firstInOrder s cl with
      | none => s
      | some qn => grantSlots cl n (changeQueue qn (fun q => { q with slotted := true, order := none, qstate := 1 }) s)

/-- QUEUE_SCAN (R70). Env: `core` the cluster. -/
def execQueueScan (s : State) : Host.Outcome State Fault Refusal :=
  let cl := s.env.core
  let mine := (s.queues.filter fun e => e.2.cluster == cl).map fun e => e.1
  .next (grantSlots cl 31 (mine.foldl scanQueue s))

/-- SLOT_IDLE_RELEASE (R70): empty for 10 ms. Env: `queue`. -/
def execSlotIdleRelease (s : State) : Host.Outcome State Fault Refusal :=
  let qn := s.env.queue
  .next (match sfind s.queues qn with
    | none => s
    | some q =>
      if q.slotted && q.head.isNone && decide (q.widx ≤ q.ridx) && decide (1000000 ≤ s.refclk - q.emptySince) then
        changeQueue qn (fun q => { q with slotted := false, qstate := 0 }) s
      else s)

/-- Copies of a queue's packets in the engines of some cores resume in another's from where they stopped. -/
def moveCopies (gone : Nat → Bool) (qn core : Nat) (s : State) : State :=
  let mine (x : DmaEnt) : Bool := match x.packet with | some p => p.1 == qn && gone x.cmd.group | none => false
  let all := s.cp.flatMap fun e => e.2.filter mine
  let s1 := { s with cp := (s.cp.map fun e => (e.1, e.2.filter fun x => !mine x)).filter fun e => !e.2.isEmpty }
  putDma s1 1 core (dmaOf s1 1 core ++ all.map fun x => { x with cmd := { x.cmd with group := core } })

/-- Copies of packets leave the engine of a fenced core for that of their queue's lead agent. -/
def leaveCore (core : Nat) (s : State) : State :=
  s.queues.foldl (fun s e => moveCopies (fun c => c == core) e.1 (agentCore s e.2.cluster) s) s

/-- The queues of a fenced cluster are reassigned (R73). -/
def reassignQueues (cl : Nat) (s : State) : State :=
  (s.queues.filter fun e => e.2.cluster == cl).foldl (fun s e =>
    modQueue s e.1 fun q => { q with cluster := assignCluster s (e.1 % 4096), slotted := false, order := none, moved := true }) s

/-! ### Retries (R493) -/

/-- A queue's waiting accesses are tried again. -/
def retryQueue (s : State) (qn : Nat) : State :=
  match sfind s.queues qn with
  | none => s
  | some q =>
    let live := match ctxOf s q.asid with | some c => !c.killed | none => false
    if !live then s
    else
      let s1 := if q.unwritten then writeQctl qn s else s
      let s2 := finishCopies (fun k _ => k == qn) s1
      if q.slotted then (if q.head.isSome then processHead qn s2 else pickUp qn s2) else s2

/-- AGENT_ACCESS_RETRY (R493): at a scan the lead agent of a cluster tries again. Env: `core` the cluster. -/
def execAgentAccessRetry (s : State) : Host.Outcome State Fault Refusal :=
  let cl := s.env.core
  let mine := (s.queues.filter fun e => e.2.cluster == cl).map fun e => e.1
  let s1 := mine.foldl retryQueue s
  let due := (s1.board.filter fun e => e.2.st == 3 && assignCluster s1 e.2.queue == cl
    && (match ctxOf s1 e.2.asid with | some c => !c.killed | none => false)).map fun e => e.1
  .next (serveCalls (fun gk _ => clusterOf (keyCore gk) == cl) (due.foldl (fun s r => completeLaunch (agentCore s cl) r s) s1))

end Sys2Proof.Machine
end

