-- ==== Sys2Proof/Machine/Selection.lean ====
section
/-! DEFINITION. QUARTER_SELECTION: the group a quarter selects and the program counter it picks (R102, R103, R213, R214,
R220, R228, R231), and the exceptions taken at a selection. -/

namespace Sys2Proof.Machine

/-! ### The frontier -/

/-- The highest ageing counter of the lanes at a program counter. -/
def pcAge (g : Group) (pc : Pc) : Nat := (lanesOf (lanesAt g pc)).foldl (fun m l => max m (laneOf g l).age) 0

/-- Whether a program counter is picked before another: the higher age, then the lower address (R213). -/
def pcBefore (g : Group) (a b : Pc) : Bool :=
  let x := pcAge g a
  let y := pcAge g b
  decide (y < x) || (x == y && (decide (a.addr.toNat < b.addr.toNat) || (a.addr == b.addr && decide (a.ofs < b.ofs))))

def insPc (g : Group) (a : Pc) : List Pc → List Pc
  | [] => [a]
  | b :: bs => if pcBefore g a b then a :: b :: bs else b :: insPc g a bs

/-- The distinct program counters of the lanes in state 0 in the order they are considered; one that yielded comes last
(R370). -/
def pickOrder (g : Group) : List Pc :=
  let pcs := ((lanesOf (inState g .unblocked)).map fun l => (laneOf g l).pc).eraseDups
  let o := pcs.foldl (fun acc p => insPc g p acc) []
  match g.yielded with
  | some y => (o.filter fun p => p != y) ++ o.filter fun p => p == y
  | none => o

/-! ### The clause at a program counter -/

/-- What the clause at a program counter answers. -/
inductive Look where
  /-- It can run. -/
  | run (header : W64) (words : List W64)
  /-- A pending flag, or a held fetch. -/
  | waits
  /-- It waits on faulted flags (R220). -/
  | faulted (flags : Nat)
  /-- Its fetch faults at an address (R231). -/
  | fetch (va : Nat) (f : Flt)
  /-- It waits on a failed flag, or its fetch has failed (15): with the address (R220, R231). -/
  | failed (flag va : Nat)
  /-- It is no clause header (R231). -/
  | bad
  /-- A poisoned sector of it was fetched (R132). -/
  | eaten (va : Nat)
  deriving DecidableEq, Repr

/-- The test of a header word (R231). -/
def headerOk (w : W64) : Bool := field w.toNat 56 8 == 0xC5 && field w.toNat 0 20 == 0

/-- The first address of n words whose fetch does not give a word. -/
def fetchStop (s : State) (core asid : Nat) : Nat → Nat → Nat
  | 0, va => va % 2 ^ 57
  | n + 1, va =>
    match (fetchWord core asid (va % 2 ^ 57) s).1 with
    | .word _ => fetchStop s core asid n (va + 8)
    | _ => va % 2 ^ 57

/-- The lowest flag of a mask. -/
def lowFlag (m : Nat) : Nat := (firstBelow 12 fun f => m.testBit f).getD 0

/-- The first failed address of a flag. -/
def failedVa (g : Group) (f : Nat) : Nat := match g.failed.find? fun e => e.1 == f with | some e => e.2 | none => 0

/-- The lanes at a program counter whose fetch has failed. -/
def fetchFailed (g : Group) (pc : Pc) : Mask := maskOf fun l => (lanesAt g pc).getLsbD l && decide (2 ^ 16 ≤ (laneOf g l).fpark)

/-- The words of a clause after its header. -/
def lookWords (core asid head : Nat) (h : W64) (s : State) : Look × State :=
  match fetchWords core asid (wordsIn h) (head + 8) s with
  | (.ok ws, s1) => (.run h ws, s1)
  | (.error (.fault f), s1) => (.fetch (fetchStop s core asid (wordsIn h) (head + 8)) f, s1)
  | (.error .poisoned, s1) => (.eaten (fetchStop s core asid (wordsIn h) (head + 8)), s1)
  | (.error _, s1) => (.waits, s1)

/-- The address at which the failed fetch of lanes at a program counter faulted. -/
def failedFetch (g : Group) (pc : Pc) : Nat := match firstBelow 32 fun l => (fetchFailed g pc).getLsbD l with
  | some l => (laneOf g l).fva
  | none => 0

/-- What a group's clause at a program counter answers. -/
def lookAt (gk asid : Nat) (g : Group) (pc : Pc) (s : State) : Look × State :=
  let head := clauseAddr pc
  let core := keyCore gk
  if fetchFailed g pc ≠ 0 then (.failed 15 (failedFetch g pc), s)
  else if pc.addr.toNat % 8 ≠ 0 then (.bad, s)
  else
    match fetchWord core asid head s with
    | (.fault f, s1) => (.fetch head f, s1)
    | (.wait, s1) => (.waits, s1)
    | (.poisoned, s1) => (.eaten head, s1)
    | (.word h, s1) =>
      if !headerOk h then (.bad, s1)
      else
        let fl := waitOf h &&& failedMask g
        if fl ≠ 0 then (.failed (lowFlag fl) (failedVa g (lowFlag fl)), s1)
        else if waitOf h &&& pendingMask g ≠ 0 then
          let fa := waitOf h &&& faultedMask s1 gk g
          (if fa = 0 then .waits else .faulted fa, s1)
        else lookWords core asid head h s1

/-- Lanes are fault-parked: on flags, or on the clause fetch (2^15) of an address. -/
def faultPark (gk : Nat) (m : Mask) (on va : Nat) (s : State) : State :=
  modGroup s gk fun g => onLanes g m fun x => { x with st := .faultParked, fpark := on, fva := va }

/-- The first program counter of an order that does not wait; lanes on the way that meet a fault are parked (DEDUCED, log
16). -/
def considerPcs (ag : Ag) (g : Group) : List Pc → State → Option (Pc × Look) × State
  | [], s => (none, s)
  | pc :: pcs, s =>
    match lookAt ag.gk ag.asid g pc s with
    | (.waits, s1) => considerPcs ag g pcs s1
    | (.faulted fl, s1) => considerPcs ag g pcs (faultPark ag.gk (lanesAt g pc) fl 0 s1)
    | (.fetch va f, s1) =>
      considerPcs ag g pcs (faultPark ag.gk (lanesAt g pc) (2 ^ 15) va (reportFault (issuerOf ag) ag.asid va .fetch f s1))
    | (l, s1) => (some (pc, l), s1)

/-- Among the program counters the first whose memory fault is due (DEDUCED, log 16). -/
def dueFail (ag : Ag) (g : Group) (pcs : List Pc) (s : State) : Option (Pc × Look) :=
  pcs.findSome? fun pc => match (lookAt ag.gk ag.asid g pc s).1 with
    | .failed f va => some (pc, .failed f va)
    | _ => none

/-! ### What a selection does -/

/-- Ageing at the issue of a run (R214), and the counters that restart (R125). -/
def ageLanes (g : Group) (ran : Mask) : Group :=
  let others := inState g .unblocked &&& ~~~ran
  let g1 := onLanes g others fun x => { x with age := min (x.age + 1) 65535 }
  { onLanes g1 ran fun x => { x with age := 0 } with watchdog := 0, recovery := 0, yielded := none, waitAge := 0 }

/-- A run of the lanes at a program counter begins; a clause of literal slots only moves them on (R319). -/
def beginRun (gk : Nat) (pc : Pc) (h : W64) (ws : List W64) (s : State) : State :=
  match sfind s.groups gk with
  | none => s
  | some g =>
    let lanes := lanesAt g pc
    let head := BitVec.ofNat 57 (clauseAddr pc)
    let g1 := ageLanes g lanes
    match nextWord (litmapOf h) ws.length (pc.ofs - 1) with
    | none => { s with groups := sset s.groups gk (onLanes g1 lanes fun x => { x with pc := followPc head ws.length }) }
    | some k =>
      let r : Run :=
        { slot := keyNum gk, lanes := lanes, head := head, header := h, words := ws, widx := k, cycle := 0, pend := []
          exc := none, ends := .going, stalled := false, trapped := none }
      { s with groups := sset s.groups gk g1, runs := sset s.runs (rkey (keyCore gk) (keyNum gk % 4)) r }

/-- The memory-fault exception of the lanes at a program counter (R220, R235); the mark clears (DEDUCED, log 17). -/
def takeFailed (gk : Nat) (pc : Pc) (flag va : Nat) (g : Group) (s : State) : State :=
  let lanes := if flag = 15 then fetchFailed g pc else lanesAt g pc
  let s1 := modGroup s gk fun g =>
    { onLanes g lanes fun x => { x with fpark := 0 } with failed := g.failed.filter fun e => e.1 != flag }
  takeException gk (causeWord 9 0 flag false) lanes ⟨BitVec.ofNat 57 (clauseAddr pc), 0⟩ va s1

/-- The lanes to which the orphaned-set condition applies (R228, R240). -/
def orphanScope (g : Group) : Mask := if g.trap.inh then g.trap.tmask else BitVec.allOnes 32

/-- Whether the orphaned-set exception is due (R228). -/
def orphaned (g : Group) : Bool :=
  let m := orphanScope g
  (m &&& (inState g .unblocked ||| inState g .faultParked ||| inState g .onCall ||| inState g .inactive)) == 0
    && (m &&& inState g .parked) != 0 && pendingMask g == 0 && g.failed.isEmpty && g.window.isEmpty

/-- The orphaned-set exception (R228): the lowest set with arrivals, its arrivals at the lowest program counter. -/
def takeOrphan (gk : Nat) (g : Group) (s : State) : State :=
  match firstBelow 16 fun n => (g.arrivals.getD n 0 &&& orphanScope g) != 0 with
  | none => s
  | some n =>
    let arr := g.arrivals.getD n 0 &&& orphanScope g
    let low := (lanesOf arr).foldl (fun m l => min m (laneOf g l).pc.addr.toNat) (2 ^ 57)
    let lanes := maskOf fun l => arr.getLsbD l && (laneOf g l).pc.addr.toNat == low
    let s1 := modGroup s gk fun g => { g with arrivals := setAt g.arrivals n (g.arrivals.getD n 0 &&& ~~~lanes) }
    takeException gk (causeWord 7 0 0 false) lanes ⟨BitVec.ofNat 57 low, 0⟩ 0 s1

/-- The effect of what a group's selection picked. -/
def actOn (ag : Ag) (g : Group) (pc : Pc) (l : Look) (s : State) : State :=
  match l with
  | .run h ws => beginRun ag.gk pc h ws s
  | .bad => takeException ag.gk (causeWord 4 0 0 false) (lanesAt g pc) pc (clauseAddr pc) s
  | .failed f va => takeFailed ag.gk pc f va g s
  | .eaten va => consumeAt ag.asid ag.wk va s
  | _ => s

/-- Whether a group may be selected at all: its workgroup is released and not stopping, its windows have room, and no run
of it is in progress (R102). -/
def selectable (s : State) (gk : Nat) (g : Group) : Bool :=
  match sfind s.wgs (wgOf gk g) with
  | none => false
  | some w => (w.released || w.firmware) && !w.stopping && !windowsFull g && noRun s gk

/-- The attempt to select a group: whether it was selected, and the state after. A program counter with a memory fault due
is taken before a run (R220). -/
def attempt (gk : Nat) (s : State) : Bool × State :=
  match sfind s.groups gk, agOf s gk with
  | some g, some ag =>
    if !selectable s gk g then (false, s)
    else if orphaned g then (true, takeOrphan gk g s)
    else
      match considerPcs ag g (pickOrder g) s with
      | (none, s1) => (false, s1)
      | (some (pc, .run h ws), s1) =>
        match dueFail ag g (pickOrder g) s1 with
        | some (pc', l) => (true, actOn ag g pc' l s1)
        | none => (true, actOn ag g pc (.run h ws) s1)
      | (some (pc, l), s1) => (true, actOn ag g pc l s1)
  | _, _ => (false, s)

/-! ### The quarter -/

/-- The user groups of a quarter, by slot. -/
def quarterGroups (s : State) (core q : Nat) : List Nat :=
  (s.groups.filter fun e => keyCore e.1 == core && keyNum e.1 % 4 == q && keyNum e.1 != fwSlot).map fun e => e.1

def waitAgeOf (s : State) (gk : Nat) : Nat := match sfind s.groups gk with | some g => g.waitAge | none => 0

/-- The ready group with the highest wait age, the lowest slot on a tie. -/
def oldestReady (s : State) : List Nat → Option Nat
  | [] => none
  | k :: ks => match oldestReady s ks with
    | none => some k
    | some j => some (if waitAgeOf s k < waitAgeOf s j then j else k)

/-- The wait ages after a selection (R102): a group that was passed over counts it, one that is not ready has none. -/
def passOver (ready : List Nat) (all : List Nat) (s : State) : State :=
  all.foldl (fun s k => modGroup s k fun g =>
    { g with waitAge := if ready.contains k then min (g.waitAge + 1) (2 ^ 32 - 1) else 0 }) s

/-- The selection among a quarter's user groups. -/
def selectUser (core q : Nat) (s : State) : State :=
  let all := quarterGroups s core q
  let ready := all.filter fun k => (attempt k s).1
  let s1 := (all.filter fun k => !ready.contains k).foldl (fun s k => (attempt k s).2) s
  match oldestReady s ready with
  | none => passOver [] all s1
  | some k => modGroup (attempt k (passOver ready all s1)).2 k fun g => { g with waitAge := 0 }

/-- One selection of a quarter that no run occupies (R210): the firmware slot of quarter 0 first. -/
def selectQuarter (core q : Nat) (s : State) : State :=
  if (sfind s.runs (rkey core q)).isSome then s
  else if q = 0 then
    match attempt (gkey core fwSlot) s with
    | (true, s1) => s1
    | (false, s1) => selectUser core 0 s1
  else selectUser core q s

/-- QUARTER_SELECTION (R102). Env: `core`, `slot` the quarter. -/
def execQuarterSelection (s : State) : Host.Outcome State Fault Refusal :=
  .next (selectQuarter s.env.core (s.env.slot % 4) { s with tick := s.tick + 1 })

end Sys2Proof.Machine
end

