-- ==== Sys2Proof/Machine/Completion.lean ====
section
/-! DEFINITION. Events that complete work in flight: operations and flags (R219), waits (R436), multicast windows (R165),
resends (R108, R176, R262), walks (R170), engines (R257, R268, R458, R463, R286, R290), link tokens (R261), clocks (R34). -/

namespace Sys2Proof.Machine

/-! ### Operations and flags -/

/-- Whether an operation may complete now. -/
def opDue (s : State) (gk : Nat) (g : Group) (o : POp) : Bool :=
  match o.kind with
  | .stop core n gang => stopDone s core n gang
  | _ => opDone s gk g o

/-- What completing an operation does beside its results and its flag. -/
def opEffect (gk : Nat) (w : Wg) (o : POp) (s : State) : State :=
  match o.kind with
  | .fence rel acq scope => if o.ready then s else fenceAct (keyCore gk) w.asid rel acq scope s
  | .stop core n true => cutGang (wkey core n) s
  | _ => s

/-- After a FENCE.X the commands that it held are sent (R431). -/
def afterOp (gk : Nat) (o : POp) (s : State) : State :=
  match o.kind with
  | .fenceX _ _ => (List.range 4).foldl (fun s e => flushWindow gk e s) s
  | _ => s

/-- An outstanding operation completes if it may. -/
def finishOp (gk id : Nat) (s : State) : State :=
  match sfind s.groups gk, findOp s gk id with
  | some g, some o =>
    match sfind s.wgs (wgOf gk g) with
    | none => s
    | some w => if opDue s gk g o then releaseHeld (afterOp gk o (completeOp gk id (opEffect gk w o s))) else s
  | _, _ => s

/-- An accepted SWPULL is answered, if it can be, before it completes: the engine hands out its batch now (R278, R293). -/
def comeToPull (gk id : Nat) (s : State) : State :=
  if (swOf s (keyCore gk)).pulls.any fun c => c.group == gk && c.op == id then servePulls (keyCore gk) s else s

/-- FLAG_OPERATION_COMPLETE (R219). Env: `core`, `slot` (the group), `index` the operation (DESIGN CHOICE, log 12). -/
def execFlagOperationComplete (s : State) : Host.Outcome State Fault Refusal :=
  let gk := gkey s.env.core s.env.slot
  .next (finishOp gk s.env.index (comeToPull gk s.env.index s))

/-- Whether the word a wait has seen lies in a poisoned sector. -/
def waitPoison (s : State) (w : WaitRec) : Bool :=
  let n := if w.w64 then 8 else 4
  match w.cluster with
  | none => rangePoisoned s.poison w.pa n
  | some cl => match l2Line s cl w.asid w.va with
    | some ln => (poisonedAt w.va n ln.poison).isSome
    | none => false

/-- A lane's wait whose condition has held ends (R436): its register is written, and with the acquire modifier it acquires
(R200). -/
def endWait (w : WaitRec) (s : State) : State :=
  match w.sat with
  | none => s
  | some x =>
    let s1 := { s with waits := s.waits.filter fun v => v != w }
    let s2 := if w.acq then waitAcquire (keyCore w.group) w.asid w.scope w.va s1 else s1
    let s3 := serveOp w.group w.op (resultKeys w.d (if w.w64 then 2 else 1) w.lane x) s2
    match agOf s3 w.group with
    | some ag => if waitPoison s w then consumeAt ag.asid ag.wk w.va s3 else releaseHeld s3
    | none => s3

/-- WAITA_CONDITION_MET (R436). Env: `core`, `slot` (the group), `index` the operation, `lane`. -/
def execWaitaConditionMet (s : State) : Host.Outcome State Fault Refusal :=
  let gk := gkey s.env.core s.env.slot
  .next (match s.waits.find? fun w => w.group == gk && w.op == s.env.index && w.lane == s.env.lane && w.sat.isSome with
    | some w => endWait w s
    | none => s)

/-! ### Multicast windows and resends -/

/-- The lines of a joined request are served (R166). -/
def serveMcast (gk op : Nat) (s : State) : State :=
  match findOp s gk op with
  | none => s
  | some o => match o.kind with
    | .mcast ob start n dst clause => replay ⟨gk, op, .mcast ob dst, mcastLines start n, 0, start, clause, .nak⟩ s
    | _ => s

/-- MULTICAST_WINDOW_CLOSE (R165). Env: `core` the cluster, `index` the entry (32·slice + place). -/
def execMulticastWindowClose (s : State) : Host.Outcome State Fault Refusal :=
  let cl := s.env.core
  .next (match sfind (clusterSt s cl).merges s.env.index with
    | none => s
    | some e =>
      let s1 := modCluster s cl fun c => { c with merges := sdel c.merges s.env.index }
      e.reqs.foldl (fun s r => serveMcast r.1 r.2 s) s1)

/-- OVERFLOW_NAK_RESEND (R176): a group resends its NAKed accesses in order. Env: `core`, `slot` (the group). -/
def execOverflowNakResend (s : State) : Host.Outcome State Fault Refusal :=
  let gk := gkey s.env.core s.env.slot
  .next (resumeDrains (replayWhere (fun _ p => p.group == gk && p.place == .nak) s))

/-- ENGINE_NAK_RESEND (R108). Env: `core`, `slot` (the group), `kind` the engine. -/
def execEngineNakResend (s : State) : Host.Outcome State Fault Refusal :=
  .next (flushWindow (gkey s.env.core s.env.slot) s.env.kind s)

/-- The accesses of R170 by their codes. -/
def accessOf : Nat → Access
  | 0 => .read | 1 => .write | 2 => .atomic | 3 => .fetch | _ => .wait

/-- PAGE_WALK (R170): a miss of an ASID is translated, and its leaf enters the unit's caches, or its fault is reported. Env:
`asid`, `addr`, `kind` the access, `core`, `index` the client, `slot`. -/
def execPageWalk (s : State) : Host.Outcome State Fault Refusal :=
  let e := s.env
  let va := e.addr % 2 ^ 57
  .next (match translate s e.asid va (accessOf e.kind) with
    | (.ok _, s1) => s1
    | (.error f, s1) =>
      if (ctxOf s e.asid).isSome then reportFault ⟨e.core, e.index, e.slot, 0, 0⟩ e.asid va (accessOf e.kind) f s1 else s1)

/-! ### Engines -/

/-- MATRIX_OPERATION_COMPLETE (R257): the engine goes on with its head command, to its end where its inputs have arrived and
its window's budget lasts. Env: `core`. -/
def execMatrixOperationComplete (s : State) : Host.Outcome State Fault Refusal := .next (runHead s.env.core s)

/-- A window of an engine ends (R268): the steps its budget allows have run; the cycles that a step was ready and held over
it are counted, at most those in which no step ran; the count restarts, and a changed budget takes effect. -/
def governorWindow (core cycles : Nat) (s : State) : State :=
  let s1 := runEngine core (stepsLeft s core) s
  let held := (stepReady s1 core).isSome && stepsLeft s1 core == 0
  modMx s1 core fun x =>
    { x with
      stall := if held then min (x.stall + min cycles (64 - x.steps)) (2 ^ 31 - 1) else x.stall
      steps := 0, limit := x.budget }

/-- GOVERNOR_WINDOW (R268). Env: `core`, `size` the cycles in which a ready step was held. -/
def execGovernorWindow (s : State) : Host.Outcome State Fault Refusal := .next (governorWindow s.env.core s.env.size s)

/-- Whether a command's workgroup is stopping; a packet's copy stops while its core is ironed (R73, R147). -/
def dmaStopping (s : State) (x : DmaEnt) : Bool :=
  if x.packet.isSome then (sget IronSt.reset s.irons x.cmd.group).phase != 0
  else match sfind s.wgs x.cmd.wg with
    | some w => w.stopping
    | none => true

/-- Set-aside commands whose patch lists are resolved go on. -/
def resumeAside (e key n : Nat) (s : State) : State :=
  ((dmaOf s e key).filter fun x => x.aside && !dmaStopping s x).foldl (fun s x =>
    if (dmaOf s e key).contains x then workDma e key n x s else s) s

/-- The copy engine of a core works on its current command (R458). -/
def workCopy (core n : Nat) (s : State) : State :=
  let s1 := resumeAside 1 core n s
  match (dmaOf s1 1 core).find? fun x => !x.aside && !dmaStopping s1 x with
  | some x => workDma 1 core n x s1
  | none => s1

/-- How many segments an event covers: as many as it says, or all. -/
def segCount (n : Nat) : Nat := if n = 0 then 2 ^ 37 else n

/-- A command may start at the link engine: it is among the 16 first (R461). -/
def linkMayRun (q : List DmaEnt) (x : DmaEnt) : Bool :=
  ((q.takeWhile fun y => y != x).filter fun y => !y.aside).length < 16

/-- A command of the link engine that has not started and could: one whose first segment waits for a port counts as started. -/
def unstarted (s : State) (x : DmaEnt) : Bool :=
  x.pos == 0 && x.patch.isEmpty && cmdSegs x.cmd.cmd != 0 && (runSeg (engOf 3 x) x.cmd.cmd 0 s).1 != .wait

/-- The commands of one group start in issue order (R461). -/
def inOrder (s : State) (q : List DmaEnt) (x : DmaEnt) : Bool :=
  !((q.takeWhile fun y => y != x).any fun y => y.cmd.group == x.cmd.group && !dmaStopping s y && unstarted s y)

/-- COPY_COMMAND_COMPLETE (R458). Env: `core`, `size` the segments it covers (0 for all). -/
def execCopyCommandComplete (s : State) : Host.Outcome State Fault Refusal :=
  .next (finishCopies (fun _ _ => true) (workCopy s.env.core (min (segCount s.env.size) (segBound s)) s))
where
  /-- No command of the engine has more segments. -/
  segBound (s : State) : Nat := (dmaOf s 1 s.env.core).foldl (fun n x => max n (cmdSegs x.cmd.cmd)) 0

/-- LINK_TRANSFER_COMPLETE (R463). Env: `core` the die, `index` the command's place, `size` the segments (0 for all). -/
def execLinkTransferComplete (s : State) : Host.Outcome State Fault Refusal :=
  let die := s.env.core
  .next (match (dmaOf s 3 die)[s.env.index]? with
    | none => s
    | some x =>
      if dmaStopping s x || !linkMayRun (dmaOf s 3 die) x || !inOrder s (dmaOf s 3 die) x then s
      else workDma 3 die (min (segCount s.env.size) (cmdSegs x.cmd.cmd)) x s)

/-- REMOTE_WAKE_NOTIFY (R286). Env: `core`. -/
def execRemoteWakeNotify (s : State) : Host.Outcome State Fault Refusal :=
  .next (servePulls s.env.core s)

/-- SWEEP_DECISION_NOTIFY (R290). Env: `core`. -/
def execSweepDecisionNotify (s : State) : Host.Outcome State Fault Refusal :=
  let core := s.env.core
  .next (if (swOf s core).told then modSw (learn core s) core fun x => { x with told := false } else s)

/-- STALLED_WATCH_REREAD (R289). Env: `core`. -/
def execStalledWatchReread (s : State) : Host.Outcome State Fault Refusal :=
  let core := s.env.core
  .next (if (swOf s core).run = 2 && !swStopping s core then
      let s1 := rereadWatch core s
      settleSweep core (unstallIf core (!(swOf s1 core).satisfied.isEmpty) s1)
    else s)

/-! ### Link tokens (R261, R262) -/

/-- The first token of a sender's window for a channel, with the window without it; none where a NAK has stopped it. -/
def nextToken (x : MxSt) (dest link vc : Nat) : Option (Token × List (Nat × Token)) :=
  if x.resend.contains (dest, link, vc) then none
  else (takeOut (fun e => e.1 == dest && e.2.link == link && tagVc (tokenTag e.2) == vc) x.tx).map fun r => (r.1.2, r.2)

/-- A token as it arrives: bits of its header and payload that an error has turned are turned (R261). -/
def flipToken (header : Nat) (payload : List Byte) (t : Token) : Token :=
  { t with header := (t.header ^^^ header) % 65536, payload := t.payload.mapIdx fun i b => b ^^^ payload.getD i 0 }

/-- A token reaches a receiver: accepted, or dropped at a full queue; its sender then counts the NAK, and the channel stands
still until the resend (R262). -/
def takeToken (from' core link vc : Nat) (t : Token) (rest : List (Nat × Token)) (s : State) : State :=
  if (channel (mxOf s core) link vc).length < 16 then
    modMx (modMx s from' fun x => { x with tx := rest }) core fun x => { x with rx := x.rx ++ [t] }
  else countNak from' (modMx s from' fun x => { x with resend := x.resend ++ [(core, link, vc)] })

/-- OPERAND_TOKEN_RECEIVE (R261): the next token of a channel arrives. One whose parity fails, or with a tag that no link
between cores carries, is consumed as an error by every member of the gang. Env: `core`, `port` the link (0 from the bond
row above, 1 from the west), `kind` the virtual channel, `mask` and `bytes` the bits of header and payload that an error
turns. -/
def execOperandTokenReceive (s : State) : Host.Outcome State Fault Refusal :=
  let e := s.env
  .next (match linkEnd s e.core (e.port % 2) with
    | none => s
    | some from' =>
      match nextToken (mxOf s from') e.core (e.port % 2) e.kind with
      | none => s
      | some (t0, rest) =>
        let t := flipToken e.mask e.bytes t0
        if !tokenSound t || decide (6 ≤ tokenTag t) || tokenTag t == 3 then
          consumeGang 3 e.core (modMx s from' fun x => { x with tx := rest })
        else takeToken from' e.core (e.port % 2) e.kind t rest s)

/-- OPERAND_TOKEN_RESEND (R262): the channels that NAKs stopped send the named token and every later one again, in order.
Env: `core` the sender. -/
def execOperandTokenResend (s : State) : Host.Outcome State Fault Refusal :=
  .next (modMx s s.env.core fun x => { x with resend := [] })

/-! ### Clocks (R34) and the budget (R268) -/

/-- DROOP_DETECT (R34): the next clock edge is stretched, and each one after it while the droop lasts (`elapse`); a further
detector's crossing adds nothing. Env: `core` the cluster. -/
def execDroopDetect (s : State) : Host.Outcome State Fault Refusal :=
  .next (modCluster s s.env.core fun c =>
    { c with droop := true, stretches := if c.droop then c.stretches else c.stretches + 1 })

/-- DROOP_END (R34). Env: `core` the cluster. -/
def execDroopEnd (s : State) : Host.Outcome State Fault Refusal :=
  .next (modCluster s s.env.core fun c => { c with droop := false })

/-- Whether a sensor of a die, 64 of them, reads the temperature at which throttling starts (R52). The rules do not assign the
sensors to clusters: a hot one throttles every cluster of its die (DESIGN CHOICE, log 57). -/
def dieHot (s : State) (die : Nat) : Bool := s.sensors.any fun e => e.1 / 64 == die && decide (100 ≤ e.2)

/-- The clock's k after a run of the loop: lowered (to `low` at most) when stretches exceed 1 % of the 10 µs' cycles, the
power share is exceeded or the die is hot (R34, R52), else raised one step. -/
def nextK (c : ClusterSt) (overused : Bool) (low : Nat) : Nat :=
  if overused || decide (33 * c.k * 1000 / 16 < 100 * c.stretches) then max 6 (min (c.k - 1) low) else min 16 (c.k + 1)

/-- The budget of an engine moves by at most 8, stays at 8 or more, as its ramp begins and CAP ends there, and never exceeds
CAP (R268, R269) (DEDUCED, log 58); its ramp at start is the start's (R36). -/
def moveBudget (down : Bool) (by' : Nat) (x : MxSt) : MxSt :=
  if x.ramp.isSome then x
  else { x with budget := if down then max 8 (x.budget - min by' 8) else min (capOf x.cap) (x.budget + min by' 8) }

/-- VOLTAGE_FREQUENCY_LOOP (R34, R52, R268). Env: `core` the cluster, `flag` its power share is exceeded, `value` the k it would
lower to, `kind` 1 where its matrix engines used more than their share, `size` the change of the budgets. -/
def execVoltageFrequencyLoop (s : State) : Host.Outcome State Fault Refusal :=
  let e := s.env
  let k := nextK (clusterSt s e.core) (e.flag || dieHot s (e.core / 12)) e.value
  let s1 := modCluster s e.core fun c =>
    { c with k := k, vcore := 600 + Config.coreVoltage e.core k % 301, stretches := 0 }
  .next ((List.range 16).foldl (fun s i => modMx s (16 * e.core + i) (moveBudget (e.kind == 1) e.size)) s1)

end Sys2Proof.Machine
end

