-- ==== Sys2Proof/Machine/Control.lean ====
section
/-! DEFINITION. Group 000: control transfer and rejoin sets (R361 to R374). -/

namespace Sys2Proof.Machine

/-- The checks of a word of group 000 (UNITS bit 51). -/
def ctlForm (ops : List (Opnd × Role)) : Form := { unit := 3, ops := ops }

def unused4 (o : R4) : List (Opnd × Role) := [(o.d, .unused), (o.a, .unused), (o.b, .unused), (o.c, .unused)]
def unusedM (o : RM) : List (Opnd × Role) := [(o.d, .unused), (o.a, .unused), (o.b, .unused)]

/-- The target of a branch or call with an I22 field (R337, R366). -/
def branchPc (cx : Cx) (m : BitVec 22) : Pc := ⟨cx.run.head + 8 * m.signExtend 57, 0⟩

/-- The target a 64-bit source names: its bits [56:0] (R366). -/
def wordTarget (x : W64) : Pc := ⟨x.truncate 57, 0⟩

/-- Guarded lanes go to their target, the others to the following header (R366). -/
def branchTo (cx : Cx) (h : Hdr) (target : Nat → Pc) (s : State) : State :=
  let m := guardMask cx h
  moveLanes cx (fun l => if m.getLsbD l then target l else followPc cx.run.head cx.run.words.length) s

/-- The link a call writes in the lanes where its guard holds (R229, R367). -/
def writeLink (cx : Cx) (h : Hdr) (d : Opnd) (s : State) : State :=
  fixWrites cx (wr64 cx d (guardMask cx h) fun _ => (followPc cx.run.head cx.run.words.length).addr.zeroExtend 64) s

/-- NOP (R365). -/
def execNop (h : Hdr) (o : R4) (s : State) : Host.Outcome State Fault Refusal :=
  issue (ctlForm (unused4 o)) h (fun _ s => s) s

/-- BRA (R366). -/
def execBra (h : Hdr) (o : I22) (s : State) : Host.Outcome State Fault Refusal :=
  issue { ctlForm [(o.d, .unused), (o.a, .unused)] with guarded := true, ends := true } h
    (fun cx s => branchTo cx h (fun _ => branchPc cx o.m) s) s

/-- BRX (R366). -/
def execBrx (h : Hdr) (o : R4) (s : State) : Host.Outcome State Fault Refusal :=
  issue { ctlForm [(o.d, .unused), (o.a, .src 2 false), (o.b, .unused), (o.c, .unused)] with
      guarded := true, ends := true } h
    (fun cx s => branchTo cx h (fun l => wordTarget (rdI64 cx s o.a l)) s) s

/-- CALL (R367). -/
def execCall (h : Hdr) (o : I22) (s : State) : Host.Outcome State Fault Refusal :=
  issue { ctlForm [(o.d, .vMul 2 true), (o.a, .unused)] with guarded := true, ends := true } h
    (fun cx s => branchTo cx h (fun _ => branchPc cx o.m) (writeLink cx h o.d s)) s

/-- CALLX (R367): the target is read before the link is written. -/
def execCallx (h : Hdr) (o : R4) (s : State) : Host.Outcome State Fault Refusal :=
  issue { ctlForm [(o.d, .vMul 2 true), (o.a, .src 2 false), (o.b, .unused), (o.c, .unused)] with
      guarded := true, ends := true } h
    (fun cx s => branchTo cx h (fun l => wordTarget (rdI64 cx s o.a l)) (writeLink cx h o.d s)) s

/-- RET (R368). -/
def execRet (h : Hdr) (o : R4) (s : State) : Host.Outcome State Fault Refusal :=
  issue { ctlForm [(o.d, .unused), (o.a, .vMul 2 false), (o.b, .unused), (o.c, .unused)] with ends := true } h
    (fun cx s =>
      if (lanesOf cx.run.lanes).any fun l => rdI64 cx s o.a l == 0 then raiseExc cx 5 0 s
      else moveLanes cx (fun l => wordTarget (rdI64 cx s o.a l)) s) s

/-- EXIT (R369, R226). -/
def execExit (h : Hdr) (o : R4) (s : State) : Host.Outcome State Fault Refusal :=
  issue { ctlForm (unused4 o) with ends := true } h
    (fun cx s =>
      modRun (modGroup s cx.gk fun g => exitLanes g cx.run.lanes) cx.rk fun r => { r with ends := .moved }) s

/-- YIELD (R370): the run ends, and the lanes' program counter is passed over once. -/
def execYield (h : Hdr) (o : R4) (s : State) : Host.Outcome State Fault Refusal :=
  issue (ctlForm (unused4 o)) h
    (fun cx s =>
      modRun (modGroup s cx.gk fun g => { g with yielded := some (afterPc cx.run) }) cx.rk fun r =>
        { r with ends := .after }) s

/-- The checks of a rejoin instruction: its set field is 0 to 15 (R371). -/
def setForm (o : RM) (ops : List (Opnd × Role)) : Form := { ctlForm ops with modOk := decide (o.c.toNat < 16) }

/-- JENTER (R223). -/
def execJenter (h : Hdr) (o : RM) (s : State) : Host.Outcome State Fault Refusal :=
  issue (setForm o (unusedM o)) h
    (fun cx s => modGroup s cx.gk fun g => { g with members := modAt g.members o.c.toNat fun m => m ||| cx.run.lanes }) s

/-- JQUIT (R223). -/
def execJquit (h : Hdr) (o : RM) (s : State) : Host.Outcome State Fault Refusal :=
  issue (setForm o (unusedM o)) h
    (fun cx s => modGroup s cx.gk fun g =>
      evalSet o.c.toNat { g with members := modAt g.members o.c.toNat fun m => m &&& ~~~cx.run.lanes }) s

/-- The executing lanes park on set n at the following header (R223). -/
def parkOn (n : Nat) (lanes : Mask) (pc : Pc) (g : Group) : Group :=
  let g1 := onLanes g lanes fun x => { x with st := .parked, pc := pc }
  evalSet n { g1 with arrivals := modAt g1.arrivals n fun a => a ||| lanes }

/-- JWAIT (R223, R373). -/
def execJwait (h : Hdr) (o : RM) (s : State) : Host.Outcome State Fault Refusal :=
  issue { setForm o (unusedM o) with ends := true } h
    (fun cx s =>
      if cx.run.lanes &&& ~~~cx.g.members.getD o.c.toNat 0 != 0 then raiseExc cx 6 0 s
      else
        let pc := followPc cx.run.head cx.run.words.length
        modRun (modGroup s cx.gk (parkOn o.c.toNat cx.run.lanes pc)) cx.rk fun r => { r with ends := .moved }) s

/-- JSAVE (R227, R374). -/
def execJsave (h : Hdr) (o : RM) (s : State) : Host.Outcome State Fault Refusal :=
  issue (setForm o [(o.d, .dst 1 false true), (o.a, .unused), (o.b, .unused)]) h
    (fun cx s => fixWrites cx (wr32 cx o.d cx.run.lanes fun _ => cx.g.members.getD o.c.toNat 0) s) s

/-- The member mask of set n is restored (R227). -/
def restoreSet (n : Nat) (x : Mask) (g : Group) : Group :=
  evalSet n (withdraw n { g with members := setAt g.members n (x &&& ~~~inState g .exited) })

/-- JRESTORE (R227, R374). -/
def execJrestore (h : Hdr) (o : RM) (s : State) : Host.Outcome State Fault Refusal :=
  issue (setForm o [(o.d, .unused), (o.a, .src 1 true), (o.b, .unused)]) h
    (fun cx s => modGroup s cx.gk (restoreSet o.c.toNat (rdI cx s o.a (elected cx)))) s

/-- JREAD (R227, R374). -/
def execJread (h : Hdr) (o : RM) (s : State) : Host.Outcome State Fault Refusal :=
  issue (setForm o [(o.d, .dst 1 false true), (o.a, .unused), (o.b, .unused)]) h
    (fun cx s => fixWrites cx (wr32 cx o.d cx.run.lanes fun _ => cx.g.arrivals.getD o.c.toNat 0) s) s

end Sys2Proof.Machine
end

