-- ==== Sys2Proof/Machine/CrossLane.lean ====
section
/-! DEFINITION. Group 011, cross-lane instructions (R406 to R414). -/

namespace Sys2Proof.Machine

/-- Whether lane l executes. -/
def execs (cx : Cx) (l : Nat) : Bool := cx.run.lanes.getLsbD l

/-- XPATLD (R407). -/
def execXpatld (h : Hdr) (o : RM) (s : State) : Host.Outcome State Fault Refusal :=
  let f : Form := { unit := 0, modOk := decide (o.c.toNat < 4), ops := [(o.d, .unused), (o.a, .sMul 8 504), (o.b, .unused)] }
  issue f h (fun cx s =>
    let a := match o.a with
      | .s n => n.toNat
      | _ => 0
    let bytes := ((List.range 8).map fun i => leBytes 4 (rdS cx s (a + i)).toNat).flatten
    fixWrites cx [.table o.c.toNat bytes] s) s

/-- Byte j of XPERM's result in lane l (R408). -/
def permByte (cx : Cx) (s : State) (table : List Byte) (a : Opnd) (l j : Nat) : Nat :=
  let e := (table.getD (4 * (l % 8) + j) 0x80).toNat
  let src := (e % 32 + 8 * (l / 8)) % 32
  if e / 128 = 1 ∨ !execs cx src then 0 else field (rdI cx s a src).toNat (8 * (e / 32 % 4)) 8

/-- XPERM (R408). -/
def execXperm (h : Hdr) (o : RM) (s : State) : Host.Outcome State Fault Refusal :=
  let f : Form :=
    { unit := 0, modOk := decide (o.c.toNat < 4), ops := [(o.d, .dst 1 true false), (o.a, .src 1 false), (o.b, .unused)] }
  issue f h (fun cx s =>
    let t := cx.g.tables.getD o.c.toNat []
    put32 cx o.d (fun l => BitVec.ofNat 32 (packFields 8 ((List.range 4).map (permByte cx s t o.a l)))) s) s

/-- A value taken from the lane a lane operand names; a lane that does not execute gives 0 (R406, R409). -/
def shfl (h : Hdr) (o : R4) (from_ : Nat → Nat → Nat) (s : State) : Host.Outcome State Fault Refusal :=
  let f : Form :=
    { unit := 0, ops := [(o.d, .dst 1 true false), (o.a, .src 1 false), (o.b, .src 1 false), (o.c, .unused)] }
  issue f h (fun cx s => put32 cx o.d
    (fun l =>
      let src := from_ l (rdI cx s o.b l).toNat
      if execs cx src then rdI cx s o.a src else 0) s) s

/-- SHFL.IDX (R409). -/
def execShflIdx (h : Hdr) (o : R4) (s : State) : Host.Outcome State Fault Refusal := shfl h o (fun _ b => b % 32) s
/-- SHFL.UP (R409). -/
def execShflUp (h : Hdr) (o : R4) (s : State) : Host.Outcome State Fault Refusal :=
  shfl h o (fun l b => if l < b then l else l - b) s
/-- SHFL.DOWN (R409). -/
def execShflDown (h : Hdr) (o : R4) (s : State) : Host.Outcome State Fault Refusal :=
  shfl h o (fun l b => if 31 < l + b then l else l + b) s
/-- SHFL.XOR (R409). -/
def execShflXor (h : Hdr) (o : R4) (s : State) : Host.Outcome State Fault Refusal := shfl h o (fun l b => l ^^^ b % 32) s

/-- BCAST (R410). -/
def execBcast (h : Hdr) (x : Wd) (o : R4) (s : State) : Host.Outcome State Fault Refusal :=
  let w := match x with
    | .w32 => 1
    | .w64 => 2
  let f : Form :=
    { unit := 0, ops := [(o.d, .dst w true true), (o.a, .src w false), (o.b, .src 1 true), (o.c, .unused)] }
  issue f h (fun cx s =>
    let src := (rdI cx s o.b (elected cx)).toNat % 32
    match x with
    | .w32 => put32 cx o.d (fun _ => if execs cx src then rdI cx s o.a src else 0) s
    | .w64 => put64 cx o.d (fun _ => if execs cx src then rdI64 cx s o.a src else 0) s) s

/-- BALLOT (R411). -/
def execBallot (h : Hdr) (o : R4) (s : State) : Host.Outcome State Fault Refusal :=
  let f : Form := { unit := 0, ops := [(o.d, .dst 1 false true), (o.a, .psrc), (o.b, .unused), (o.c, .unused)] }
  issue f h (fun cx s => put32 cx o.d (fun _ => rdPred cx o.a &&& cx.run.lanes) s) s

/-- A vote over the executing lanes (R411). -/
def vote (h : Hdr) (o : R4) (p : Mask → Mask → Bool) (s : State) : Host.Outcome State Fault Refusal :=
  let f : Form := { unit := 0, ops := [(o.d, .pdst), (o.a, .psrc), (o.b, .unused), (o.c, .unused)] }
  issue f h (fun cx s => putPred cx o.d (fun _ => p (rdPred cx o.a &&& cx.run.lanes) cx.run.lanes) s) s

/-- VOTE.ANY (R411). -/
def execVoteAny (h : Hdr) (o : R4) (s : State) : Host.Outcome State Fault Refusal := vote h o (fun t _ => t != 0) s
/-- VOTE.ALL (R411). -/
def execVoteAll (h : Hdr) (o : R4) (s : State) : Host.Outcome State Fault Refusal := vote h o (fun t e => t == e) s
/-- VOTE.UNI (R411). -/
def execVoteUni (h : Hdr) (o : R4) (s : State) : Host.Outcome State Fault Refusal :=
  vote h o (fun t e => t == e || t == 0) s

/-- Whether a type code is an integer type of RED and SCAN; the bit forms also take .B32 and .B64 (R412). -/
def redType (bits : Bool) (c : Nat) : Bool := decide (16 ≤ c ∧ c ≤ 19) || (bits && (c == 22 || c == 23))

def redWide (c : Nat) : Bool := c == 18 || c == 19 || c == 23
def redSigned (c : Nat) : Bool := c == 16 || c == 18
def redBits (c : Nat) : Nat := if redWide c then 64 else 32

/-- The value of a position in lane l, as a number. -/
def redVal (cx : Cx) (s : State) (c : Nat) (o : Opnd) (l : Nat) : Nat :=
  if redWide c then (rdI64 cx s o l).toNat else (rdI cx s o l).toNat

/-- The smaller of two values of a type. -/
def redMin (c a b : Nat) : Nat :=
  if redSigned c then (if toSigned (redBits c) a ≤ toSigned (redBits c) b then a else b) else min a b
def redMax (c a b : Nat) : Nat :=
  if redSigned c then (if toSigned (redBits c) a ≤ toSigned (redBits c) b then b else a) else max a b
def redAdd (c a b : Nat) : Nat := (a + b) % 2 ^ redBits c

/-- The identities of R412. -/
def redTop (c : Nat) : Nat := if redSigned c then 2 ^ (redBits c - 1) - 1 else 2 ^ redBits c - 1
def redBottom (c : Nat) : Nat := if redSigned c then 2 ^ (redBits c - 1) else 0

/-- The checks of RED and SCAN: type in C[4:0], the rest zero. -/
def redForm (o : RM) (bits sDst : Bool) : Form :=
  let c := o.c.toNat
  let w := if redWide c then 2 else 1
  { unit := 0, modOk := redType bits c, ops := [(o.d, .dst w true sDst), (o.a, .src w false), (o.b, .unused)] }

/-- A result of the type's width. -/
def putRed (cx : Cx) (c : Nat) (d : Opnd) (x : Nat → Nat) (s : State) : State :=
  if redWide c then put64 cx d (fun l => BitVec.ofNat 64 (x l)) s else put32 cx d (fun l => BitVec.ofNat 32 (x l)) s

/-- A reduction over the executing lanes (R412): 2 issue cycles, 4 for 64-bit types (R389). -/
def reduce (h : Hdr) (o : RM) (bits : Bool) (f : Nat → Nat → Nat → Nat) (unit : Nat → Nat) (s : State) :
    Host.Outcome State Fault Refusal :=
  let c := o.c.toNat
  issue (redForm o bits true) h (fun cx s =>
    let x := (lanesOf cx.run.lanes).foldl (fun a l => f c a (redVal cx s c o.a l)) (unit c)
    putRed cx c o.d (fun _ => x) (takeCycles cx (if redWide c then 4 else 2) s)) s

/-- RED.ADD (R412). -/
def execRedAdd (h : Hdr) (o : RM) (s : State) : Host.Outcome State Fault Refusal := reduce h o false redAdd (fun _ => 0) s
/-- RED.MIN (R412). -/
def execRedMin (h : Hdr) (o : RM) (s : State) : Host.Outcome State Fault Refusal := reduce h o false redMin redTop s
/-- RED.MAX (R412). -/
def execRedMax (h : Hdr) (o : RM) (s : State) : Host.Outcome State Fault Refusal := reduce h o false redMax redBottom s
/-- RED.AND (R412). -/
def execRedAnd (h : Hdr) (o : RM) (s : State) : Host.Outcome State Fault Refusal :=
  reduce h o true (fun _ a b => a &&& b) (fun c => 2 ^ redBits c - 1) s
/-- RED.OR (R412). -/
def execRedOr (h : Hdr) (o : RM) (s : State) : Host.Outcome State Fault Refusal :=
  reduce h o true (fun _ a b => a ||| b) (fun _ => 0) s
/-- RED.XOR (R412). -/
def execRedXor (h : Hdr) (o : RM) (s : State) : Host.Outcome State Fault Refusal :=
  reduce h o true (fun _ a b => a ^^^ b) (fun _ => 0) s

/-- The format of FRED's type code (R413). -/
def fredFmt (c : Nat) : FFmt :=
  match c with
  | 0 => .f64
  | 1 => .f32
  | 3 => .bf16
  | _ => .f16

/-- One level of the fixed tree (R413). -/
def treeLevel (f : Nat → Nat → Nat) : List Nat → List Nat
  | a :: b :: rest => f a b :: treeLevel f rest
  | rest => rest

/-- FRED over the fixed tree of 32 lanes (R413). -/
def fred (h : Hdr) (o : RM) (comb : FFmt → Nat → Nat → Nat) (unit : FFmt → Nat) (s : State) :
    Host.Outcome State Fault Refusal :=
  let c := o.c.toNat
  let f := fredFmt c
  let form : Form :=
    { unit := 0, modOk := c == 0 || c == 1 || c == 3 || c == 4
      ops := [(o.d, .dst (fpWords f) true true), (o.a, .src (fpWords f) false), (o.b, .unused)] }
  issue form h (fun cx s =>
    let leaf (e l : Nat) : Nat := if execs cx l then elemOf f (rdFp cx s f o.a l) e else unit f
    let tree (e : Nat) : Nat := (iter 5 (fun _ xs => treeLevel (comb f) xs) ((List.range 32).map (leaf e))).headD 0
    putFp cx f o.d (fun _ => mapElems f tree) (takeCycles cx (if f == .f64 then 4 else 2) s)) s

/-- FRED.ADD (R413). -/
def execFredAdd (h : Hdr) (o : RM) (s : State) : Host.Outcome State Fault Refusal :=
  fred h o (fun f a b => roundArith f .rn true 0 (fpAdd false (decodeF f a) (decodeF f b))) (fun f => signBit f true) s
/-- FRED.MIN (R413). -/
def execFredMin (h : Hdr) (o : RM) (s : State) : Host.Outcome State Fault Refusal :=
  fred h o fminCode (fun f => infCode f false) s
/-- FRED.MAX (R413). -/
def execFredMax (h : Hdr) (o : RM) (s : State) : Host.Outcome State Fault Refusal :=
  fred h o fmaxCode (fun f => infCode f true) s

/-- A prefix combination over the executing lanes at or below l, or strictly below it (R414). -/
def scan (h : Hdr) (o : RM) (strict : Bool) (f : Nat → Nat → Nat → Nat) (unit : Nat → Nat) (s : State) :
    Host.Outcome State Fault Refusal :=
  let c := o.c.toNat
  issue (redForm o false false) h (fun cx s =>
    let x (l : Nat) : Nat :=
      ((lanesOf cx.run.lanes).filter fun k => if strict then decide (k < l) else decide (k ≤ l)).foldl
        (fun a k => f c a (redVal cx s c o.a k)) (unit c)
    putRed cx c o.d x (takeCycles cx (if redWide c then 4 else 2) s)) s

/-- SCAN.ADD (R414). -/
def execScanAdd (h : Hdr) (o : RM) (s : State) : Host.Outcome State Fault Refusal := scan h o false redAdd (fun _ => 0) s
/-- SCAN.XADD (R414). -/
def execScanXadd (h : Hdr) (o : RM) (s : State) : Host.Outcome State Fault Refusal := scan h o true redAdd (fun _ => 0) s
/-- SCAN.MAX (R414). -/
def execScanMax (h : Hdr) (o : RM) (s : State) : Host.Outcome State Fault Refusal := scan h o false redMax redBottom s
/-- SCAN.MIN (R414). -/
def execScanMin (h : Hdr) (o : RM) (s : State) : Host.Outcome State Fault Refusal := scan h o false redMin redTop s

end Sys2Proof.Machine
end

