-- ==== Sys2Proof/Machine/Integer.lean ====
section
/-! DEFINITION. Group 001: moves, integer arithmetic, shifts, bit operations, compares, predicates, LEA (R375 to R387). -/

namespace Sys2Proof.Machine

/-- The checks of a word of group 001 (UNITS bit 48) with the widths of its fields; an S destination takes the scalar
path, whose sources are uniform (R334, R362). -/
def intForm (o : R4) (wd wa wb wc : Nat) : Form :=
  { unit := 0
    ops := [(o.d, .dst wd true true), (o.a, srcRole wa (isS o.d)), (o.b, srcRole wb (isS o.d)),
      (o.c, srcRole wc (isS o.d))] }

/-- The same for an I22 form with one source or none. -/
def intForm22 (o : I22) (wd wa : Nat) : Form :=
  { unit := 0, ops := [(o.d, .dst wd true true), (o.a, srcRole wa (isS o.d))] }

/-- Instructions of one, two and three 32-bit sources. -/
def un32 (h : Hdr) (o : R4) (f : W32 → W32) (s : State) : Host.Outcome State Fault Refusal :=
  issue (intForm o 1 1 0 0) h (fun cx s => put32 cx o.d (fun l => f (rdI cx s o.a l)) s) s

def bin32 (h : Hdr) (o : R4) (f : W32 → W32 → W32) (s : State) : Host.Outcome State Fault Refusal :=
  issue (intForm o 1 1 1 0) h (fun cx s => put32 cx o.d (fun l => f (rdI cx s o.a l) (rdI cx s o.b l)) s) s

def tri32 (h : Hdr) (o : R4) (f : W32 → W32 → W32 → W32) (s : State) : Host.Outcome State Fault Refusal :=
  issue (intForm o 1 1 1 1) h
    (fun cx s => put32 cx o.d (fun l => f (rdI cx s o.a l) (rdI cx s o.b l) (rdI cx s o.c l)) s) s

def bin64 (h : Hdr) (o : R4) (f : W64 → W64 → W64) (s : State) : Host.Outcome State Fault Refusal :=
  issue (intForm o 2 2 2 0) h (fun cx s => put64 cx o.d (fun l => f (rdI64 cx s o.a l) (rdI64 cx s o.b l)) s) s

/-- MOV (R375). -/
def execMov (h : Hdr) (x : Wd) (o : R4) (s : State) : Host.Outcome State Fault Refusal :=
  match x with
  | .w32 => un32 h o (fun a => a) s
  | .w64 => issue (intForm o 2 2 0 0) h (fun cx s => put64 cx o.d (fun l => rdI64 cx s o.a l) s) s

/-- MOVI (R375). -/
def execMovi (h : Hdr) (x : Wd) (o : I22) (s : State) : Host.Outcome State Fault Refusal :=
  match x with
  | .w32 => issue (intForm22 o 1 0) h (fun cx s => put32 cx o.d (fun _ => o.m.signExtend 32) s) s
  | .w64 => issue (intForm22 o 2 0) h (fun cx s => put64 cx o.d (fun _ => o.m.signExtend 64) s) s

/-- The guards the scalar form of SEL may carry (R375). -/
def selGuardOk (h : Hdr) (o : R4) : Bool := !isS o.d || h.g == 7 || h.g == 15

/-- SEL (R375). -/
def execSel (h : Hdr) (x : Wd) (o : R4) (s : State) : Host.Outcome State Fault Refusal :=
  match x with
  | .w32 => issue { intForm o 1 1 1 0 with guarded := true, modOk := selGuardOk h o } h
      (fun cx s => put32 cx o.d (fun l => if (guardMask cx h).getLsbD l then rdI cx s o.a l else rdI cx s o.b l) s) s
  | .w64 => issue { intForm o 2 2 2 0 with guarded := true, modOk := selGuardOk h o } h
      (fun cx s => put64 cx o.d (fun l => if (guardMask cx h).getLsbD l then rdI64 cx s o.a l else rdI64 cx s o.b l) s) s

/-- A saturating result (R377). -/
def sat32 (lo hi t : Int) : W32 := BitVec.ofInt 32 (clampInt lo hi t)

def satI32 (t : Int) : W32 := sat32 (-2147483648) 2147483647 t
def satN32 (t : Int) : W32 := sat32 0 4294967295 t

/-- IADD (R377). -/
def execIadd (h : Hdr) (x : AddX) (o : R4) (s : State) : Host.Outcome State Fault Refusal :=
  match x with
  | .wrap32 => bin32 h o (fun a b => a + b) s
  | .satI32 => bin32 h o (fun a b => satI32 (a.toInt + b.toInt)) s
  | .satN32 => bin32 h o (fun a b => satN32 (a.toNat + b.toNat)) s
  | .wrap64 => bin64 h o (fun a b => a + b) s

/-- ISUB (R377). -/
def execIsub (h : Hdr) (x : AddX) (o : R4) (s : State) : Host.Outcome State Fault Refusal :=
  match x with
  | .wrap32 => bin32 h o (fun a b => a - b) s
  | .satI32 => bin32 h o (fun a b => satI32 (a.toInt - b.toInt)) s
  | .satN32 => bin32 h o (fun a b => satN32 ((a.toNat : Int) - b.toNat)) s
  | .wrap64 => bin64 h o (fun a b => a - b) s

/-- IADDI (R377). -/
def execIaddi (h : Hdr) (x : Wd) (o : I22) (s : State) : Host.Outcome State Fault Refusal :=
  match x with
  | .w32 => issue (intForm22 o 1 1) h
      (fun cx s => put32 cx o.d (fun l => rdI cx s o.a l + o.m.signExtend 32) s) s
  | .w64 => issue (intForm22 o 2 2) h
      (fun cx s => put64 cx o.d (fun l => rdI64 cx s o.a l + o.m.signExtend 64) s) s

/-- IMUL (R378). -/
def execImul (h : Hdr) (x : MulX) (o : R4) (s : State) : Host.Outcome State Fault Refusal :=
  match x with
  | .low32 => bin32 h o (fun a b => a * b) s
  | .hiI32 => bin32 h o (fun a b => BitVec.ofInt 32 (a.toInt * b.toInt / 2 ^ 32)) s
  | .hiN32 => bin32 h o (fun a b => BitVec.ofNat 32 (a.toNat * b.toNat / 2 ^ 32)) s
  | .low64 => bin64 h o (fun a b => a * b) s

/-- The wide form of IMAD: 32-bit A and B, 64-bit C and destination (R376, R378). -/
def wideMad (h : Hdr) (o : R4) (f : W32 → W64) (s : State) : Host.Outcome State Fault Refusal :=
  issue (intForm o 2 1 1 2) h
    (fun cx s => put64 cx o.d (fun l => f (rdI cx s o.a l) * f (rdI cx s o.b l) + rdI64 cx s o.c l) s) s

/-- IMAD (R378). -/
def execImad (h : Hdr) (x : MadX) (o : R4) (s : State) : Host.Outcome State Fault Refusal :=
  match x with
  | .low32 => tri32 h o (fun a b c => a * b + c) s
  | .wideI32 => wideMad h o (fun a => a.signExtend 64) s
  | .wideN32 => wideMad h o (fun a => a.zeroExtend 64) s

/-- IMIN (R379). -/
def execImin (h : Hdr) (x : MinX) (o : R4) (s : State) : Host.Outcome State Fault Refusal :=
  match x with
  | .i32 => bin32 h o (fun a b => if a.toInt ≤ b.toInt then a else b) s
  | .n32 => bin32 h o (fun a b => if a.toNat ≤ b.toNat then a else b) s
  | .i64 => bin64 h o (fun a b => if a.toInt ≤ b.toInt then a else b) s
  | .n64 => bin64 h o (fun a b => if a.toNat ≤ b.toNat then a else b) s

/-- IMAX (R379). -/
def execImax (h : Hdr) (x : MinX) (o : R4) (s : State) : Host.Outcome State Fault Refusal :=
  match x with
  | .i32 => bin32 h o (fun a b => if a.toInt ≤ b.toInt then b else a) s
  | .n32 => bin32 h o (fun a b => if a.toNat ≤ b.toNat then b else a) s
  | .i64 => bin64 h o (fun a b => if a.toInt ≤ b.toInt then b else a) s
  | .n64 => bin64 h o (fun a b => if a.toNat ≤ b.toNat then b else a) s

/-- The shifts by a whole 32-bit amount (R381). -/
def shl32 (a b : W32) : W32 := if 32 ≤ b.toNat then 0 else a <<< b.toNat
def shr32 (a b : W32) : W32 := if 32 ≤ b.toNat then 0 else a >>> b.toNat
def sar32 (a b : W32) : W32 := BitVec.ofInt 32 (a.toInt >>> min b.toNat 32)
def rol32 (a b : W32) : W32 := a <<< (b.toNat % 32) ||| a >>> (32 - b.toNat % 32)
def ror32 (a b : W32) : W32 := a >>> (b.toNat % 32) ||| a <<< (32 - b.toNat % 32)

/-- SHL (R381). -/
def execShl (h : Hdr) (o : R4) (s : State) : Host.Outcome State Fault Refusal := bin32 h o shl32 s
/-- SHR (R381). -/
def execShr (h : Hdr) (o : R4) (s : State) : Host.Outcome State Fault Refusal := bin32 h o shr32 s
/-- SAR (R381). -/
def execSar (h : Hdr) (o : R4) (s : State) : Host.Outcome State Fault Refusal := bin32 h o sar32 s
/-- ROL (R381). -/
def execRol (h : Hdr) (o : R4) (s : State) : Host.Outcome State Fault Refusal := bin32 h o rol32 s
/-- ROR (R381). -/
def execRor (h : Hdr) (o : R4) (s : State) : Host.Outcome State Fault Refusal := bin32 h o ror32 s

/-- The funnel shifts (R382): A is the high word, B the low, C the amount. -/
def fshl (a b c : W32) : W32 := hi32 (pair64 b a <<< min c.toNat 32)
def fshr (a b c : W32) : W32 := lo32 (pair64 b a >>> min c.toNat 32)

/-- FSH.L (R382). -/
def execFshL (h : Hdr) (o : R4) (s : State) : Host.Outcome State Fault Refusal := tri32 h o fshl s
/-- FSH.R (R382). -/
def execFshR (h : Hdr) (o : R4) (s : State) : Host.Outcome State Fault Refusal := tri32 h o fshr s

/-- AND (R383). -/
def execAndB (h : Hdr) (o : R4) (s : State) : Host.Outcome State Fault Refusal := bin32 h o (fun a b => a &&& b) s
/-- OR (R383). -/
def execOrB (h : Hdr) (o : R4) (s : State) : Host.Outcome State Fault Refusal := bin32 h o (fun a b => a ||| b) s
/-- XOR (R383). -/
def execXorB (h : Hdr) (o : R4) (s : State) : Host.Outcome State Fault Refusal := bin32 h o (fun a b => a ^^^ b) s
/-- ANDN (R383). -/
def execAndnB (h : Hdr) (o : R4) (s : State) : Host.Outcome State Fault Refusal := bin32 h o (fun a b => a &&& ~~~b) s
/-- ORN (R383). -/
def execOrnB (h : Hdr) (o : R4) (s : State) : Host.Outcome State Fault Refusal := bin32 h o (fun a b => a ||| ~~~b) s
/-- XNOR (R383). -/
def execXnorB (h : Hdr) (o : R4) (s : State) : Host.Outcome State Fault Refusal := bin32 h o (fun a b => ~~~(a ^^^ b)) s
/-- NOT (R383). -/
def execNotB (h : Hdr) (o : R4) (s : State) : Host.Outcome State Fault Refusal := un32 h o (fun a => ~~~a) s

/-- The counting forms (R383). -/
def clz32 (a : W32) : W32 := BitVec.ofNat 32 (32 - bitLen a.toNat)
def popc32 (a : W32) : W32 := BitVec.ofNat 32 ((List.range 32).filter fun i => a.getLsbD i).length
def brev32 (a : W32) : W32 := maskOf fun i => a.getLsbD (31 - i)

/-- CLZ (R383). -/
def execClz (h : Hdr) (o : R4) (s : State) : Host.Outcome State Fault Refusal := un32 h o clz32 s
/-- POPC (R383). -/
def execPopc (h : Hdr) (o : R4) (s : State) : Host.Outcome State Fault Refusal := un32 h o popc32 s
/-- BREV (R383). -/
def execBrev (h : Hdr) (o : R4) (s : State) : Host.Outcome State Fault Refusal := un32 h o brev32 s

/-- The position and length of a bit-field operand (R384). -/
def fieldPos (f : W32) : Nat := min (field f.toNat 0 8) 32
def fieldLen (f : W32) : Nat := min (field f.toNat 8 8) 32

/-- BFE's result (R384). -/
def bfe32 (x : Ext) (a f : W32) : W32 :=
  if fieldLen f = 0 then 0
  else match x with
    | .zero => BitVec.ofNat 32 (a.toNat >>> fieldPos f % 2 ^ fieldLen f)
    | .sign => BitVec.ofInt 32 (toSigned (fieldLen f) (wrapInt 64 (a.toInt >>> fieldPos f)))

/-- BFI's result (R384). -/
def bfi32 (a b f : W32) : W32 :=
  let m : W32 := BitVec.ofNat 32 ((2 ^ fieldLen f - 1) * 2 ^ fieldPos f)
  (b &&& ~~~m) ||| (BitVec.ofNat 32 (a.toNat * 2 ^ fieldPos f) &&& m)

/-- BFE (R384). -/
def execBfe (h : Hdr) (x : Ext) (o : R4) (s : State) : Host.Outcome State Fault Refusal := bin32 h o (bfe32 x) s
/-- BFI (R384). -/
def execBfi (h : Hdr) (o : R4) (s : State) : Host.Outcome State Fault Refusal := tri32 h o bfi32 s

/-- The checks of a predicate form (R385). -/
def predForm (d a b c : Opnd × Role) : Form := { unit := 0, ops := [d, a, b, c] }

/-- ICMP's sources as integers, by its type (R385, R386). -/
def icmpVal (cx : Cx) (s : State) (ty : Nat) (o : Opnd) (l : Nat) : Int :=
  match ty with
  | 16 => (rdI cx s o l).toInt
  | 17 => (rdI cx s o l).toNat
  | 18 => (rdI64 cx s o l).toInt
  | _ => (rdI64 cx s o l).toNat

/-- ICMP (R385, R386). -/
def execIcmp (h : Hdr) (x : Cc) (o : RM) (s : State) : Host.Outcome State Fault Refusal :=
  let ty := o.c.toNat
  let w := if ty = 18 ∨ ty = 19 then 2 else 1
  let f : Form :=
    { unit := 0, modOk := decide (16 ≤ ty ∧ ty ≤ 19), ops := [(o.d, .pdst), (o.a, .src w false), (o.b, .src w false)] }
  issue f h
    (fun cx s => putPred cx o.d (fun l => intCond x (icmpVal cx s ty o.a l) (icmpVal cx s ty o.b l)) s) s

/-- Predicate forms of two sources (R386). -/
def pred2 (h : Hdr) (o : R4) (f : Mask → Mask → Mask) (s : State) : Host.Outcome State Fault Refusal :=
  issue (predForm (o.d, .pdst) (o.a, .psrc) (o.b, .psrc) (o.c, .unused)) h
    (fun cx s => fixWrites cx (wrPred cx o.d (f (rdPred cx o.a) (rdPred cx o.b))) s) s

/-- PAND (R386). -/
def execPand (h : Hdr) (o : R4) (s : State) : Host.Outcome State Fault Refusal := pred2 h o (fun a b => a &&& b) s
/-- POR (R386). -/
def execPor (h : Hdr) (o : R4) (s : State) : Host.Outcome State Fault Refusal := pred2 h o (fun a b => a ||| b) s
/-- PXOR (R386). -/
def execPxor (h : Hdr) (o : R4) (s : State) : Host.Outcome State Fault Refusal := pred2 h o (fun a b => a ^^^ b) s
/-- PANDN (R386). -/
def execPandn (h : Hdr) (o : R4) (s : State) : Host.Outcome State Fault Refusal := pred2 h o (fun a b => a &&& ~~~b) s

/-- PNOT (R386). -/
def execPnot (h : Hdr) (o : R4) (s : State) : Host.Outcome State Fault Refusal :=
  issue (predForm (o.d, .pdst) (o.a, .psrc) (o.b, .unused) (o.c, .unused)) h
    (fun cx s => fixWrites cx (wrPred cx o.d (~~~rdPred cx o.a)) s) s

/-- PTOV (R386). -/
def execPtov (h : Hdr) (o : R4) (s : State) : Host.Outcome State Fault Refusal :=
  issue (predForm (o.d, .dst 1 true false) (o.a, .psrc) (o.b, .unused) (o.c, .unused)) h
    (fun cx s => put32 cx o.d (fun l => if (rdPred cx o.a).getLsbD l then 1 else 0) s) s

/-- VTOP (R386). -/
def execVtop (h : Hdr) (o : R4) (s : State) : Host.Outcome State Fault Refusal :=
  issue (predForm (o.d, .pdst) (o.a, .src 1 false) (o.b, .unused) (o.c, .unused)) h
    (fun cx s => putPred cx o.d (fun l => rdI cx s o.a l != 0) s) s

/-- LEA's result (R387). -/
def lea64 (x : IdxX) (sh : Nat) (a : W64) (b : W32) : W64 :=
  let i : W64 := match x with
    | .sx => b.signExtend 64
    | .zx => b.zeroExtend 64
  a + (i <<< sh)

/-- LEA (R387). -/
def execLea (h : Hdr) (x : IdxX) (o : RM) (s : State) : Host.Outcome State Fault Refusal :=
  let f : Form :=
    { unit := 0, modOk := decide (o.c.toNat < 8)
      ops := [(o.d, .dst 2 true true), (o.a, .src 2 (isS o.d)), (o.b, .src 1 (isS o.d))] }
  issue f h
    (fun cx s => put64 cx o.d (fun l => lea64 x o.c.toNat (rdI64 cx s o.a l) (rdI cx s o.b l)) s) s

end Sys2Proof.Machine
end

