-- ==== Sys2Proof/Machine/Crypto.lean ====
section
/-! DEFINITION. The functions of firmware authentication (R45, R46, R51): SHA-512 and the check of an RSASSA-PSS signature
with SHA-512, MGF1 with SHA-512 and a 64-byte salt, under an RSA-4096 modulus with the public exponent 65,537. The manual
names these functions and does not spell them out: they are the published ones (PRESUMED, log 36). -/

namespace Sys2Proof.Machine

/-! ### SHA-512 -/

def shaK0 : List W64 := [
  0x428A2F98D728AE22, 0x7137449123EF65CD, 0xB5C0FBCFEC4D3B2F, 0xE9B5DBA58189DBBC, 0x3956C25BF348B538,
  0x59F111F1B605D019, 0x923F82A4AF194F9B, 0xAB1C5ED5DA6D8118, 0xD807AA98A3030242, 0x12835B0145706FBE,
  0x243185BE4EE4B28C, 0x550C7DC3D5FFB4E2, 0x72BE5D74F27B896F, 0x80DEB1FE3B1696B1, 0x9BDC06A725C71235,
  0xC19BF174CF692694, 0xE49B69C19EF14AD2, 0xEFBE4786384F25E3, 0x0FC19DC68B8CD5B5, 0x240CA1CC77AC9C65]
def shaK1 : List W64 := [
  0x2DE92C6F592B0275, 0x4A7484AA6EA6E483, 0x5CB0A9DCBD41FBD4, 0x76F988DA831153B5, 0x983E5152EE66DFAB,
  0xA831C66D2DB43210, 0xB00327C898FB213F, 0xBF597FC7BEEF0EE4, 0xC6E00BF33DA88FC2, 0xD5A79147930AA725,
  0x06CA6351E003826F, 0x142929670A0E6E70, 0x27B70A8546D22FFC, 0x2E1B21385C26C926, 0x4D2C6DFC5AC42AED,
  0x53380D139D95B3DF, 0x650A73548BAF63DE, 0x766A0ABB3C77B2A8, 0x81C2C92E47EDAEE6, 0x92722C851482353B]
def shaK2 : List W64 := [
  0xA2BFE8A14CF10364, 0xA81A664BBC423001, 0xC24B8B70D0F89791, 0xC76C51A30654BE30, 0xD192E819D6EF5218,
  0xD69906245565A910, 0xF40E35855771202A, 0x106AA07032BBD1B8, 0x19A4C116B8D2D0C8, 0x1E376C085141AB53,
  0x2748774CDF8EEB99, 0x34B0BCB5E19B48A8, 0x391C0CB3C5C95A63, 0x4ED8AA4AE3418ACB, 0x5B9CCA4F7763E373,
  0x682E6FF3D6B2B8A3, 0x748F82EE5DEFB2FC, 0x78A5636F43172F60, 0x84C87814A1F0AB72, 0x8CC702081A6439EC]
def shaK3 : List W64 := [
  0x90BEFFFA23631E28, 0xA4506CEBDE82BDE9, 0xBEF9A3F7B2C67915, 0xC67178F2E372532B, 0xCA273ECEEA26619C,
  0xD186B8C721C0C207, 0xEADA7DD6CDE0EB1E, 0xF57D4F7FEE6ED178, 0x06F067AA72176FBA, 0x0A637DC5A2C898A6,
  0x113F9804BEF90DAE, 0x1B710B35131C471B, 0x28DB77F523047D84, 0x32CAAB7B40C72493, 0x3C9EBE0A15C9BEBC,
  0x431D67C49C100D4C, 0x4CC5D4BECB3E42B6, 0x597F299CFC657E2A, 0x5FCB6FAB3AD6FAEC, 0x6C44198C4A475817]

/-- The 80 round constants. -/
def shaK : List W64 := shaK0 ++ shaK1 ++ shaK2 ++ shaK3

/-- The working variables a to h, at first the initial hash value. -/
def shaInit : List W64 := [
  0x6A09E667F3BCC908, 0xBB67AE8584CAA73B, 0x3C6EF372FE94F82B, 0xA54FF53A5F1D36F1, 0x510E527FADE682D1,
  0x9B05688C2B3E6C1F, 0x1F83D9ABFB41BD6B, 0x5BE0CD19137E2179]

/-- A byte string of the most significant byte first, and the number such a string is. -/
def beBytes (n x : Nat) : List Byte := (leBytes n x).reverse
def ofBeBytes (b : List Byte) : Nat := ofLeBytes b.reverse

/-- The message with its padding: a one bit, zeros, the length in bits. -/
def shaPad (b : List Byte) : List Byte :=
  b ++ [0x80] ++ List.replicate ((239 - b.length % 128) % 128) 0 ++ beBytes 16 (8 * b.length)

/-- The next word of a message schedule, which is held latest word first. -/
def shaNext (w : List W64) : W64 :=
  let x := w.getD 1 0
  let y := w.getD 14 0
  (x.rotateRight 19 ^^^ x.rotateRight 61 ^^^ (x >>> 6)) + w.getD 6 0
    + (y.rotateRight 1 ^^^ y.rotateRight 8 ^^^ (y >>> 7)) + w.getD 15 0

def shaSchedule : Nat → List W64 → List W64
  | 0, w => w
  | n + 1, w => shaSchedule n (shaNext w :: w)

/-- One round on the working variables. -/
def shaRound (v : List W64) (kw : W64 × W64) : List W64 :=
  match v with
  | [a, b, c, d, e, f, g, h] =>
    let t1 := h + (e.rotateRight 14 ^^^ e.rotateRight 18 ^^^ e.rotateRight 41) + ((e &&& f) ^^^ (~~~e &&& g)) + kw.1 + kw.2
    let t2 := (a.rotateRight 28 ^^^ a.rotateRight 34 ^^^ a.rotateRight 39) + ((a &&& b) ^^^ (a &&& c) ^^^ (b &&& c))
    [t1 + t2, a, b, c, d + t1, e, f, g]
  | _ => v

/-- The hash value after a block of 128 bytes. -/
def shaBlock (v : List W64) (block : List Byte) : List W64 :=
  let words := (List.range 16).map fun i => BitVec.ofNat 64 (ofBeBytes ((block.drop (8 * i)).take 8))
  let sched := (shaSchedule 64 words.reverse).reverse
  (v.zip ((shaK.zip sched).foldl shaRound v)).map fun e => e.1 + e.2

def shaBlocks : Nat → List Byte → List W64 → List W64
  | 0, _, v => v
  | n + 1, b, v => shaBlocks n (b.drop 128) (shaBlock v (b.take 128))

/-- The SHA-512 of a byte string, 64 bytes. -/
def sha512 (b : List Byte) : List Byte :=
  let p := shaPad b
  (shaBlocks (p.length / 128) p shaInit).flatMap fun x => beBytes 8 x.toNat

/-! ### RSASSA-PSS -/

/-- The mask that MGF1 makes of a seed: the SHA-512 of the seed with counters 0, 1 and so on. -/
def mgf1 (seed : List Byte) (n : Nat) : List Byte :=
  ((List.range ((n + 63) / 64)).flatMap fun i => sha512 (seed ++ beBytes 4 i)).take n

/-- x to the power 2^k modulo n. -/
def squares (n : Nat) : Nat → Nat → Nat
  | 0, x => x
  | k + 1, x => squares n k (x * x % n)

/-- Whether an encoded message of 512 bytes, for a modulus of 4,096 bits, is an encoding of a digest. -/
def pssEncodes (em digest : List Byte) : Bool :=
  let masked := em.take 447
  let hash := (em.drop 447).take 64
  let db := (masked.zip (mgf1 hash 447)).map fun e => e.1 ^^^ e.2
  let salt := db.drop 383
  em.getD 511 0 == 0xBC && (em.getD 0 0).toNat < 128
    && (((db.getD 0 0).toNat % 128 == 0) && ((db.take 382).drop 1).all (fun x => x == 0)) && db.getD 382 0 == 1
    && sha512 (List.replicate 8 0 ++ digest ++ salt) == hash

/-- Whether a signature verifies over a digest under a modulus; both are fields, their least significant byte first (R45,
R51). -/
def pssVerifies (modulus digest sig : List Byte) : Bool :=
  let n := ofLeBytes modulus
  let x := ofLeBytes sig
  decide (x < n) && pssEncodes (beBytes 512 (squares n 16 x * x % n)) digest

end Sys2Proof.Machine
end

