-- ==== Sys2Proof/Machine/Ranges.lean ====
section
/-! DEFINITION. Range hold, release and invalidation (R173, R174), resolution of faults (R178, R220, R231, R295), page
migration (R184). -/

namespace Sys2Proof.Machine

/-! ### Holds (R174) -/

/-- A range is held: its lines are written back and invalidated, its translations dropped. -/
def holdRange (h : Hold) (s : State) : State :=
  dropTranslations (flushRange { s with holds := s.holds ++ [h] } h.asid h.va h.len) h.asid h.va h.len

/-- The place, while a release runs, of accesses that were held behind the released range. -/
def freedHold : Nat := 2 ^ 18

/-- What waits for nothing but a hold or a freeze that is over goes on. -/
def goOn (s : State) : State :=
  (List.range 384).foldl (fun s core => replaySweep core (fun p => p.kind == 0) s) (resumeDrains s)

/-- Waits at the controller watch their word where its page now lies (R195, R200, R436); a word whose page translates to
nothing is watched where it was. -/
def aimWaits (asid va len : Nat) (s : State) : State :=
  let aim (w : WaitRec) : WaitRec :=
    if w.cluster.isNone && w.sat.isNone && w.asid == asid && decide (va ≤ w.va) && decide (w.va < va + len) then
      match (lookupLeaf s asid w.va).1 with
      | .ok l => { w with pa := leafPa l w.va }
      | .error _ => w
    else w
  if s.waits.isEmpty then s else { s with waits := s.waits.map aim }

/-- Whether an access waits for a hold of a range alone: it stands held behind it, or it is a multicast line that the hold
kept at its unit, or follows one (R166). -/
def heldHere (h : Hold) (s : State) (p : Parked) : Bool :=
  p.place == .held freedHold
    || (p.kind == 0 && ((agOf s p.group).map fun a => a.asid) == some h.asid
      && (match p.place with | .log => true | .overflow _ => true | _ => false)
      && p.lanes.any fun y => touchesRange p.acc y h.va h.len)

/-- The k-th hold is released: the accesses held behind it walk, in their order, and waits look where its pages now lie. -/
def releaseRange (k : Nat) (s : State) : State :=
  let move (p : Parked) : Parked :=
    { p with place := match p.place with
        | .held h => if h = k then .held freedHold else if k < h ∧ h < 2 ^ 18 then .held (h - 1) else .held h
        | x => x }
  let s0 : State := { s with holds := s.holds.eraseIdx k, parked := s.parked.map move }
  match s.holds[k]? with
  | some h => goOn (replayWhere (heldHere h) (aimWaits h.asid h.va h.len s0))
  | none => s

/-- Range invalidation (R173). -/
def invalidateRange (asid va len : Nat) (s : State) : State :=
  aimWaits asid va len (flushRange (dropTranslations s asid va len) asid va len)

/-! ### Resolution of faults (R178) -/

/-- Whether an address lies in a range. -/
def within (va len a : Nat) : Bool := decide (va ≤ a) && decide (a < va + len)

/-- The regions of a range are resolved: a fault there is reported again (R175). -/
def clearRegions (asid va len : Nat) (s : State) : State :=
  { s with reported := s.reported.filter fun e =>
      !(e.1 / 2 ^ 41 == asid && within va len (e.1 % 2 ^ 41 * 2 ^ 16)) }

def asidOfGroup (s : State) (gk : Nat) : Option Nat := (agOf s gk).map fun a => a.asid

/-- Whether a logged or overflowed access has a lane in a range. -/
def parkedIn (va len : Nat) (p : Parked) : Bool :=
  (match p.place with | .log => true | .overflow _ => true | _ => false) && p.lanes.any fun y => touchesRange p.acc y va len

/-- The lanes of a group that a faulting clause fetch in a range has parked. -/
def fetchIn (va len : Nat) (g : Group) : Mask :=
  maskOf fun l => (laneOf g l).st == .faultParked && (laneOf g l).fpark == 2 ^ 15
    && within va len (laneOf g l).fva

/-- Lanes return to state 0, to fetch again, or with the mark of a fetch that has failed (R231). -/
def wakeFetch (fail : Bool) (m : Mask) (g : Group) : Group :=
  let g1 := wakeLanes g m
  if fail then onLanes g1 m fun x => { x with fpark := 2 ^ 15 + 2 ^ 16 } else g1

/-- A group's parked fetches in a range are resolved. -/
def resolveFetch (fail : Bool) (va len : Nat) (g : Group) : Group :=
  let m := fetchIn va len g
  if m = 0 then g else wakeFetch fail m g

/-- Patch entries in a range are resolved: their kind becomes 0. -/
def clearPatch (va len : Nat) (x : DmaEnt) : DmaEnt :=
  { x with patch := x.patch.map fun p => if within va len p.va then { p with kind := 0 } else p }

def resolveDma (asid va len : Nat) (m : List (Nat × List DmaEnt)) : List (Nat × List DmaEnt) :=
  m.map fun e => (e.1, e.2.map fun x => if x.cmd.asid = asid then clearPatch va len x else x)

/-- The cores whose sweep engine serves a workgroup of an ASID. -/
def sweepCores (s : State) (asid : Nat) : List Nat :=
  (s.sw.filter fun e => (swEng s e.1).asid == asid && e.2.wg.isSome).map fun e => e.1

/-- A core that no device has: a saved engine's entries are replayed there. -/
def nowhere : Nat := 384

/-- Whether an entry made at a stop replays while the workgroup is saved (R295). -/
def atStop : SwWork → Bool
  | .core _ => true
  | .stat _ _ => true
  | _ => false

/-- A saved sweep engine: its stop's entries in the range replay now, the others are marked for its restore. -/
def resolveSavedSweep (va len : Nat) (addr : Nat) (s : State) : State :=
  match sfind s.images addr with
  | none => s
  | some img =>
    match img.sw with
    | none => s
    | some x =>
      let clear (p : SwPatch) : SwPatch := if within va len p.va then { p with kind := 0 } else p
      let x1 := { x with wg := some 0, patch := x.patch.map clear }
      let wk := wkey nowhere 0
      let s1 := { s with wgs := sset s.wgs wk { img.wg with stopping := true }, sw := sset s.sw nowhere x1 }
      let s2 := replaySweep nowhere (fun p => p.kind == 0 && atStop p.work) s1
      let x2 := { sget SwSt.reset s2.sw nowhere with wg := x.wg }
      { s2 with
        wgs := sdel s2.wgs wk, sw := sdel s2.sw nowhere
        images := smod s2.images addr fun i => { i with sw := some x2 } }

/-- The entries of a save record in a range are marked: they replay after its restore. -/
def resolveImage (va len : Nat) (img : SaveImg) : SaveImg :=
  let mark (p : Parked) : Parked := if parkedIn va len p then { p with kind := 0 } else p
  { img with
    parked := img.parked.map mark
    dma := img.dma.map fun e => (e.1, clearPatch va len e.2)
    groups := img.groups.map fun e => (e.1, resolveFetch false va len e.2) }

/-- Whether an image belongs to an ASID. -/
def imagesOf (s : State) (asid : Nat) : List Nat := (s.images.filter fun e => e.2.wg.asid == asid).map fun e => e.1

/-- The groups of an ASID. -/
def groupsOf (s : State) (asid : Nat) : List Nat :=
  (s.groups.filter fun e => asidOfGroup s e.1 == some asid).map fun e => e.1

/-- A stalled SWWAKE's read in the range is tried again (R466). -/
def dropReads (va len : Nat) (s : State) (core : Nat) : State :=
  modSw s core fun x => { x with readFaults := x.readFaults.filter fun e => !within va len e.2 }

/-- ACTION 0 (R178): everything of the ASID in the range is replayed. -/
def resolveRetry (asid va len : Nat) (s : State) : State :=
  let s1 := clearRegions asid va len s
  let s2 := (groupsOf s1 asid).foldl (fun s gk => modGroup s gk (resolveFetch false va len)) s1
  let s3 := { s2 with
    cp := resolveDma asid va len s2.cp, lk := resolveDma asid va len s2.lk
    images := s2.images.map fun e => if e.2.wg.asid = asid then (e.1, resolveImage va len e.2) else e }
  let s4 := (imagesOf s3 asid).foldl (fun s a => resolveSavedSweep va len a s) s3
  let s5 := (sweepCores s4 asid).foldl (fun s core =>
    replaySweep core (fun p => within va len p.va) (dropReads va len s core)) s4
  let s6 := replayWhere (fun s p => asidOfGroup s p.group == some asid && parkedIn va len p) s5
  resumeDrains s6

/-- The operations of a flag count as complete (R220): they no longer name it, and what of them is not served yet goes on
without it (DEDUCED, log 17). -/
def unflag (f : Nat) (g : Group) : Group :=
  { g with ops := g.ops.map fun o => if o.flag = f ∧ f < 12 then { o with flag := 15 } else o }

/-- The flag of an operation is marked failed, with the first failed address (R220). -/
def failFlag (id va : Nat) (g : Group) : Group :=
  match g.ops.find? fun o => o.id == id && decide (o.flag < 12) with
  | some o => unflag o.flag { g with failed := g.failed ++ [(o.flag, va)] }
  | none => g

/-- The operations of a group that no longer name a flag and are served complete. -/
def completeUnflagged (gk : Nat) (s : State) : State :=
  match sfind s.groups gk with
  | none => s
  | some g => (g.ops.filter fun o => o.flag == 15 && o.ready).foldl (fun s o => completeOp gk o.id s) s

/-- An access fails (R220): its entry is free, the operations of its flag count as complete, and the flag is marked with
the first failed address. -/
def failParked (p : Parked) (s : State) : State :=
  let s1 := { s with parked := s.parked.filter fun x => x != p }
  let s2 := serveOp p.group p.op [] (modGroup s1 p.group (failFlag p.op p.first))
  completeUnflagged p.group s2

/-- A failed access of a saved group. -/
def failSaved (img : SaveImg) (p : Parked) : SaveImg :=
  let left := img.parked.filter fun x => x != p
  let more := left.any fun x => x.group == p.group && x.op == p.op
  let fin (o : POp) : POp := if o.id = p.op ∧ !more then { o with lanes := 0, ready := true } else o
  let mark (g : Group) : Group := failFlag p.op p.first { g with ops := g.ops.map fin }
  { img with
    parked := left
    groups := img.groups.map fun e => if e.1 = p.group then (e.1, mark e.2) else e }

def failImage (va len : Nat) (img : SaveImg) : SaveImg :=
  let i := (img.parked.filter (parkedIn va len)).foldl failSaved img
  { i with groups := i.groups.map fun e => (e.1, resolveFetch true va len e.2) }

/-- The first address of an engine's patch list in a range, with the core it is charged to (R153 cause 8). -/
def failedSegment (s : State) (asid va len : Nat) : Option (Nat × Nat) :=
  let dma (x : DmaEnt) : Option Nat :=
    if x.cmd.asid = asid then (x.patch.find? fun p => p.kind != 0 && within va len p.va).map fun p => p.va else none
  let one (e : Nat) (m : List (Nat × List DmaEnt)) : Option (Nat × Nat) :=
    m.findSome? fun q => q.2.findSome? fun x => (dma x).map fun a => ((engOf e x).core, a)
  let sw (x : SwSt) : Option Nat :=
    ((x.patch.find? fun p => p.kind != 0 && within va len p.va).map fun p => p.va).or
      ((x.readFaults.find? fun e => within va len e.2).map fun e => e.2)
  let img (i : SaveImg) : Option (Nat × Nat) :=
    if i.wg.asid ≠ asid then none
    else ((i.dma.findSome? fun e =>
        (e.2.patch.find? fun p => p.kind != 0 && within va len p.va).map fun p => p.va).or (i.sw.bind sw)).map fun a => (0, a)
  (one 1 s.cp).or ((one 3 s.lk).or (((sweepCores s asid).findSome? fun c => (sw (swOf s c)).map fun a => (c, a)).or
    (s.images.findSome? fun e => img e.2)))

/-- The entry of a retired group that stops the drain of a store buffer fails where it lies in the range: it is never
performed (DESIGN CHOICE, log 63: no group is left to take an exception). -/
def failBuffer (s : State) (va len : Nat) (w : Wg) : Wg :=
  match w.sbuf.find? fun e => !e.logged with
  | some e =>
    if w.committed && (sfind s.groups e.gk).isNone && (sbLanes e).any fun y => touchesRange (sbAcc e.act) y va len then
      { w with sbuf := w.sbuf.erase e }
    else w
  | none => w

/-- ACTION 1 (R178): the entries in the range fail; a failed engine segment costs the context. -/
def resolveFail (asid va len : Nat) (s : State) : State :=
  let s1 := clearRegions asid va len s
  match failedSegment s1 asid va len with
  | some (core, a) => killContext asid 8 core a 0 s1
  | none =>
    let s2 := (groupsOf s1 asid).foldl (fun s gk => modGroup s gk (resolveFetch true va len)) s1
    let one (e : Nat × SaveImg) : Nat × SaveImg := if e.2.wg.asid = asid then (e.1, failImage va len e.2) else e
    let s3 : State := { s2 with
      images := s2.images.map one
      wgs := s2.wgs.map fun e => if e.2.asid = asid then (e.1, failBuffer s2 va len e.2) else e }
    let todo := s3.parked.filter fun p => asidOfGroup s3 p.group == some asid && parkedIn va len p
    resumeDrains (todo.foldl (fun s p => if s.parked.contains p then failParked p s else s) s3)

/-! ### Migration (R184) -/

/-- The physical address of the leaf entry of a virtual address. -/
def leafEntry (s : State) (va : Nat) : Nat → Nat → Option Nat
  | 0, table =>
    let at' := table + 8 * field va 16 5
    if rangePoisoned s.poison at' 8 then none else some at'
  | n + 1, table =>
    let at' := table + 8 * field va (levelShift (n + 1)) 9
    let e := memNat s at' 8
    if e % 2 = 0 || rangePoisoned s.poison at' 8 then none else if e.testBit 1 then some at' else leafEntry s va n (field e 8 44 * 256)

/-- What stops a migration before it begins (R184). -/
def migrateBad (s : State) (asid va newPa ck : Nat) (l : Leaf) : Bool :=
  let t := targetOf newPa
  decide (l.bits = 30) || va % 2 ^ l.bits != 0 || newPa % 2 ^ l.bits != 0
    || t == .reserved || t == .aboveHbm || t == .firmware || targetOf (newPa + 2 ^ l.bits - 1) != t
    || (s.holds.any fun h => h.asid == asid && rangesMeet h.va h.len va (2 ^ l.bits))
    || decide (4 ≤ ck) || (ck != 0 && t != .hbm)

/-- Freeze: writes to the page are refused from now on, and its dirty lines are written back. -/
def freeze (m : Migration) (s : State) : State :=
  (List.range 24).foldl (fun s cl => writeBackWhere s cl fun k _ => keyInRange m.asid m.va (2 ^ m.bits) k)
    { s with migration := some m }

/-- One 256-byte block moves: unchanged under the same kind, else decoded and encoded; poison moves with its sectors. -/
def moveBlock (fromPa toPa ck newCk : Nat) (s : State) (k : Nat) : State :=
  let a := fromPa + 256 * k
  let b := toPa + 256 * k
  if ck = newCk then
    let s1 := { memPut s b (memBytes s a 256) with poison := setPoison s.poison b 8 (poisonMask s.poison a 8) }
    if ck = 0 then s1 else setSidecar s1 b (sidecarCode s a)
  else
    let d := readBlock s ck a
    writeBlock s newCk b d.1 d.2

/-- The 4 KiB blocks of the two pages of a migration. -/
def pageBlocks (m : Migration) (l : Leaf) : List Nat :=
  (List.range (2 ^ m.bits / 4096)).flatMap fun k => [l.base + 4096 * k, m.newPa + 4096 * k]

/-- The page is copied; blocks of a peer's pass its ports (R185). -/
def copyPage (m : Migration) (l : Leaf) (s : State) : State :=
  let ask (s : State) (pa : Nat) : State := (postWrite m.asid 0 m.va pa s).2
  (List.range (2 ^ m.bits / 256)).foldl (moveBlock l.base m.newPa l.ck m.ck) ((pageBlocks m l).foldl ask s)

/-- A leaf entry is rewritten: what was cached under the old one goes, and waits look at the new page. -/
def putLeaf (m : Migration) (at' e : Nat) (s : State) : State :=
  let s1 := flushRange s m.asid m.va (2 ^ m.bits)
  aimWaits m.asid m.va (2 ^ m.bits) (dropTranslations (memPut s1 at' (leBytes 8 e)) m.asid m.va (2 ^ m.bits))

/-- Cut-over: the leaf names the new page. -/
def cutOver (m : Migration) (root : Nat) (s : State) : Option State :=
  (leafEntry s m.va 4 root).map fun at' =>
    let e := memNat s at' 8
    putLeaf m at' (e - field e 5 47 * 32 + m.ck * 32 + m.newPa / 256 * 256)
      { s with migration := s.migration.map fun x => { x with old := some (at', e) } }

/-- A migration abandoned after its cut-over leaves the leaf as it was (R184). -/
def undoCut (m : Migration) (s : State) : State :=
  match m.old with
  | some (at', e) => putLeaf m at' e s
  | none => s

/-- Whether a refused access lies in a page. -/
def refusedIn (s : State) (m : Migration) (p : Parked) : Bool :=
  p.place == .nak && asidOfGroup s p.group == some m.asid && p.lanes.any fun y => touchesRange p.acc y m.va (2 ^ m.bits)

/-- The refused writes of a page: of lanes one by one, of the host, of engines and agents line by line (R180). -/
def refusedCount (s : State) (m : Migration) : Nat :=
  (s.parked.filter fun p => refusedIn s m p && accWrites p.acc).foldl (fun n p =>
    n + (p.lanes.filter fun y => touchesRange p.acc y m.va (2 ^ m.bits)).length) 
      ((s.retries.filter fun e => e.2.1 == m.asid && rangesMeet e.2.2.1 e.2.2.2.length m.va (2 ^ m.bits)).length
        + m.refused.length)

/-- The migration event (R180): 0 done, 2 failed. -/
def migrateEvent (m : Migration) (result retried : Nat) (s : State) : State :=
  postEvent 0x29 m.asid (leBytes 8 m.va ++ leBytes 8 m.newPa ++ leBytes 4 result ++ leBytes 4 retried) s

/-- Thaw: the refused writes are retried in order, logged faults on the page replay, and the event posts. -/
def thaw (m : Migration) (s : State) : State :=
  let n := refusedCount s m
  let s1 := replayWhere (fun s p => refusedIn s m p) { s with migration := none }
  let s2 := goOn (flushHost s1)
  let s3 := resolveRetry m.asid m.va (2 ^ m.bits) s2
  migrateEvent m 0 n (modCtx s3 m.asid fun c => { c with migrated := c.migrated + 1 })

end Sys2Proof.Machine
end

