-- ==== Sys2Proof/Machine/Mailbox.lean ====
section
/-! DEFINITION. The driver mailbox (R54 to R57) and its requests: contexts, queues, signals, the event ring, quotes (R58 to
R64), ranges, migration, faults and counters (R172 to R174, R178, R184). A request that DRVCMD submitted is decided by the
event of its operation; MAILBOX_REQUEST_COMPLETE then reports it. -/

namespace Sys2Proof.Machine

/-! ### Requests -/

/-- Word i of the request in progress. -/
def reqWord (s : State) (i : Nat) : Nat := (s.mailbox.copy.getD i 0).toNat

/-- A request is decided: its STATUS and RESULT. -/
def answer (status result : Nat) (s : State) : State :=
  { s with mailbox := { s.mailbox with outcome := some (status, result) } }

/-- Whether a request with this operation is in progress and undecided. -/
def asked (s : State) (op : Nat) : Bool := s.mailbox.go && s.mailbox.op == op && s.mailbox.outcome.isNone

/-- The first code whose condition holds. -/
def firstCode : List (Bool × Nat) → Option Nat
  | [] => none
  | (c, n) :: cs => if c then some n else firstCode cs

/-- The words of a request have bits outside those its table lists. -/
def reservedSet (s : State) (masks : List Nat) : Bool :=
  (List.range 8).any fun i => reqWord s i ||| masks.getD i 0 != masks.getD i 0

/-- STATUS 9: the phase, or a function-reset wash (R56). -/
def notReady (s : State) (op : Nat) : Bool :=
  s.boot.wash || !(s.boot.phase == 6 || (s.boot.phase == 5 && (op == 7 || op == 9)))

def badAsid (a : Nat) : Bool := a == 0 || a == 0xFFFF

/-- A context that a request may name: one that was created, and not killed (R139). -/
def liveCtx (s : State) (asid : Nat) : Bool := match ctxOf s asid with | some c => !c.killed | none => false

/-- A request in progress is checked, and carried out where no code applies. -/
def serve (op : Nat) (codes : List (Bool × Nat)) (act : State → State) (s : State) : State :=
  if !asked s op then s
  else match firstCode ((notReady s op, 9) :: codes) with
    | some c => answer c 0 s
    | none => act s

def m57 : Nat := 2 ^ 57 - 1
def m64 : Nat := 2 ^ 64 - 1

/-- The leaf that tables under a root give an address, or none. -/
def leafUnder (s : State) (asid root va : Nat) : Option Leaf :=
  match (walk s asid va 4 root []).1 with
  | .ok l => some l
  | .error _ => none

/-- What the walks of a request's checks cost its context: one that meets a poisoned entry kills it (R130). -/
def noteWalks (asid : Nat) (vas : List Nat) (s : State) : State :=
  let note (root : Nat) (s : State) (va : Nat) : State :=
    match (walk s asid va 4 root []).1 with
    | .error f => if f.kind = 0 then addTrouble (.badWalk asid va f.entry) s else s
    | .ok _ => s
  match ctxOf s asid with
  | some c => vas.foldl (note c.root) s
  | none => s

/-- The walks that a request's checks make, where the checks before them pass. -/
def noteAsked (op : Nat) (before : List (Bool × Nat)) (asid : Nat) (vas : List Nat) (s : State) : State :=
  if asked s op && (firstCode ((notReady s op, 9) :: before)).isNone then noteWalks asid vas s else s

def leafTarget (va : Nat) (l : Leaf) : Target := targetOf (leafPa l va)

/-- Whether every page of a range maps to targets that a test picks. -/
def allMapped (s : State) (asid root va len : Nat) (ok : Target → Bool) : Bool :=
  (List.range ((va % 65536 + len + 65535) / 65536)).all fun k =>
    let a := va / 65536 * 65536 + 65536 * k
    match leafUnder s asid root a with
    | some l => ok (leafTarget a l)
    | none => false

/-! ### Contexts (R58, R59) -/

/-- A field of a create-context request is malformed (STATUS 5). -/
def ctxBad (s : State) : Bool :=
  let w := reqWord s
  let drain := field (w 0) 32 32
  let asid := w 0 % 65536
  let root := w 1
  let sclog := w 3 % 32
  reservedSet s [m64 - (2 ^ 32 - 2 ^ 19), 2 ^ 52 - 2 ^ 12, m57, (2 ^ 32 - 1) * 2 ^ 32 + 31, m57, m57, 2 ^ 32 - 1, 2047]
    || drain == 0 || decide (100000 < drain) || decide (sclog < 6) || decide (16 < sclog)
    || w 2 % (64 * 2 ^ sclog) != 0 || w 4 % 128 != 0 || w 5 % 65536 != 0 || decide (w 6 < 2 * drain) || w 7 == 0
    || targetOf root != .hbm || !allMapped s asid root (w 2) (64 * 2 ^ sclog) (fun _ => true)
    || !allMapped s asid root (w 4) 128 (fun t => t == .hbm) || !allMapped s asid root (w 5) 589824 (fun t => t == .hbm)

/-- The context a request describes. -/
def newCtx (w : Nat → Nat) : Ctx :=
  { drain := field (w 0) 32 32, rstok := (w 0).testBit 18, prioMax := field (w 0) 16 2, root := w 1, scring := w 2
    sclog := w 3 % 32, wdog := field (w 3) 32 32, scctl := w 4, resarr := w 5, slice := w 6, scvec := w 7, killed := false
    bindings := [], pulls := [], signals := [], prod := 0, hintDrops := 0, faults := 0, sidecars := 0, migrated := 0
    debt := 0 }

/-- CREATE_CONTEXT (R58) (DEDUCED, log 34). -/
def execCreateContext (s : State) : Host.Outcome State Fault Refusal :=
  let a := reqWord s 0 % 65536
  .next (serve 0x01 [(!s.boot.owned, 9), (badAsid a, 3), ((reqWord s 0).testBit 18 && !featureOn s 9, 8), (ctxBad s, 5),
      ((ctxOf s a).isSome && !liveCtx s a, 6), ((ctxOf s a).isSome, 2), (decide (1024 ≤ s.ctxs.length), 4)]
    (fun s => answer 0 (s.ctxs.length + 1) { s with ctxs := sset s.ctxs a (newCtx (reqWord s)) }) s)

/-- A context's last trace goes (R59): work, calls, records, queues, signals, lines and translations. -/
def endContext (asid : Nat) (s : State) : State :=
  let recs := (s.board.filter fun e => e.2.asid == asid).map fun e => e.1
  let s1 := purgeCaches asid (discardSaves asid (discardWork asid s))
  let m := match s1.migration with | some x => if x.asid = asid then none else some x | none => none
  { s1 with
    ctxs := sdel s1.ctxs asid
    queues := s1.queues.filter fun e => e.2.asid != asid
    board := s1.board.filter fun e => e.2.asid != asid
    mem := recs.foldl freeImage s1.mem
    fails := s1.fails.filter fun e => !recs.contains e.record
    claims := s1.claims.filter fun e => !recs.contains e.2.record
    holds := s1.holds.filter fun h => h.asid != asid
    parked := s1.parked.filter fun p => asidOfGroup s1 p.group != some asid
    reported := s1.reported.filter fun e => e.1 / 2 ^ 41 != asid
    residency := s1.residency.filter fun e => e.1 % 65536 != asid
    retries := s1.retries.filter fun e => e.2.1 != asid
    migration := m }

/-- DESTROY_CONTEXT (R59). -/
def execDestroyContext (s : State) : Host.Outcome State Fault Refusal :=
  let a := reqWord s 0 % 65536
  .next (serve 0x02 [(badAsid a, 3), (reservedSet s [65535], 5), ((ctxOf s a).isNone, 6)]
    (fun s => answer 0 0 (endContext a s)) s)

/-! ### Queues (R60, R61) -/

/-- A queue as it is created. -/
def newQueue (s : State) (qn : Nat) : Queue :=
  let w := reqWord s
  { asid := field (w 0) 32 16, qlog := field (w 0) 48 5, ring := w 1, qctl := w 2, qvec := w 3
    cluster := assignCluster s qn, ridx := 0, qstate := 0, qerr := 0, waitSince := 0, markTag := 0, slotted := false
    order := none, emptySince := s.refclk, widx := 0, head := none, out := [], unwritten := false
    moved := false }

/-- A field of a create-queue request is malformed (STATUS 5). -/
def queueForm (s : State) : Bool :=
  let w := reqWord s
  let qlog := field (w 0) 48 5
  reservedSet s [31 * 2 ^ 48 + 65535 * 2 ^ 32 + 4095, m57, m57, 2047] || decide (qlog < 6) || decide (16 < qlog)
    || w 1 % (64 * 2 ^ qlog) != 0 || w 1 % 4096 != 0 || w 2 % 128 != 0 || w 3 == 0

/-- The pages of the ring that a create-queue request names, and its control block. -/
def queuePages (s : State) : List Nat :=
  let size := 64 * 2 ^ field (reqWord s 0) 48 5
  reqWord s 2 :: (List.range ((size + 65535) / 65536)).map fun k => reqWord s 1 + 65536 * k

/-- A field of a create-queue request is malformed, or maps where it may not (STATUS 5). -/
def queueBad (s : State) : Bool :=
  let w := reqWord s
  let size := 64 * 2 ^ field (w 0) 48 5
  let maps : Bool := match ctxOf s (field (w 0) 32 16) with
    | none => true
    | some c =>
      let page (k : Nat) : Bool :=
        match leafUnder s (field (w 0) 32 16) c.root (w 1 + 65536 * k) with
        | some l => leafTarget (w 1 + 65536 * k) l == .hbm || leafTarget (w 1 + 65536 * k) l == .host
        | none => true
      let ctl : Bool := match leafUnder s (field (w 0) 32 16) c.root (w 2) with
        | some l => leafTarget (w 2) l == .hbm && l.w
        | none => false
      ctl && (List.range ((size + 65535) / 65536)).all page
  queueForm s || !maps

/-- CREATE_QUEUE (R60). -/
def execCreateQueue (s : State) : Host.Outcome State Fault Refusal :=
  let a := field (reqWord s 0) 32 16
  let qn := reqWord s 0 % 4096
  .next (serve 0x03 [(badAsid a, 3), (queueBad s, 5), (!liveCtx s a, 6), ((sfind s.queues qn).isSome, 7)]
    (fun s =>
      let q := newQueue s qn
      match agentWrite (queueWho s qn q 0) a q.qctl (List.replicate 128 0) s with
      | (.ok, s1) => answer 0 0 { s1 with queues := sset s1.queues qn q }
      | (.fault, s1) => answer 5 0 s1
      | (.wait, s1) => if liveCtx s1 a then s1 else answer 6 0 s1)
    (noteAsked 0x03 [(badAsid a, 3), (queueForm s, 5)] a (queuePages s) s))

/-- A queue that a request may name. -/
def liveQueue (s : State) (qn : Nat) : Bool :=
  match sfind s.queues qn with | some q => liveCtx s q.asid | none => false

/-- The write index of a queue as its control block holds it, or as it was last read where that does not translate (DEDUCED,
log 34). -/
def widxNow (qn : Nat) (s : State) : Nat :=
  match sfind s.queues qn with
  | none => 0
  | some q => match (lookupLeaf s q.asid q.qctl).1 with
    | .ok l => ofLeBytes (ctrlRead s l.ck (leafPa l q.qctl) 8)
    | .error _ => q.widx

/-- Whether packets of a queue are unread. -/
def unread (s : State) (qn : Nat) : Bool := match sfind s.queues qn with | some q => decide (q.ridx < widxNow qn s) | none => false

/-- The number under which a destroyed queue's outstanding packets live on. -/
def orphanKey (s : State) (qn : Nat) : Nat :=
  match firstBelow (s.queues.length + 1) fun k => (sfind s.queues (4096 * (k + 1) + qn)).isNone with
  | some k => 4096 * (k + 1) + qn
  | none => 4096 * (s.queues.length + 2) + qn

/-- A queue is gone: what it has processed is unaffected (R61). -/
def removeQueue (qn : Nat) (s : State) : State :=
  match sfind s.queues qn with
  | none => s
  | some q =>
    if q.out.isEmpty then { s with queues := sdel s.queues qn }
    else
      let k := orphanKey s qn
      let rename (x : DmaEnt) : DmaEnt :=
        { x with packet := x.packet.map fun p => if p.1 = qn then (k, p.2) else p }
      { s with
        queues := sset (sdel s.queues qn) k { q with head := none, slotted := false, order := none }
        cp := s.cp.map fun e => (e.1, e.2.map rename) }

/-- The walk of a queue's control block that a request's checks make (R130). -/
def noteQctl (op : Nat) (before : List (Bool × Nat)) (qn : Nat) (s : State) : State :=
  match sfind s.queues qn with
  | some q => if asked s op && (firstCode ((notReady s op, 9) :: before)).isNone then noteWalk q.asid q.qctl s else s
  | none => s

/-- DESTROY_QUEUE (R61). -/
def execDestroyQueue (s : State) : Host.Outcome State Fault Refusal :=
  let qn := reqWord s 0 % 4096
  let first : List (Bool × Nat) := [(reservedSet s [2 ^ 63 + 4095], 5), (!liveQueue s qn, 6), ((reqWord s 0).testBit 63, 0)]
  .next (serve 0x04 [(reservedSet s [2 ^ 63 + 4095], 5), (!liveQueue s qn, 6), (!(reqWord s 0).testBit 63 && unread s qn, 10)]
    (fun s => answer 0 0 (removeQueue qn s)) (noteQctl 0x04 first qn s))

/-- Whether a queue's control block translates for a read. -/
def qctlMapped (s : State) (qn : Nat) : Bool :=
  match sfind s.queues qn with
  | none => true
  | some q => match (lookupLeaf s q.asid q.qctl).1 with | .ok l => l.r | .error _ => false

/-- The error state goes, and the queue is empty (R61). -/
def clearQueue (qn widx : Nat) (s : State) : State :=
  changeQueue qn (fun q =>
    { q with
      qstate := if q.slotted then 1 else 0, qerr := 0, ridx := widx, widx := widx, head := none, order := none
      emptySince := s.refclk }) s

/-- RESET_QUEUE (R61). -/
def execResetQueue (s : State) : Host.Outcome State Fault Refusal :=
  let qn := reqWord s 0 % 4096
  .next (serve 0x08 [(reservedSet s [4095], 5), (liveQueue s qn && !qctlMapped s qn, 5), (!liveQueue s qn, 6)]
    (fun s => match sfind s.queues qn with
      | none => answer 6 0 s
      | some q => match agentNat (queueWho s qn q 0) q.asid q.qctl 8 s with
        | (.ok, s1, w) => answer 0 0 (clearQueue qn w s1)
        | (.fault, s1, _) => answer 5 0 s1
        | (.wait, s1, _) => if liveCtx s1 q.asid then s1 else answer 6 0 s1)
    (noteQctl 0x08 [(reservedSet s [4095], 5), (!liveQueue s qn, 5)] qn s))

/-! ### Signals, the event ring, quotes (R62 to R64) -/

/-- Whether an address of a context lies in local HBM; a context that is not there passes, for code 6 to report. -/
def inHbm (s : State) (asid va : Nat) : Bool :=
  match ctxOf s asid with
  | none => true
  | some c => match leafUnder s asid c.root va with | some l => leafTarget va l == .hbm | none => false

def signalsOf (s : State) (asid : Nat) : List (Nat × Bool) := match ctxOf s asid with | some c => c.signals | none => []

/-- REGISTER_SIGNAL (R62). -/
def execRegisterSignal (s : State) : Host.Outcome State Fault Refusal :=
  let a := reqWord s 0 % 65536
  let va := reqWord s 1
  let vis := (reqWord s 0).testBit 16
  .next (serve 0x05 [(badAsid a, 3), (vis && !featureOn s 8, 8),
      (reservedSet s [2 ^ 17 - 1, m57] || va % 8 != 0 || (liveCtx s a && !inHbm s a va), 5), (!liveCtx s a, 6),
      (isSignal s a va || decide (8192 ≤ (signalsOf s a).length), 4)]
    (fun s => answer 0 0 (modCtx s a fun c => { c with signals := c.signals ++ [(va, vis)] }))
    (noteAsked 0x05 [(badAsid a, 3), (vis && !featureOn s 8, 8), (reservedSet s [2 ^ 17 - 1, m57] || va % 8 != 0, 5),
      (!liveCtx s a, 6)] a [va] s))

/-- UNREGISTER_SIGNAL (R62). -/
def execUnregisterSignal (s : State) : Host.Outcome State Fault Refusal :=
  let a := reqWord s 0 % 65536
  let va := reqWord s 1
  .next (serve 0x06 [(badAsid a, 3), (reservedSet s [65535, m57] || va % 8 != 0, 5), (!liveCtx s a || !isSignal s a va, 6)]
    (fun s => answer 0 0 (modCtx s a fun c => { c with signals := c.signals.filter fun g => g.1 != va })) s)

/-- SET_EVENT_RING (R63). -/
def execSetEventRing (s : State) : Host.Outcome State Fault Refusal :=
  let log := reqWord s 0
  let base := reqWord s 1
  let size := 64 * 2 ^ (log % 32)
  .next (serve 0x07
    [(reservedSet s [31, m64 - 4095, 2047] || decide (log < 6) || decide (16 < log) || base % size != 0
      || decide (2 ^ 50 < base + size), 5)]
    (fun s => answer 0 0 { s with
      evring := { s.evring with
        set := true, log := log, base := 2 ^ 50 + base, vec := reqWord s 2, prod := 0, cons := 0, owed := false } }) s)

/-- The bytes of the attestation log's entries. -/
def logBytes (s : State) : List (List Byte) := s.boot.attLog.map fun e => Config.attEntry e.kind e.svn e.slot e.digest

/-- A quote (R47): the log, H and the nonce, signed over its SHA-512. -/
def quoteOf (s : State) (nonce : List Byte) : List Byte :=
  let body := Config.quoteBody (logBytes s) s.boot.attH nonce
  (Config.quoteForm body (Config.deviceSign (sha512 body))).take 131072

/-- READ_ATTESTATION_QUOTE (R64). -/
def execReadAttestationQuote (s : State) : Host.Outcome State Fault Refusal :=
  let buf := reqWord s 4
  .next (serve 0x09 [(reservedSet s [m64, m64, m64, m64, m64] || decide (2 ^ 50 < buf + 131072), 5)]
    (fun s =>
      let nonce := (List.range 4).flatMap fun i => leBytes 8 (reqWord s i)
      answer 0 0 (ctrlWrite s 0 (2 ^ 50 + buf) (quoteOf s nonce))) s)

/-! ### Ranges (R172 to R174) -/

/-- VA and LEN of a range request: multiples of 64 KiB, LEN not zero. -/
def rangeBad (s : State) (word0 : Nat) : Bool :=
  reservedSet s [word0, m57, m57] || reqWord s 1 % 65536 != 0 || reqWord s 2 % 65536 != 0 || reqWord s 2 == 0

/-- The range a request names. -/
def reqRange (s : State) : Hold := ⟨reqWord s 0 % 65536, reqWord s 1, reqWord s 2⟩

/-- The codes of a range request. -/
def rangeCodes (s : State) (word0 : Nat) : List (Bool × Nat) :=
  let a := reqWord s 0 % 65536
  [(badAsid a, 3), (rangeBad s word0, 5), (!liveCtx s a, 6)]

/-- RANGE_HOLD (R174). -/
def execRangeHold (s : State) : Host.Outcome State Fault Refusal :=
  .next (serve 0x10 (rangeCodes s 65535 ++ [(decide (8 ≤ s.holds.length), 4)]) (fun s => answer 0 0 (holdRange (reqRange s) s)) s)

/-- RANGE_RELEASE (R172, R174). -/
def execRangeRelease (s : State) : Host.Outcome State Fault Refusal :=
  .next (serve 0x11 (rangeCodes s 65535) (fun s =>
    match firstBelow s.holds.length fun k => s.holds[k]? == some (reqRange s) with
    | some k => answer 0 0 (releaseRange k s)
    | none => answer 6 0 s) s)

/-- RANGE_INVALIDATE (R173). -/
def execRangeInvalidate (s : State) : Host.Outcome State Fault Refusal :=
  .next (serve 0x12 (rangeCodes s 65535) (fun s =>
    let h := reqRange s
    answer 0 0 (invalidateRange h.asid h.va h.len s)) s)

/-! ### Migration (R184) -/

/-- The page of a migration as its tables give it now. -/
def pageLeaf (s : State) (asid va : Nat) : Option Leaf := (ctxOf s asid).bind fun c => leafUnder s asid c.root va

/-- A migration is abandoned: the leaf is left as it was, and refused writes go on against the old copy. -/
def abandonMove (m : Migration) (status : Nat) (s : State) : State :=
  let s1 := replayWhere (fun s p => refusedIn s m p) (undoCut m { s with migration := none })
  let s2 := if liveCtx s1 m.asid then s1 else { s1 with retries := s1.retries.filter fun e => e.2.1 != m.asid }
  answer status 0 (migrateEvent m 2 0 (goOn (flushHost s2)))

/-- A migration is refused, or begins with its freeze (DEDUCED, log 34). -/
def beginMigration (s : State) : State :=
  let a := reqWord s 0 % 65536
  let va := reqWord s 1
  let pa := reqWord s 2
  let ck := field (reqWord s 0) 16 3
  match pageLeaf s a va with
  | none => answer 5 0 (noteWalks a [va] s)
  | some l =>
    let m : Migration := ⟨a, va, l.bits, pa, ck, 1, none, []⟩
    if migrateBad s a va pa ck l then answer 5 0 (migrateEvent m 1 0 s) else freeze m s

def setPhase (k : Nat) (s : State) : State := { s with migration := s.migration.map fun m => { m with phase := k } }

/-- The next phase of a migration: copy, cut-over, thaw (DESIGN CHOICE, log 11). A peer that no port leads to stops the copy
with its context (R185). -/
def moveOn (m : Migration) (s : State) : State :=
  if !liveCtx s m.asid then abandonMove m 6 s
  else match m.phase with
    | 1 => match pageLeaf s m.asid m.va with
      | some l =>
        match physReach s (pageBlocks m l) with
        | .linkDown pa => abandonMove m 6 (transferFails m.asid 0 m.va pa s)
        | .held _ => s
        | _ => setPhase 2 (copyPage m l s)
      | none => abandonMove m 5 (noteWalks m.asid [m.va] s)
    | 2 => match (ctxOf s m.asid).bind fun c => cutOver m c.root s with
      | some s1 => setPhase 3 s1
      | none => abandonMove m 5 (noteWalks m.asid [m.va] s)
    | _ => answer 0 0 (thaw m s)

/-- MIGRATE_PAGE (R184): the request's first event freezes the page, each further one takes the next phase. -/
def execMigratePage (s : State) : Host.Outcome State Fault Refusal :=
  let a := reqWord s 0 % 65536
  let ck := field (reqWord s 0) 16 3
  .next (match s.migration with
    | some m => if asked s 0x13 then moveOn m s else s
    | none =>
      serve 0x13 [(badAsid a, 3),
        ((ck != 0 && !featureOn s 5) || (targetOf (reqWord s 2) == .peer && !featureOn s 7), 8),
        (reservedSet s [2 ^ 19 - 1, m57, 2 ^ 52 - 1], 5), (!liveCtx s a, 6)] beginMigration s)

/-! ### Faults and counters (R172, R178) -/

/-- A resolve request with one of its actions. -/
def resolveWith (fail : Bool) (act : Nat → Nat → Nat → State → State) (s : State) : State :=
  if (reqWord s 0).testBit 16 != fail then s
  else serve 0x14 (rangeCodes s (2 ^ 17 - 1)) (fun s =>
    let h := reqRange s
    answer 0 0 (act h.asid h.va h.len s)) s

/-- RESOLVE_FAULTS_RETRY (R178). -/
def execResolveFaultsRetry (s : State) : Host.Outcome State Fault Refusal := .next (resolveWith false resolveRetry s)

/-- RESOLVE_FAULTS_FAIL (R178). -/
def execResolveFaultsFail (s : State) : Host.Outcome State Fault Refusal := .next (resolveWith true resolveFail s)

/-- READ_COUNTERS (R172). -/
def execReadCounters (s : State) : Host.Outcome State Fault Refusal :=
  let a := reqWord s 0 % 65536
  .next (serve 0x15 [(badAsid a, 3), (reservedSet s [65535], 5), (!liveCtx s a, 6)] (answer 0 0) s)

/-! ### The rest (R55, R57) -/

/-- The reserved operations. -/
def reservedOp (op : Nat) : Bool := op == 0 || (decide (0x0B ≤ op) && decide (op ≤ 0x0F)) || decide (0x16 ≤ op)

/-- MAILBOX_RESERVED_OP (R55). -/
def execMailboxReservedOp (s : State) : Host.Outcome State Fault Refusal :=
  .next (if reservedOp s.mailbox.op && asked s s.mailbox.op then answer 1 0 s else s)

/-- The request words that a completion writes (R172). -/
def counterWords (s : State) (status : Nat) : List W64 :=
  let old := s.mailbox.req
  if s.mailbox.op ≠ 0x15 ∨ status ≠ 0 then old
  else match ctxOf s (reqWord s 0 % 65536) with
    | some c => [c.hintDrops, c.faults, c.sidecars, c.migrated].map (BitVec.ofNat 64) ++ old.drop 4
    | none => old

/-- MAILBOX_REQUEST_COMPLETE (R57). -/
def execMailboxRequestComplete (s : State) : Host.Outcome State Fault Refusal :=
  .next (match s.mailbox.outcome with
    | none => s
    | some (st, r) =>
      if !s.mailbox.go then s
      else raiseMsix { s with mailbox := { s.mailbox with
        req := counterWords s st, go := false, status := st, result := r % 65536, outcome := none } } 0)

end Sys2Proof.Machine
end

