-- ==== Sys2Proof/Machine/Links.lean ====
section
/-! DEFINITION. Chip links and the seam: flits, acknowledgements, replay, recovery (R12, R18 to R27), and the checkpoint
stream (R29 to R31). Ports 18 and 19 are the two directions of the seam. -/

namespace Sys2Proof.Machine

/-! ### The checkpoint stream's flits (R31) -/

/-- Poisoned sectors of a run of local memory, by number. -/
def partPoison (p : NatSet) (lo n : Nat) : NatSet :=
  (List.range ((lo % 32 + n + 31) / 32)).foldl (fun m k => if nsHas p (lo / 32 + k) then nsAdd m (lo / 32 + k) else m) []

/-- A part with at least `need` bytes read: a 4 KiB block at a time, with the poison of its sectors. -/
def readAhead (s : State) (need : Nat) (e : Part) : Part :=
  if need ≤ e.data.length then e
  else
    let at' := e.lo + e.data.length
    let n := min e.hi (at' / 4096 * 4096 + 4096) - at'
    { e with data := e.data ++ memBytes s at' n, bad := (partPoison s.poison at' n).foldl (fun m x => nsAdd m x.1) e.bad }

/-- The next flit of a port's part, with the poison that was read with its bytes, and what is left of the part. -/
def nextFlit (s : State) (e : Part) : Flit × Part :=
  let need := min 240 (e.hi - e.lo)
  let d := readAhead s need e
  ({ seq := 0, kind := 3, vc := 2, devid := s.ckpt.devid, payload := d.data.take need, ckpt := true, start := e.lo
     bad := partPoison d.bad e.lo need, req := none },
   { d with lo := e.lo + need, data := d.data.drop need })

/-- Replace the first part of a port. -/
def setPart (e : Part) : List Part → List Part
  | [] => []
  | x :: xs => if x.port = e.port then (if e.lo < e.hi then e :: xs else xs) else x :: setPart e xs

/-- A port sends the flits that wait for room, then as many of its part as its window takes. -/
def fillWindow (n : Nat) : Nat → State → State
  | 0, s => s
  | fuel + 1, s =>
    if !portUp s n || !hasRoom s n then s
    else if !(portOf s n).outq.isEmpty then fillWindow n fuel (drainOut n (portOf s n).outq.length s)
    else match s.ckpt.parts.find? fun e => e.port == n with
      | none => s
      | some e =>
        let r := nextFlit s e
        let s1 := pushFlit n r.1 s
        fillWindow n fuel { s1 with ckpt := { s1.ckpt with parts := setPart r.2 s1.ckpt.parts } }

/-- An acknowledged flit of the stream has landed: its bytes and its sectors' poison stand in the receiver's memory. -/
def landFlit (f : Flit) (s : State) : State :=
  if !f.ckpt || !s.ckpt.busy then s
  else
    let c := s.ckpt
    let off := c.dst + (f.start - c.src)
    let pa := 2 * 2 ^ 50 + f.devid * 2 ^ 40 + off % 2 ^ 40
    let mark (p : NatSet) (k : Nat) : NatSet :=
      if nsHas f.bad (f.start / 32 + k) then nsAdd p (pa / 32 + k) else nsDel p (pa / 32 + k)
    let s1 := memPut s pa f.payload
    { s1 with
      poison := (List.range ((pa % 32 + f.payload.length + 31) / 32)).foldl mark s1.poison
      ckpt := { c with sent := c.sent + f.payload.length } }

/-- The host's accesses that waited for a port are tried again (R27): its writes in order, its reads as the next items. -/
def resumeHost (s : State) : State :=
  let s1 := flushHost s
  { s1 with agenda := (s1.hostReads.map fun e => Item.event .hostApertureRead e) ++ s1.agenda, hostReads := [] }

/-- Accesses held behind a port that can take them, or that is lost, are performed, or ask another port (R22, R27). -/
def resumePeers (s : State) : State :=
  let back (s : State) (p : Parked) : Bool :=
    match p.place with
    | .held h =>
      isPeerHold h && (portOf s (holdPort h)).state != 3
        && (hasRoom s (holdPort h) || (portOf s (holdPort h)).window.any fun f => f.req.isSome)
    | _ => false
  resumeHost (goOn (replayWhere back s))

/-! ### Acknowledgements (R21) -/

/-- The flits of a window up to a sequence, and the rest; none where the window does not hold it. -/
def ackSplit (seq : Nat) : List Flit → Option (List Flit × List Flit)
  | [] => none
  | f :: fs => if f.seq = seq then some ([f], fs) else (ackSplit seq fs).map fun r => (f :: r.1, r.2)

/-- An acknowledgement up to a sequence arrives; one that does not advance changes nothing. -/
def takeAck (n seq : Nat) (s : State) : State :=
  match ackSplit seq (portOf s n).window with
  | none => s
  | some (done, rest) =>
    let s1 := modPort n (fun p => { p with window := rest, consec := 0 }) s
    resumePeers (fillWindow n 1024 (done.foldl (fun s f => landFlit f s) s1))

def sat16 (n : Nat) : Nat := min n 0xFFFF

def cutBytes (b : List Byte) (o n : Nat) : List Byte := (b.drop o).take n

/-! ### Receiving (R19, R20) -/

/-- A flit accepted in sequence stands in the receive queue of its VC; every 64th is acknowledged at once (R21). -/
def accept (f : RxFlit) (p : Port) : Port :=
  let q := { p with
    rxq := p.rxq ++ [f], rxSeq := (p.rxSeq + 1) % 4096, discarding := false, nakRx := none, crcBad := false
    sinceAck := p.sinceAck + 1 }
  if q.sinceAck < 64 then q else sendIdle q

/-- A data flit at the expected sequence, or not (R21): a gap and a full queue are answered with a NAK; one received
before is dropped. The arrival of one whose CRC was bad before is an error cured by replay (R129). -/
def takeData (n seq : Nat) (full : Bool) (f : RxFlit) (s : State) : State :=
  let p := portOf s n
  if seq = p.rxSeq then
    if full then sendNak n s
    else modPort n (accept f) (if p.crcBad then countCorrected 1 s else s)
  else if p.discarding || 2048 ≤ (seq + 4096 - p.rxSeq) % 4096 then s
  else sendNak n s

/-- FLIT_RECEIVE (R20). Env: `port`, `bytes` the flit, `flag` the receive queue of its VC is full. The header is read
little-endian (DESIGN CHOICE, log 56). What a peer's request does to local memory comes as an item of its own. -/
def execFlitReceive (s : State) : Host.Outcome State Fault Refusal :=
  let n := s.env.port
  let h := bytesAt s.env.bytes 0 8
  let reserved := decide (6 ≤ field h 36 4) || field h 32 2 != 0 || field h 0 16 != 0
  let f : RxFlit := ⟨field h 36 4, field h 34 2, field h 22 10, cutBytes s.env.bytes 8 (8 * field h 16 6)⟩
  .next (if !portUp s n then s
    else if !flitSound s.env.bytes then sendNak n (modPort n (fun p => { p with crcBad := true }) s)
    else if reserved then sendNak n (modPort n (fun p => { p with proterr := sat16 (p.proterr + 1) }) s)
    else if 30 < field h 16 6 then sendNak n s
    else
      let s1 := takeAck n (field h 40 12) s
      if field h 36 4 = 0 ∨ field h 36 4 = 4 then s1 else takeData n (field h 52 12) s.env.flag f s1)

/-- ACK_TIMER (R21): the receiver acknowledges what it has received in order, again where it has done so before: an
acknowledgement may have been lost. Env: `port`. -/
def execAckTimer (s : State) : Host.Outcome State Fault Refusal :=
  .next (if portUp s s.env.port then modPort s.env.port sendIdle s else s)

/-- The oldest flit of a VC is delivered, in sequence order (R23); a request is answered with a response on VC 1, one flit
for one, its payload free (DESIGN CHOICE, log 56). -/
def deliver (n vc : Nat) (s : State) : State :=
  match (portOf s n).rxq.find? fun f => f.vc == vc with
  | none => s
  | some f =>
    let s1 := modPort n (fun p => { p with rxq := p.rxq.erase f }) s
    if f.kind = 1 then
      sendFlit n
        { seq := 0, kind := 2, vc := 1, devid := (portOf s n).peerid, payload := (Config.linkPayload s.tick).take 240
          ckpt := false, start := 0, bad := [], req := none } { s1 with tick := s1.tick + 1 }
    else s1

/-- The line takes a port's oldest sent flit. -/
def lineTakes (n : Nat) (s : State) : State := modPort n (fun p => { p with wire := p.wire.drop 1 }) s

/-- A transfer on behalf of a core's context enters one direction of the seam (R12); which accesses cross it the rules do not
state (DESIGN CHOICE, log 56). -/
def seamTransfer (n asid core : Nat) (s : State) : State :=
  if (n == seamPort || n == seamPort + 1) && hasRoom s n then
    pushFlit n { seq := 0, kind := 1, vc := 0, devid := 0, payload := [], ckpt := false, start := 0, bad := []
                 req := some ⟨asid, core, 0, 0, false, none⟩ } s
  else s

/-! ### Failed transfers (R22, R27) -/

/-- The requests lost with a port: those in its window or waiting to enter it (R22), and those to peers that no port leads
to any more (R27): ASID, core, virtual and physical address. -/
def lostRequests (gone : List Flit) (s : State) : List (Nat × Nat × Nat × Nat) :=
  let down (pa : Nat) : Bool := targetOf pa == .peer && peerPath s (peerOf pa) == .down
  let sent := gone.filterMap fun f => f.req.map fun r => (r.asid, r.core, r.va, r.pa)
  let held := s.parked.filterMap fun p =>
    match p.place with
    | .held h =>
      if isPeerHold h ∧ peerPath s (holdPeer h) = .down then some ((asidOfGroup s p.group).getD 0, keyCore p.group, p.first, 0)
      else none
    | _ => none
  let waits := s.waits.filterMap fun w =>
    if w.sat.isNone && down w.pa then some (w.asid, keyCore w.group, w.va, w.pa) else none
  sent ++ held ++ waits

/-! A part of the stream whose port fails (R31). -/

/-- What a port has not had acknowledged, as ranges with their bytes. -/
def unackedParts (s : State) (n : Nat) : List Part :=
  ((portOf s n).window.filter fun f => f.ckpt).map (fun f => ⟨n, f.start, f.start + f.payload.length, f.payload, f.bad⟩)
    ++ s.ckpt.parts.filter fun e => e.port == n

/-- Adjacent ranges joined. -/
def joinParts : List Part → List Part
  | [] => []
  | x :: xs =>
    match joinParts xs with
    | y :: ys =>
      if x.hi = y.lo ∧ x.data.length = x.hi - x.lo then
        { x with hi := y.hi, data := x.data ++ y.data, bad := y.bad.foldl (fun m e => nsAdd m e.1) x.bad } :: ys
      else x :: y :: ys
    | [] => [x]

/-- A range divided over ports in whole blocks, the first ones a block more (DEDUCED, log 32). -/
def dividePart (ports : List Nat) (r : Part) : List Part :=
  let b0 := r.lo / 4096
  let blocks := (r.hi + 4095) / 4096 - b0
  let q := blocks / ports.length
  let m := blocks % ports.length
  let edge (i : Nat) : Nat := 4096 * (b0 + q * i + min i m)
  ((ports.mapIdx fun i n =>
    let lo := max r.lo (edge i)
    let hi := min r.hi (edge (i + 1))
    ⟨n, lo, hi, (r.data.drop (lo - r.lo)).take (hi - lo), r.bad⟩).filter fun e => decide (e.lo < e.hi))

/-- The ports of a mask that are up, ascending. -/
def upPorts (s : State) (mask : Nat) : List Nat :=
  (List.range 18).filter fun n => mask.testBit n && (portOf s n).state == 2

/-- Flits of the stream stand no more for it. -/
def forgetFlits (p : Port) : Port := { p with window := p.window.map fun f => { f with ckpt := false } }

/-- The remaining up ports take over what a failed port has not had acknowledged; with none the stream fails. -/
def handOver (n : Nat) (s : State) : State :=
  let left := joinParts (unackedParts s n)
  let c := { s.ckpt with parts := s.ckpt.parts.filter fun e => e.port != n }
  if !s.ckpt.busy || left.isEmpty then s
  else
    let ups := (upPorts s s.ckpt.mask).filter fun k => k != n
    if c.aborted then { s with ckpt := c }
    else if ups.isEmpty then
      { s with ckpt := { c with fail := true, parts := [] }, ports := s.ports.map fun e => (e.1, forgetFlits e.2) }
    else
      let s1 := { s with ckpt := { c with parts := c.parts ++ left.flatMap (dividePart ups) } }
      ups.foldl (fun s k => fillWindow k 1024 s) s1

/-- A port is lost (R22, R25): its window is discarded, its link-fault event is posted, the requests that no port leads
to any more fail, and their contexts are killed (R130). -/
def losePort (n state : Nat) (s : State) : State :=
  let p := portOf s n
  let s1 := handOver n (modPort n (fun p => { p with state := state }) s)
  let s2 := modPort n (fun p => { p with window := [], outq := [], resend := none, consec := 0 }) s1
  let lost := lostRequests (p.window ++ p.outq) s2
  let s3 := postEvent 0x04 0 (leBytes 1 n ++ leBytes 1 state ++ leBytes 2 p.peerid ++ leBytes 4 0 ++ leBytes 8 lost.length) s2
  resumePeers (lost.foldl (fun s r => killContext r.1 7 r.2.1 r.2.2.1 r.2.2.2 s) s3)

/-! ### Replay (R12, R21, R22) -/

/-- A seam transfer that still fails after 16 replays is uncorrectable: its requester's context is killed (R12, R130). Its
flit leaves the window, while the receiver still awaits its sequence, so that later transfers are not taken in order either
(DESIGN CHOICE, log 63). -/
def seamFails (n seq : Nat) (s : State) : State :=
  let s1 := modPort n (fun p =>
    { p with window := p.window.filter fun f => f.seq != seq, resend := none, consec := 0 }) s
  match (portOf s n).window.find? fun f => f.seq == seq with
  | some f => match f.req with
    | some r => killContext r.asid 7 r.core r.va r.pa s1
    | none => s1
  | none => s1

/-- A resend from a sequence: counted, and the flits from it on go out again; after 16 of the same sequence that advanced no
acknowledgement a port enters recovery instead, and a seam transfer has failed (DEDUCED, log 32). -/
def resendNow (n seq : Nat) (s : State) : State :=
  let p := portOf s n
  let tries := if p.stuck = seq then p.consec else 0
  if 16 ≤ tries then
    if seamPort ≤ n then seamFails n seq s else modPort n (fun p => { p with resend := none, state := 3 }) s
  else
    modPort n (fun p => resendFrom seq
      { p with resend := none, replays := sat16 (p.replays + 1), stuck := seq, consec := tries + 1 }) s

/-- Where a sequence stands in a port's window. -/
def inWindow (seq : Nat) (p : Port) : Option Nat :=
  firstBelow p.window.length fun k => (p.window[k]?.map fun f => f.seq) == some seq

def ignoreNak (p : Port) : Port := { p with nakign := sat16 (p.nakign + 1) }

/-- NAK_RECEIVE (R21). Env: `port`, `index` the sequence it names. -/
def execNakReceive (s : State) : Host.Outcome State Fault Refusal :=
  let n := s.env.port
  .next (if !portUp s n then s
    else modPort n (fun p =>
      match inWindow s.env.index p with
      | none => ignoreNak p
      | some k =>
        match p.resend.bind fun r => inWindow r p with
        | some j =>
          if j < k then ignoreNak p else if k < j then { p with resend := some s.env.index } else p
        | none => { p with resend := some s.env.index }) s)

/-- RESEND_AFTER_BACKOFF (R21, R22). Env: `port`. -/
def execResendAfterBackoff (s : State) : Host.Outcome State Fault Refusal :=
  let n := s.env.port
  .next (match (portOf s n).resend with
    | some seq => if portUp s n then resendNow n seq s else s
    | none => s)

/-- REPLAY_TIMEOUT (R21): from the oldest unacknowledged flit. Env: `port`. -/
def execReplayTimeout (s : State) : Host.Outcome State Fault Refusal :=
  let n := s.env.port
  .next (match (portOf s n).window with
    | f :: _ => if portUp s n then resendNow n f.seq s else s
    | [] => s)

/-! ### Lanes, recovery, training (R18, R22, R24, R25, R44) -/

/-- Whether one half of a port's lanes is whole (R18). -/
def halfWhole (lanes : Nat) : Bool := lanes % 16 == 15 || lanes / 16 % 16 == 15

/-- Whether the lanes a port runs on are all in lock: the eight, or the half it uses. -/
def widthHolds (p : Port) (m : Nat) : Bool :=
  if p.half then (if p.upper then m / 16 % 16 == 15 else m % 16 == 15) else m % 256 == 255

/-- LANE_LOSS_OF_LOCK (R18, R22): a port that cannot continue at its width enters recovery, which trains it at the width that
is left. Env: `port`, `mask` the lanes 0 to 7 still in lock. -/
def execLaneLossOfLock (s : State) : Host.Outcome State Fault Refusal :=
  let n := s.env.port
  let p := portOf s n
  .next (if p.state = 2 ∧ !widthHolds p s.env.mask then modPort n (fun p => { p with state := 3 }) s
    else if p.state = 1 ∧ !halfWhole s.env.mask then modPort n (fun p => { p with state := 4 }) s
    else s)

/-- The width that trained lanes give: all eight, else lanes 0 to 3, else lanes 4 to 7 (R18). -/
def setWidth (m : Nat) (p : Port) : Port := { p with half := m % 256 != 255, upper := m % 256 != 255 && m % 16 != 15 }

/-- PORT_RECOVERY_COMPLETE (R22): replay resumes from the oldest unacknowledged flit. Env: `port`, `mask` the lanes that
trained; with no half of them whole recovery goes on. -/
def execPortRecoveryComplete (s : State) : Host.Outcome State Fault Refusal :=
  let n := s.env.port
  let again (p : Port) : Port :=
    let q := { setWidth s.env.mask p with state := 2, resend := none, consec := 0 }
    match q.window with
    | f :: _ => resendFrom f.seq q
    | [] => q
  .next (if (portOf s n).state ≠ 3 || !halfWhole s.env.mask then s
    else resumePeers (fillWindow n 1024 (modPort n again s)))

/-- PORT_RECOVERY_TIMEOUT (R22): after 2 s. Env: `port`. -/
def execPortRecoveryTimeout (s : State) : Host.Outcome State Fault Refusal :=
  let n := s.env.port
  .next (if (portOf s n).state = 3 then losePort n 4 s else s)

/-- Whether ports may train: until the lock every one may, after it only with feature 7 (R44). -/
def linksAllowed (s : State) : Bool := !s.boot.featlock || featureOn s 7

/-- A port starts from its reset state, but for what LINKCTLn holds (R40). -/
def freshPort (p : Port) (state : Nat) : Port :=
  { Port.reset with state := state, enable := true, backoff := p.backoff }

/-- A write of LINKCTLn (R25): CLR, BACKOFF, then ENABLE. -/
def writeLinkctl (n x : Nat) (s : State) : State :=
  let s1 := modPort n (fun p =>
    let q := { p with backoff := x % 2 ^ 16 }
    if x.testBit 30 then { q with replays := 0, proterr := 0, nakign := 0 } else q) s
  let p := portOf s1 n
  if x.testBit 31 then
    if p.state = 0 ∨ p.state = 4 then
      if linksAllowed s1 then modPort n (fun p => freshPort p 1) s1 else modPort n (fun p => { p with enable := true }) s1
    else modPort n (fun p => { p with enable := true }) s1
  else
    let s2 := modPort n (fun p => { p with enable := false }) s1
    if p.state = 0 then s2 else losePort n 0 s2

/-- The ports of the device. -/
def isPort (n : Nat) : Bool := decide (n < 18)

/-- Whether BAR0 is decoded in full (R36, R38, R495). -/
def bar0Full (s : State) : Bool := s.boot.phase == 5 || s.boot.phase == 6

/-- LINK_ENABLE (R25). Env: `port`, `value` what is written to LINKCTLn, bit 31 set. -/
def execLinkEnable (s : State) : Host.Outcome State Fault Refusal :=
  .next (if isPort s.env.port && bar0Full s && s.env.value.testBit 31 then writeLinkctl s.env.port s.env.value s else s)

/-- LINK_DISABLE (R25). Env: `port`, `value` what is written to LINKCTLn, bit 31 clear. -/
def execLinkDisable (s : State) : Host.Outcome State Fault Refusal :=
  .next (if isPort s.env.port && bar0Full s && !s.env.value.testBit 31 then writeLinkctl s.env.port s.env.value s else s)

/-- LINK_COUNTERS_CLEAR (R25). Env: `port`, `value` what is written to LINKCTLn, bit 30 set. -/
def execLinkCountersClear (s : State) : Host.Outcome State Fault Refusal :=
  .next (if isPort s.env.port && bar0Full s && s.env.value.testBit 30 then writeLinkctl s.env.port s.env.value s else s)

/-- The route table with a port leading to its peer only (R27): what firmware writes into it is the DEVID that the far end
reported as the port trained (DESIGN CHOICE, log 56: the rules do not say what the table holds). -/
def routePort (n devid : Nat) (s : State) : State :=
  let r := (s.routes.map fun e => (e.1, nsDel e.2 n)).filter fun e => !e.2.isEmpty
  { s with routes := sset r devid (nsAdd (sget [] r devid) n) }

/-- A port's training ends: up on the lanes that trained, with its peer's DEVID, or failed. -/
def trained (n m peer : Nat) (s : State) : State :=
  if halfWhole m then resumePeers (routePort n (peer % 1024) (modPort n (fun p =>
    { setWidth m (freshPort p 2) with peerid := peer % 1024 }) s))
  else modPort n (fun p => { p with state := 4 }) s

/-- LINK_TRAINING_COMPLETE (R25). Env: `port`, `mask` the lanes that trained, `value` the peer's DEVID. -/
def execLinkTrainingComplete (s : State) : Host.Outcome State Fault Refusal :=
  let n := s.env.port
  .next (if (portOf s n).state ≠ 1 then s else trained n (s.env.mask % 256) s.env.value s)

/-! ### The stream's requests (R30, R31) -/

/-- A word of a start request is malformed, or a port is not up or does not lead to the receiver (STATUS 5). -/
def ckptBad (s : State) : Bool :=
  let w := reqWord s
  let dev := w 0 % 1024
  let ports := w 4
  reservedSet s [2 ^ 16 + 1023, 2 ^ 50 - 1, 2 ^ 48 - 1, 2 ^ 40 - 1, 2 ^ 18 - 1] || w 1 % 4096 != 0 || w 2 == 0
    || w 2 % 4096 != 0 || decide (hbmTop < w 1 + w 2) || w 3 % 4096 != 0 || ports == 0
    || (List.range 18).any fun n => ports.testBit n && ((portOf s n).state != 2 || !nsHas (sget [] s.routes dev) n)

/-- The stream begins: every L2 writes back, and each port gets its part. -/
def beginStream (s : State) : State :=
  let w := reqWord s
  let s1 := (List.range 24).foldl (fun s cl => writeBackWhere s cl fun _ _ => true) s
  let ports := (List.range 18).filter fun n => (w 4).testBit n
  let c : Ckpt :=
    { busy := true, fail := false, aborted := false, sent := 0, devid := w 0 % 1024, src := w 1, dst := w 3, mask := w 4
      since := s.refclk, parts := dividePart ports ⟨0, w 1, w 1 + w 2, [], []⟩ }
  answer 0 0 (ports.foldl (fun s n => fillWindow n 1024 s) { s1 with ckpt := c })

/-- CHECKPOINT_STREAM_START (R30, R31). -/
def execCheckpointStreamStart (s : State) : Host.Outcome State Fault Refusal :=
  .next (if (reqWord s 0).testBit 16 then s
    else serve 0x0A [(!featureOn s 7, 8), (ckptBad s, 5), (s.ckpt.busy, 4)] beginStream s)

/-- Whether flits of the stream are still unacknowledged. -/
def flitsLeft (s : State) : Bool := s.ports.any fun e => e.2.window.any fun f => f.ckpt

/-- CHECKPOINT_STREAM_ABORT (R30): the request finishes once no further flit of the stream will be sent. -/
def execCheckpointStreamAbort (s : State) : Host.Outcome State Fault Refusal :=
  .next (if !(reqWord s 0).testBit 16 then s
    else serve 0x0A [(!featureOn s 7, 8), (reqWord s 0 ||| (2 ^ 16 + 1023) != 2 ^ 16 + 1023, 5), (!s.ckpt.busy, 4)]
      (fun s =>
        let s1 := { s with ckpt := { s.ckpt with aborted := true, parts := [] } }
        if flitsLeft s1 then s1 else answer 0 0 s1) s)

/-- CHECKPOINT_STREAM_END (R31). -/
def execCheckpointStreamEnd (s : State) : Host.Outcome State Fault Refusal :=
  let c := s.ckpt
  .next (if !c.busy || (c.aborted && asked s 0x0A) || (!c.fail && (!c.parts.isEmpty || flitsLeft s)) then s
    else
      let result := if c.fail then 1 else if c.aborted then 2 else 0
      postEvent 0x05 0 (leBytes 2 c.devid ++ leBytes 1 result ++ leBytes 5 0 ++ leBytes 8 c.sent
        ++ leBytes 8 (s.refclk - c.since)) { s with ckpt := { c with busy := false } })

end Sys2Proof.Machine
end

