-- ==== Sys2Proof/Machine/Scheduling.lean ====
section
/-! DEFINITION. Claims of workgroups and gangs (R81, R82, R99 to R101, R106, R120, R137), release (R98), slices and stops
(R110 to R116), retirement (R83, R135, R149). -/

namespace Sys2Proof.Machine

/-! ### The scan order (R99) -/

/-- The save-list entries of a record, oldest first. -/
def savesOf (s : State) (rn : Nat) : List SaveEnt := s.saves.filter fun e => e.record == rn

/-- Whether a record has an untaken ticket, and whether it can be claimed from: its context lives, and it is open or has
entries left (R99). -/
def untaken (r : LaunchRec) : Bool := r.st == 1 && decide (r.ticket < r.total)
def claimable (s : State) (rn : Nat) (r : LaunchRec) : Bool :=
  (r.st == 1 || (r.st == 2 && !(savesOf s rn).isEmpty))
    && match ctxOf s r.asid with | some c => !c.killed | none => false

/-- The effective priority (R99): one step for each 2 ms since posting. -/
def effPrio (s : State) (r : LaunchRec) : Nat := min 3 (r.prio + (s.refclk - r.posted) / 200000)

/-- Whether a record comes before another. -/
def recBefore (s : State) (a b : Nat × LaunchRec) : Bool :=
  let x := effPrio s a.2
  let y := effPrio s b.2
  decide (y < x) || (x == y && (decide (a.2.posted < b.2.posted) || (a.2.posted == b.2.posted && decide (a.1 < b.1))))

def insRec (s : State) (a : Nat × LaunchRec) : List (Nat × LaunchRec) → List (Nat × LaunchRec)
  | [] => [a]
  | b :: bs => if recBefore s a b then a :: b :: bs else b :: insRec s a bs

/-- The records an agent scans, in order. -/
def scanOrder (s : State) : List (Nat × LaunchRec) :=
  (s.board.filter fun e => claimable s e.1 e.2).foldl (fun l e => insRec s e l) []

/-! ### Claims -/

/-- What an attempt on a record gave: nothing could be reserved; a void ticket (R81); a claim; a hold request (R106). -/
inductive Got where
  | failed
  | void (s : State)
  | placed (s : State)
  | asked (s : State)
  deriving DecidableEq, Repr

/-- The clusters that a gang of some rows occupies when a cluster's agent places it: 8 rows take the mirror's too (R105). -/
def clustersOf (rows cl : Nat) : List Nat := if rows ≤ 4 then [cl] else [cl, cl + 12]

/-- A restart after a rollback avoids the cluster it names while another lives on which it can stand (R137) (DEDUCED, log
52). -/
def avoids (s : State) (rows cl : Nat) (e : SaveEnt) : Bool :=
  match e.avoid with
  | none => false
  | some k => (clustersOf rows cl).contains k
    && (List.range (if rows ≤ 4 then 24 else 4)).any fun c =>
      let cs := clustersOf rows c
      !cs.contains k && cs.all fun x => (liveClusters s).contains x

/-- The identity of a member of a record: from a new ticket, or of a save-list entry. -/
def entId (s : State) (rn : Nat) (r : LaunchRec) (e : SaveEnt) (i j : Nat) : WgId :=
  { wgId s rn r i j with
    index := e.ticket * gangSize r + i * gangCols r + j, ticket := e.ticket, attempt := e.attempt
    restores := e.restores + 1 }

/-- The record of the member at a place among those an entry names. -/
def memberImage (s : State) (e : SaveEnt) (i j : Nat) : Option Nat :=
  e.addrs.find? fun a => match sfind s.images a with
    | some img => img.wg.brow == i && img.wg.bcol == j
    | none => false

/-- The entries of a record that no hold request in progress stands for, oldest first. -/
def openSaves (s : State) (rn : Nat) : List SaveEnt :=
  (savesOf s rn).filter fun e => !s.claims.any fun c => c.2.entry == some e

/-- Whether a record has an untaken ticket or an entry left. -/
def hasWork (s : State) (rn : Nat) : Bool :=
  !(savesOf s rn).isEmpty || match sfind s.board rn with | some r => untaken r | none => false

/-- A hold on a record with neither an untaken ticket nor an entry left ends, and its measurement with it (R100). -/
def endDryHold (rn : Nat) (s : State) : State :=
  if hasWork s rn then s
  else { s with fails := s.fails.map fun f => if f.record = rn then { f with hold := false, since := none } else f }

/-- Take an entry off its record's save list. -/
def takeEntry (e : SaveEnt) (s : State) : State := endDryHold e.record { s with saves := s.saves.erase e }

/-- A save-list entry of an unbonded record is reserved on a core. -/
def claimEntry (core rn : Nat) (r : LaunchRec) (s : State) (e : SaveEnt) : Option State :=
  if avoids s 1 (clusterOf core) e then none
  else (reserve core r.desc r.dynscr { entId s rn r e 0 0 with image := e.addrs.head? } s).map fun x =>
    setSlice x.1 (takeEntry e x.2)

/-- A ticket of a record is taken (R81, R82): the one received. -/
def takeTicket (rn : Nat) (s : State) : State := endDryHold rn (modRec s rn fun r => { r with ticket := r.ticket + 1 })

/-- A void ticket: the record takes STATE 2 if it is still open. -/
def voidTicket (rn : Nat) (s : State) : State := modRec s rn fun r => { r with st := if r.st = 1 then 2 else r.st }

/-- A reserved member receives its ticket and index. -/
def nameMember (r : LaunchRec) (t : Nat) (s : State) (wk : Nat) : State :=
  modWg s wk fun w => { w with ticket := t, index := t * gangSize r + w.brow * gangCols r + w.bcol }

/-- The slice of a gang is one: its members share the first one's end (R110). -/
def setSlices (ks : List Nat) (s : State) : State :=
  match ks with
  | [] => s
  | k :: rest =>
    let s1 := setSlice k s
    let e := match sfind s1.wgs k with | some w => w.sliceEnd | none => 0
    rest.foldl (fun s j => modWg s j fun w => { w with sliceEnd := e }) s1

/-- Give up reservations. -/
def abandon (ks : List Nat) (s : State) : State := ks.foldl (fun s k => unreserve k s) s

/-- A workgroup of an unbonded record (R81, R101). -/
def claimUnbonded (core rn : Nat) (r : LaunchRec) (s : State) : Got :=
  match (savesOf s rn).findSome? (claimEntry core rn r s) with
  | some s1 => .placed s1
  | none =>
    if r.st ≠ 1 then .failed
    else match reserve core r.desc r.dynscr (wgId s rn r 0 0) s with
      | none => .failed
      | some (wk, s1) =>
        let s2 := takeTicket rn s1
        if r.total ≤ r.ticket then .void (voidTicket rn (abandon [wk] s2))
        else .placed (setSlice wk (nameMember r r.ticket s2 wk))

/-! ### Gangs (R82, R104 to R107, R120) -/

/-- The places of a saved gang whose members had retired. -/
def emptyPlaces (s : State) (r : LaunchRec) (e : Option SaveEnt) : List (Nat × Nat) :=
  match e with
  | none => []
  | some e => if e.addrs.isEmpty then [] else (gangPlaces r).filter fun p => (memberImage s e p.1 p.2).isNone

/-- Members reserved for an entry carry its identity. -/
def nameSaved (rn : Nat) (r : LaunchRec) (e : SaveEnt) (s : State) (wk : Nat) : State :=
  modWg (nameMember r e.ticket s wk) wk fun w =>
    let id := entId s rn r e w.brow w.bcol
    { w with attempt := id.attempt, restores := id.restores, image := memberImage s e w.brow w.bcol }

/-- A reserved gang takes its ticket, or stands for the entry it was reserved for. -/
def nameGang (rn : Nat) (e : Option SaveEnt) (ks : List Nat) (s : State) : Got :=
  match sfind s.board rn, e with
  | none, _ => .failed
  | some r, some e => .placed (setSlices ks (ks.foldl (nameSaved rn r e) (takeEntry e s)))
  | some r, none =>
    let s1 := takeTicket rn s
    if r.total ≤ r.ticket then .void (voidTicket rn (abandon ks s1))
    else .placed (setSlices ks (ks.foldl (nameMember r r.ticket) s1))

/-- The half of a rectangle that a mirror agent or a die-0 agent reserves: its workgroups. -/
def reserveAt (cluster rn : Nat) (r : LaunchRec) (e : Option SaveEnt) (upper : Bool) (o : Nat × Nat) (s : State) :
    Option (List Nat × State) :=
  reserveAll rn r (fun i j => memberCore cluster (gangRows r) o.1 o.2 i j) (emptyPlaces s r e) (placesOn r upper) [] s

/-- The first origin of a cluster, from a column on, at which its part of the rectangle can be reserved. -/
def firstOrigin (cluster rn from' : Nat) (r : LaunchRec) (e : Option SaveEnt) (s : State) :
    Option ((Nat × Nat) × List Nat × State) :=
  ((origins r).filter fun o => decide (from' ≤ o.2)).findSome? fun o =>
    (reserveAt cluster rn r e false o s).map fun x => (o, x.1, x.2)

/-- One way to claim a gang: an entry or a new ticket, on a cluster or, for 8 rows, with a hold request to its mirror. -/
def claimGangAs (cluster rn : Nat) (r : LaunchRec) (s : State) (e : Option SaveEnt) : Got :=
  if (match e with | some e => avoids s (gangRows r) cluster e | none => false) then .failed
  else match firstOrigin cluster rn 0 r e s with
    | none => .failed
    | some (o, ks, s1) =>
      if gangRows r ≤ 4 then nameGang rn e ks s1
      else .asked { s1 with claims := sset s1.claims cluster ⟨rn, gangCols r, o.2, 0, e⟩ }

/-- The first of some ways that does not fail. -/
def firstGot (f : Option SaveEnt → Got) : List (Option SaveEnt) → Got
  | [] => .failed
  | e :: es => match f e with
    | .failed => firstGot f es
    | g => g

/-- A gang of a record: its entries first, then a ticket. -/
def claimGang (cluster rn : Nat) (r : LaunchRec) (s : State) : Got :=
  firstGot (claimGangAs cluster rn r s) ((openSaves s rn).map some ++ if r.st = 1 then [none] else [])

/-- Whether an agent claims from a record at all: gangs are for lead agents, those of 8 rows for the leads of the die-0
clusters of mirror pairs (R10, R105), one at a time. -/
def mayClaim (s : State) (core : Nat) (r : LaunchRec) : Bool :=
  let cl := clusterOf core
  coreLive s core && (gangSize r == 1 || (leadCore s cl == some core
    && (decide (gangRows r ≤ 4) || (decide (cl < 4) && (sfind s.claims cl).isNone))))

def tryRecord (core rn : Nat) (r : LaunchRec) (s : State) : Got :=
  if gangSize r = 1 then claimUnbonded core rn r s else claimGang (clusterOf core) rn r s

/-! ### Failed reservations (R100) -/

def failOf (s : State) (core rn : Nat) : Option FailRec := s.fails.find? fun f => f.core == core && f.record == rn

def putFail (f : FailRec) (s : State) : State :=
  { s with fails := f :: s.fails.filter fun x => !(x.core == f.core && x.record == f.record) }

/-- A failed attempt of a core for a record; the measurement runs for the first in scan order. -/
def noteFail (core : Nat) (first : Option Nat) (s : State) (rn : Nat) : State :=
  let old := (failOf s core rn).getD ⟨core, rn, none, 0, false⟩
  putFail { old with since := if first = some rn then some (old.since.getD s.refclk) else none, last := s.refclk } s

/-- A success on a core ends the measurement and the hold. -/
def noteSuccess (core rn : Nat) (s : State) : State :=
  { s with fails := s.fails.map fun f => if f.core = core ∧ f.record = rn then { f with since := none, hold := false } else f }

/-- A record that is no longer first is not measured. -/
def notFirst (core : Nat) (first : Option Nat) (s : State) : State :=
  { s with fails := s.fails.map fun f =>
      if f.core = core ∧ some f.record ≠ first then { f with since := none } else f }

/-- The record a core's agent is held to (R100). -/
def heldRecord (s : State) (core : Nat) : Option Nat :=
  (s.fails.find? fun f => f.core == core && f.hold && match sfind s.board f.record with
    | some r => claimable s f.record r
    | none => false).map fun f => f.record

/-- The first record of an order that an agent can claim from, and those it failed to. -/
def claimFrom (core : Nat) (s : State) : List (Nat × LaunchRec) → List Nat → Option (Nat × LaunchRec × Got) × List Nat
  | [], bad => (none, bad)
  | (rn, r) :: es, bad =>
    if !mayClaim s core r then claimFrom core s es bad
    else match tryRecord core rn r s with
      | .failed => claimFrom core s es (bad ++ [rn])
      | g => (some (rn, r, g), bad)

/-- A claim of a core's agent. `bonded` tells which kind of claim the event is: the other kind is left to the other. -/
def claim (core : Nat) (bonded : Bool) (s : State) : State :=
  let order := scanOrder s
  let first := order.head?.map fun e => e.1
  let mine := match heldRecord s core with
    | some rn => order.filter fun e => e.1 == rn
    | none => order
  match claimFrom core s mine [] with
  | (none, bad) => bad.foldl (noteFail core first) (notFirst core first s)
  | (some (rn, r, g), bad) =>
    if decide (1 < gangSize r) != bonded then s
    else
      let note (s : State) : State := bad.foldl (noteFail core first) (notFirst core first s)
      match g with
      | .placed s1 => note (noteSuccess core rn s1)
      | .void s1 => note s1
      | .asked s1 => note s1
      | .failed => s

/-- WORKGROUP_CLAIM (R81). Env: `core`. -/
def execWorkgroupClaim (s : State) : Host.Outcome State Fault Refusal := .next (claim s.env.core false s)

/-- GANG_CLAIM (R82). Env: `core` of the lead agent. -/
def execGangClaim (s : State) : Host.Outcome State Fault Refusal := .next (claim s.env.core true s)

/-- The members of a hold request reserved so far. -/
def pendingMembers (s : State) (cl rn : Nat) : List Nat :=
  (s.wgs.filter fun e => e.2.bonded && e.2.record == rn && e.2.ticket == noTicket && clusterOf (keyCore e.1) % 12 == cl).map
    fun e => e.1

/-- GANG_HOLD_REQUEST (R106): the mirror's lead agent reserves every named core or none. Env: `core` the die-0 cluster. -/
def execGangHoldRequest (s : State) : Host.Outcome State Fault Refusal :=
  let cl := s.env.core
  .next (match sfind s.claims cl with
    | none => s
    | some h =>
      match sfind s.board h.record with
      | none => s
      | some r =>
        if h.answer ≠ 0 then s
        else match reserveAt cl h.record r h.entry true (0, h.col) s with
          | some (_, s1) => { s1 with claims := sset s1.claims cl { h with answer := 1 } }
          | none => { s with claims := sset s.claims cl { h with answer := 2 } })

/-- A refused hold: the reservations of die 0 go, and the next columns are tested, or the attempt has failed. -/
def refused (cl : Nat) (h : HoldReq) (r : LaunchRec) (s : State) : State :=
  let s1 := { abandon (pendingMembers s cl h.record) s with claims := sdel s.claims cl }
  match firstOrigin cl h.record (h.col + 1) r h.entry s1 with
  | some (o, _, s2) => { s2 with claims := sset s2.claims cl { h with col := o.2, answer := 0 } }
  | none => noteFail (agentCore s1 cl) ((scanOrder s1).head?.map fun e => e.1) s1 h.record

/-- GANG_HOLD_ANSWER (R106). A record that has gone frees what was reserved, as a void ticket would. Env: `core` the die-0
cluster. -/
def execGangHoldAnswer (s : State) : Host.Outcome State Fault Refusal :=
  let cl := s.env.core
  .next (match sfind s.claims cl with
    | none => s
    | some h =>
      match sfind s.board h.record with
      | none => { abandon (pendingMembers s cl h.record) s with claims := sdel s.claims cl }
      | some r =>
        if h.answer = 0 then s
        else if h.answer = 2 then refused cl h r s
        else
          let s1 := { s with claims := sdel s.claims cl }
          match nameGang h.record h.entry (pendingMembers s cl h.record) s1 with
          | .placed s2 => noteSuccess (agentCore s2 cl) h.record s2
          | .void s2 => s2
          | .asked s2 => s2
          | .failed => s1)

/-- HEAD_OF_LINE_HOLD (R100): a record with a ticket or an entry left to claim, and only that. Env: `core`. -/
def execHeadOfLineHold (s : State) : Host.Outcome State Fault Refusal :=
  let core := s.env.core
  .next (match (scanOrder s).head? with
    | none => s
    | some (rn, _) =>
      match failOf s core rn with
      | some f => match f.since with
        | some t => if hasWork s rn && decide (100000 ≤ s.refclk - t) then putFail { f with hold := true } s else s
        | none => s
      | none => s)

/-! ### Release -/

/-- Whether a reserved workgroup can be released: it has a ticket and its banks are ready. -/
def releasable (s : State) (wk : Nat) : Bool :=
  match sfind s.wgs wk with
  | some w => w.ticket != noTicket && banksReady s wk w
  | none => false

/-- The members to release: a gang is released as a whole. -/
def releaseSet (s : State) (wk : Nat) : List Nat :=
  (gangOf s wk).filter fun k => match sfind s.wgs k with | some w => !w.released && !w.firmware | none => false

/-- On a core that waits for its ironing pass a released workgroup is stopped at once. -/
def ironStop (s : State) (wk : Nat) : State :=
  if (sget IronSt.reset s.irons (keyCore wk)).phase = 1 then requestStop wk true s else s

/-- GROUP_RELEASE (R98). Env: `core`, `slot` the workgroup. -/
def execGroupRelease (s : State) : Host.Outcome State Fault Refusal :=
  let ks := releaseSet s (wkey s.env.core s.env.slot)
  .next (if ks.isEmpty || !ks.all (releasable s) then s
    else ks.foldl ironStop (ks.foldl (fun s k => releaseWg k s) s))

/-! ### Slices, stops, drains -/

/-- Contention (R111): a record of another context at or above the workgroup's PRIO that its agent failed to place in the
last 1 ms. -/
def contended (s : State) (core : Nat) (w : Wg) : Bool :=
  let prio := match sfind s.board w.record with | some r => r.prio | none => 0
  s.board.any fun e => claimable s e.1 e.2 && e.2.asid != w.asid && decide (prio ≤ effPrio s e.2)
    && match failOf s (placingCore s core w) e.1 with
      | some f => decide (s.refclk - f.last ≤ 100000)
      | none => false

/-- E advances by SLICE, for every member of a gang. -/
def nextSlice (wk : Nat) (w : Wg) (s : State) : State :=
  let slice := match ctxOf s w.asid with | some c => 100 * c.slice | none => 0
  (gangOf s wk).foldl (fun s k => modWg s k fun w => { w with sliceEnd := w.sliceEnd + slice }) s

/-- SLICE_CONTENTION_TEST (R111): the stop of a core that waits for its pass is asked for again then (DEDUCED, log 61). Env:
`core`, `slot` the workgroup. -/
def execSliceContentionTest (s : State) : Host.Outcome State Fault Refusal :=
  let core := s.env.core
  let wk := wkey core s.env.slot
  .next (match sfind s.wgs wk with
    | none => s
    | some w =>
      if w.firmware || !w.released || w.stopping || (drainFor s wk).isSome
          || decide (s.refclk + 100 * w.drain < w.sliceEnd) then s
      else
        let iron := (sget IronSt.reset s.irons core).phase == 1
        if !iron && !contended s core w then nextSlice wk w s
        else if poolTakes s wk then requestStop wk iron s
        else nextSlice wk w (requestStop wk iron s))

/-- STOP_REQUEST (R113): a request that was sent arrives. Env: `core`, `slot` the workgroup. -/
def execStopRequest (s : State) : Host.Outcome State Fault Refusal :=
  .next (arriveStop (wkey s.env.core s.env.slot) s)

/-! ### Ironing state (R148, R149, R151) -/

def ironOf (s : State) (core : Nat) : IronSt := sget IronSt.reset s.irons core
def modIron (core : Nat) (f : IronSt → IronSt) (s : State) : State :=
  { s with irons := sput IronSt.reset s.irons core (f (ironOf s core)) }

/-- Whether ironing is in force in a core's cluster (R151): EN, or while a pass that a write of EN met still runs there, what
EN was before that write. A pass begun since then holds nothing up. -/
def ironOn (s : State) (core : Nat) : Bool :=
  (((List.range 16).filterMap fun k => (ironOf s (16 * clusterOf core + k)).late).head?).getD s.boot.ironEn

/-- A write of EN: each pass that runs keeps what was in force until it ends (R151). -/
def writeIronEn (en : Bool) (s : State) : State :=
  let keep (e : Nat × IronSt) : IronSt :=
    if e.2.phase = 0 ∨ e.2.late.isSome then e.2 else { e.2 with late := some (ironOn s e.1) }
  let s1 := if en = s.boot.ironEn then s else { s with irons := s.irons.map fun e => (e.1, keep e) }
  { s1 with boot := { s1.boot with ironEn := en } }

/-- A pass of a core begins: claims are held, and every workgroup on it, with its gang, is stopped (R147, R148). -/
def startIron (core : Nat) (s : State) : State :=
  if (ironOf s core).phase ≠ 0 then s
  else (wgsOn s core).foldl (fun s e => requestStop e.1 true s)
    (modIron core (fun x => { x with phase := 1, skips := 0 }) s)

/-- One workgroup more of a launch in a list of entries. -/
def countProv (asid queue tag : Nat) : List ProvEnt → List ProvEnt
  | [] => [⟨asid, queue, tag, 1⟩]
  | e :: es =>
    if e.asid = asid ∧ e.queue = queue ∧ e.tag = tag then { e with count := min (e.count + 1) 0xFFFF } :: es
    else e :: countProv asid queue tag es

/-- A workgroup retires on a core: its launch is provisional there; a 65th one has the core ironed at once (R149). -/
def noteProv (core : Nat) (r : LaunchRec) (s : State) : State :=
  if !ironOn s core then s
  else
    let x := ironOf s core
    let here := x.table.any fun e => e.asid == r.asid && e.queue == r.queue && e.tag == r.tag
    if here || decide (x.table.length < 64) then
      modIron core (fun x => { x with table := countProv r.asid r.queue r.tag x.table }) s
    else startIron core (modIron core (fun x => { x with waiting := countProv r.asid r.queue r.tag x.waiting }) s)

/-! ### Retirement (R83, R107, R135, R212) -/

/-- Whether an engine still holds a command of a workgroup. -/
def cmdsLeft (s : State) (wk : Nat) : Bool :=
  let mine (c : Cmd) : Bool := c.wg == wk
  (s.mx.any fun e => e.2.queue.any fun x => mine x.cmd)
    || (s.cp.any fun e => e.2.any fun x => x.packet.isNone && mine x.cmd)
    || (s.lk.any fun e => e.2.any fun x => mine x.cmd)
    || (swOf s (keyCore wk)).wg == some (keyNum wk) && ((swOf s (keyCore wk)).starting.isSome
      || !(swOf s (keyCore wk)).pulls.isEmpty || !(swOf s (keyCore wk)).patch.isEmpty)

/-- Whether a workgroup's groups have all retired and its engine commands have completed (R212). -/
def mayRetire (s : State) (wk : Nat) : Bool :=
  match sfind s.wgs wk with
  | some w => w.released && !w.firmware && w.image.isNone && (groupsOfWg s wk).isEmpty && !cmdsLeft s wk
  | none => false

/-- A drain that a retiring member stands for passes to another member of its gang. -/
def passDrain (wk : Nat) (s : State) : State :=
  match (gangOf s wk).find? fun k => k != wk with
  | none => s
  | some k => { s with drains := s.drains.map fun d =>
      if d.core = keyCore wk ∧ d.wg = keyNum wk then { d with core := keyCore k, wg := keyNum k } else d }

/-- A member that retires leaves its engine leased; the last one ends the lease (R107, R449). -/
def leaveLease (wk : Nat) (w : Wg) (last : Bool) (s : State) : State :=
  match if w.bonded then gangLease s w else none with
  | none => s
  | some l =>
    if last then endLease l s else bondSettle (keyCore wk) (setLease { l with retired := keyCore wk :: l.retired } s)

/-- DONE of a workgroup's record; the add that brings it to TOTAL completes the launch (R83). -/
def addDone (core rn : Nat) (s : State) : State :=
  match sfind s.board rn with
  | none => s
  | some r =>
    if r.done + 1 = r.total then completeLaunch core rn (modRec s rn fun r => { r with done := r.done + 1, st := 3 })
    else modRec s rn fun r => { r with done := r.done + 1 }

/-- A workgroup retires: an uncommitted store buffer drains first (R135). -/
def retireWg (wk : Nat) (s : State) : State :=
  if !mayRetire s wk then s
  else
    let s0 := if wgBuffers s wk then commitWg wk s else s
    match sfind s0.wgs wk with
    | none => s0
    | some w =>
      if !w.sbuf.isEmpty then s0
      else
        let core := keyCore wk
        let last := gangOf s0 wk == [wk]
        let s1 := if w.sw && (swOf s0 core).wg == some (keyNum wk) then retireSweep core s0 else s0
        if cmdsLeft s1 wk then s1
        else
          let s2 := leaveLease wk w last (freeWg wk (passDrain wk s1))
          let s3 := match sfind s2.board w.record with
            | some r => noteProv core r s2
            | none => s2
          if last then addDone core w.record s3 else s3

/-- WORKGROUP_RETIRE (R83). Env: `core`, `slot` the workgroup. -/
def execWorkgroupRetire (s : State) : Host.Outcome State Fault Refusal :=
  .next (retireWg (wkey s.env.core s.env.slot) s)

/-- DRAIN_COMPLETE (R115, R116): members that can retire do so first (R121). Env: `core`, `slot` the workgroup. -/
def execDrainComplete (s : State) : Host.Outcome State Fault Refusal :=
  let wk := wkey s.env.core s.env.slot
  let ks := gangOf s wk
  let s1 := ks.foldl (fun s k => retireWg k s) s
  match ks.find? fun k => (sfind s1.wgs k).isSome with
  | none => .next s1
  | some k => .next (completeDrain k s1)

/-! ### Ironing (R147 to R151) -/

/-- Whether a core holds a member of a gang. -/
def holdsGang (s : State) (core : Nat) : Bool := (leaseOf s core).isSome || (wgsOn s core).any fun e => e.2.bonded

/-- The gang whose lease a core's engine stands in is stopped. -/
def stopLease (core : Nat) (s : State) : State :=
  match leaseOf s core with
  | none => s
  | some l =>
    match s.wgs.find? fun e => e.2.bonded && e.2.record == l.record && e.2.ticket == l.ticket with
    | some e => requestStop e.1 true s
    | none => s

/-- The next unfenced core of a cluster from a place on, ascending, then from the first. -/
def turnCore (s : State) (cl from' : Nat) : Option Nat :=
  ((List.range 16).map fun k => 16 * cl + (from' + k) % 16).find? fun c =>
    (s.boot.coresok.getD (c / 32) 0).testBit (c % 32)

/-- IRONING_TURN (R147, R148): every PERIOD / 16 a cluster's next core has its turn. Env: `core` the cluster (DEDUCED, log
28). -/
def execIroningTurn (s : State) : Host.Outcome State Fault Refusal :=
  let cl := s.env.core
  let c := clusterSt s cl
  .next (match turnCore s cl c.turn with
    | none => s
    | some core =>
      if !ironOn s core || decide (s.refclk < c.turnAt) then s
      else
        let s1 := modCluster s cl fun c =>
          { c with turn := (core % 16 + 1) % 16, turnAt := s.refclk + 6250 * max 10 s.boot.ironPeriod }
        if holdsGang s core && decide ((ironOf s core).skips < 2) then
          modIron core (fun x => { x with skips := x.skips + 1 }) s1
        else startIron core (stopLease core s1))

/-- IRONING_SCAN_START (R147): the core is drained, and its patterns run. Env: `core`. -/
def execIroningScanStart (s : State) : Host.Outcome State Fault Refusal :=
  let core := s.env.core
  .next (if (ironOf s core).phase = 1 ∧ (wgsOn s core).isEmpty ∧ (leaseOf s core).isNone then
      modIron core (fun x => { x with phase := 2 }) s
    else s)

/-- Provisional tables are kept only while ironing is in force. -/
def clearTables (s : State) : State :=
  { s with irons := s.irons.filterMap fun e =>
      let x := if ironOn s e.1 then e.2 else { e.2 with table := [], waiting := [] }
      if x = IronSt.reset then none else some (e.1, x) }

/-- A passing pass empties the table; entries that waited for its end enter (DEDUCED, log 28). -/
def passScan (core : Nat) (s : State) : State :=
  clearTables (modIron core (fun x =>
    { x with phase := 0, late := none, lastPass := s.refclk, table := x.waiting, waiting := [] }) s)

/-- Entries in pieces of four. -/
def fours : Nat → List ProvEnt → List (List ProvEnt)
  | 0, _ => []
  | n + 1, es => if es.isEmpty then [] else es.take 4 :: fours n (es.drop 4)

/-- The suspect events of a failing core, then its fence event (R150, R153). -/
def postSuspects (core pattern : Nat) (es : List ProvEnt) (lastPass : Nat) (s : State) : State :=
  let recs := fours (es.length + 1) es
  let body (k : Nat) (l : List ProvEnt) : List Byte :=
    leBytes 2 core ++ leBytes 1 pattern ++ leBytes 1 l.length ++ leBytes 4 (if k + 1 = recs.length then 1 else 0)
      ++ l.flatMap fun e => leBytes 2 e.asid ++ leBytes 2 e.queue ++ leBytes 2 e.tag ++ leBytes 2 e.count
  let s1 := (recs.mapIdx fun k l => body k l).foldl (fun s b => postEvent 0x14 0 b s) s
  postEvent 0x15 0 (leBytes 2 core ++ leBytes 2 pattern ++ leBytes 4 recs.length ++ leBytes 8 lastPass) s1

/-- A core is fenced; the last one of a cluster fences the cluster, whose queues are reassigned (R73, R150). -/
def fenceCore (core : Nat) (s : State) : State :=
  let cl := clusterOf core
  let s1 := { s with boot := { s.boot with
    coresok := modAt s.boot.coresok (core / 32) fun x => if x.testBit (core % 32) then x - 2 ^ (core % 32) else x } }
  let left := (List.range 16).any fun k =>
    (s1.boot.coresok.getD ((16 * cl + k) / 32) 0).testBit ((16 * cl + k) % 32)
  let s2 := if left || !s1.boot.clustok.testBit cl then s1
    else reassignQueues cl { s1 with boot := { s1.boot with clustok := s1.boot.clustok - 2 ^ cl } }
  leaveCore core s2

/-- IRONING_SCAN_COMPLETE (R150). Env: `core`, `flag` the core passed, `value` the failing pattern. -/
def execIroningScanComplete (s : State) : Host.Outcome State Fault Refusal :=
  let core := s.env.core
  let x := ironOf s core
  .next (if x.phase ≠ 2 then s
    else if s.env.flag then passScan core s
    else
      let s1 := postSuspects core s.env.value (x.table ++ x.waiting) x.lastPass
        (modIron core (fun _ => { IronSt.reset with lastPass := x.lastPass }) s)
      clearTables (fenceCore core s1))

end Sys2Proof.Machine
end

