-- ==== Sys2Proof/Machine/Resets.lean ====
section
/-! DEFINITION. Bring-up (R36 to R38), resets (R40, R41, R494), authentication (R45 to R47) and ownership (R48 to R51). -/

namespace Sys2Proof.Machine

/-! ### What a reset keeps -/

/-- Cells outside local memory: host and peer memory. -/
def outsideCells (m : List Host.Cell) : List Host.Cell := m.filter fun e => decide (2 ^ 50 ≤ e.1)
def outsidePoison (p : NatSet) : NatSet := p.filter fun e => decide (2 ^ 45 ≤ e.1)

/-- The persistent fused state, with the ownership mailbox cleared. -/
def fused (o : Owner) : Owner :=
  { Owner.reset with
    serial := o.serial, epoch := o.epoch, keys := o.keys, released := o.released, makerHash := o.makerHash, minSvn := o.minSvn }

/-- All volatile state goes (R40): what stays is fused, outside the device, or the model's own. -/
def clearVolatile (s : State) : State :=
  { State.reset with
    tick := s.tick, env := s.env, agenda := s.agenda, msix := s.msix, owner := fused s.owner
    boot := { Boot.reset with owned := s.boot.owned }
    mem := outsideCells s.mem, poison := outsidePoison s.poison }

/-- A reset that leaves PERST# asserted or not, and the start running or not. -/
def restarted (power perst started pcie : Bool) (s : State) : State :=
  let s1 := clearVolatile s
  { s1 with boot := { s1.boot with power := power, perst := perst, started := started, pcie := pcie } }

/-- COLD_RESET (R40): power is applied. -/
def execColdReset (s : State) : Host.Outcome State Fault Refusal := .next (restarted true true false false s)

/-- WARM_RESET (R40): PERST# is asserted. -/
def execWarmReset (s : State) : Host.Outcome State Fault Refusal :=
  .next (if s.boot.power then restarted true true false false s else s)

/-- A warm reset without PERST#: start reruns from step 1, and the endpoint's link stays. -/
def warmReset (s : State) : State := restarted true false true s.boot.pcie s

/-- POWER_LOSS (R49). -/
def execPowerLoss (s : State) : Host.Outcome State Fault Refusal := .next (restarted false true false false s)

/-- The junction temperature of the hard shutdown, in °C (R52). -/
def shutdownAt : Int := 115

/-- THERMAL_SHUTDOWN (R52): a sensor reads the temperature of the hard shutdown. -/
def execThermalShutdown (s : State) : Host.Outcome State Fault Refusal :=
  .next (if s.sensors.any fun e => decide (shutdownAt ≤ e.2) then restarted false true false false s else s)

/-- A sensor takes a new reading; one at the hard shutdown's has it happen next (R52). -/
def takeReading (k : Nat) (t : Int) (s : State) : State :=
  { s with
    sensors := sset s.sensors k t
    agenda := if shutdownAt ≤ t then .event .thermalShutdown Env.reset :: s.agenda else s.agenda }

/-- Firmware reads a sensor (R52): the rules name no register for it, so the reading stands as the last answer, in two's
complement; a sensor that has taken none reads 0 (DESIGN CHOICE, log 57). -/
def readSensor (k : Nat) (s : State) : State :=
  { s with completion := some (0 :: leBytes 4 (wrapInt 32 (sget 0 s.sensors k))) }

/-- Whether an ownership release is in progress (R41). -/
def releasing (s : State) : Bool := s.owner.go && s.owner.op == 2

/-- The caches of the package are empty. -/
def clearCaches (s : State) : State :=
  { s with
    clusters := s.clusters.map fun e => (e.1, { e.2 with l2 := [], merges := [] })
    cores := s.cores.filterMap fun e =>
      let c := { e.2 with l1 := [] }
      if c = CoreSt.reset then none else some (e.1, c)
    units := [], sidecar := [], residency := [] }

/-- A function reset (R40, R494): contexts, queues, the work board, caches, apertures and the feature lock go, all HBM is
washed, PHASE returns to 5 (DESIGN CHOICE, log 35). -/
def functionReset (s : State) : State :=
  let s1 := s.ctxs.foldl (fun s e => endContext e.1 s) (clearCaches s)
  { s1 with
    queues := [], board := [], saves := [], images := [], leases := [], drains := [], kills := [], fails := [], claims := []
    holds := [], migration := none, reported := [], retries := [], hostReads := [], troubles := []
    mem := washed s1.boot s1.mem, poison := outsidePoison s1.poison
    boot := { s1.boot with
      phase := 5, wash := true, featlock := false, feaerr := false, apercfg := List.replicate 16 0 } }
where
  /-- The wash leaves the firmware that start step 6 loaded where it stands (R40). -/
  washed (b : Boot) (m : List Host.Cell) : List Host.Cell :=
    if b.loaded then putBytes (outsideCells m) b.agentEntry b.agentCode else outsideCells m

/-- A function reset takes place once start has reached PHASE 5; before, it is absorbed into the reset in progress (R41), and
a failed device stays failed until a warm or cold reset (R142). -/
def askFunctionReset (s : State) : State := if s.boot.phase = 5 ∨ s.boot.phase = 6 then functionReset s else s

/-- FUNCTION_LEVEL_RESET (R40). -/
def execFunctionLevelReset (s : State) : Host.Outcome State Fault Refusal := .next (askFunctionReset s)

/-- FUNCTION_RESET_WASH_END (R494). -/
def execFunctionResetWashEnd (s : State) : Host.Outcome State Fault Refusal :=
  .next { s with boot := { s.boot with wash := false } }

/-- A write to RESETCTL (R40, R41). -/
def writeResetctl (x : Nat) (s : State) : State :=
  if releasing s then s
  else if x.testBit 1 then warmReset s
  else if x.testBit 0 then askFunctionReset s
  else s

/-- Whether the endpoint takes memory requests. -/
def endpointUp (s : State) : Bool := s.boot.power && !s.boot.perst && s.boot.pcie

/-- WARM_RESET_REQUEST (R40). -/
def execWarmResetRequest (s : State) : Host.Outcome State Fault Refusal :=
  .next (if endpointUp s then writeResetctl 2 s else s)

/-- FUNCTION_RESET_REQUEST (R40). -/
def execFunctionResetRequest (s : State) : Host.Outcome State Fault Refusal :=
  .next (if endpointUp s then writeResetctl 1 s else s)

/-! ### Bring-up (R36, R37) -/

/-- PERST_DEASSERT (R36): start begins. -/
def execPerstDeassert (s : State) : Host.Outcome State Fault Refusal :=
  .next (if s.boot.power && s.boot.perst then { s with boot := { s.boot with perst := false, started := true } } else s)

/-- PCIE_LINK_TRAINED (R38). -/
def execPcieLinkTrained (s : State) : Host.Outcome State Fault Refusal :=
  .next (if s.boot.power && !s.boot.perst then { s with boot := { s.boot with pcie := true } } else s)

/-- PHASE becomes 7 with a FAILCODE, and the device stops. -/
def bootFails (code : Nat) (s : State) : State := { s with boot := { s.boot with phase := 7, failcode := code } }

def bootPhase (n : Nat) (s : State) : State := { s with boot := { s.boot with phase := n } }

/-! Authentication (R45 to R47). -/

def cut (b : List Byte) (o n : Nat) : List Byte := (b.drop o).take n
def zeros (b : List Byte) : Bool := b.all fun x => x == 0

/-- The owner key slot that an image's modulus names. -/
def ownerSlot (s : State) (b : List Byte) : Option Nat :=
  firstBelow s.owner.keys.length fun k => s.owner.keys[k]? == some (sha512 (cut b 0x458 512))

/-- The FAILCODE of an image, or none (PRESUMED, log 36). An image that is not as long as its header and payload fails check
5 (DESIGN CHOICE, log 57). -/
def imageFails (s : State) (b : List Byte) : Option Nat :=
  let kind := bytesAt b 8 4
  let len := bytesAt b 0x10 8
  let sig (key o n : Nat) : Bool := pssVerifies (cut b key 512) (sha512 (cut b 0 n)) (cut b o 512)
  if bytesAt b 0 4 ≠ 0x56504831 ∨ bytesAt b 4 4 ≠ 1 ∨ kind < 1 ∨ 4 < kind then some 6
  else if sha512 (cut b 0x58 512) ≠ s.owner.makerHash ∨ !sig 0x58 0x258 0x58 then some 1
  else if s.boot.owned && !((ownerSlot s b).isSome && sig 0x458 0x658 0x458) then some 2
  else if !s.boot.owned && !zeros (cut b 0x458 1024) then some 2
  else if bytesAt b 0xC 4 < s.owner.minSvn.getD (kind - 1) 0 then some 3
  else if sha512 (cut b 0x858 len) ≠ cut b 0x18 64 ∨ b.length ≠ 0x858 + len then some 6
  else none

/-- An accepted image is measured (R47). The slot recorded while OWNED is 0, where no owner key is named, is 0; a full log
takes no entry and H does not change (DESIGN CHOICE, log 57). The payload of the agent image is kept for step 6. -/
def measure (b : List Byte) (s : State) : State :=
  let slot := if s.boot.owned then (ownerSlot s b).getD 0 else 0
  let e : AttEnt := ⟨bytesAt b 8 4, bytesAt b 0xC 4, slot, sha512 b⟩
  let code := if e.kind = 4 then cut b 0x858 (bytesAt b 0x10 8) else s.boot.agentCode
  if 64 ≤ s.boot.attLog.length then { s with boot := { s.boot with agentCode := code } }
  else { s with boot := { s.boot with
    agentCode := code
    attLog := s.boot.attLog ++ [e]
    attH := sha512 (s.boot.attH ++ Config.attEntry e.kind e.svn e.slot e.digest) } }

/-- Images are authenticated and measured in order; the first that fails stops the device. -/
def authenticateAll : List (List Byte) → State → State
  | [], s => bootPhase 2 s
  | b :: bs, s => match imageFails s b with
    | some c => bootFails c s
    | none => authenticateAll bs (measure b s)

/-- Start step 2 (R36, R46): the boot-block, HBM-training, SerDes and agent images must all be there; one that is not has no
magic (DEDUCED, log 59). -/
def authenticate (blobs : List (List Byte)) (s : State) : State :=
  let all := [1, 2, 3, 4].all fun k => blobs.any fun b => bytesAt b 8 4 == k
  let s1 := authenticateAll blobs s
  if s1.boot.phase = 2 && !all then bootFails 6 s1 else s1

/-- The end of a recorded release (R48, R49): the owner keys are erased, OWNED is clear. -/
def eraseOwner (s : State) : State :=
  { s with
    owner := { s.owner with keys := [], released := false }
    boot := { s.boot with owned := false } }

/-- The pairs of stacks in the order they train: the first of each (R36). -/
def stackPair (k : Nat) : Nat := 2 * (k / 2) + 8 * (k % 2)

/-- A pair of HBM stacks has trained, or not. -/
def trainStacks (m : Nat) (s : State) : State :=
  let k := stackPair s.boot.pairs
  let s1 := { s with boot := { s.boot with pairs := s.boot.pairs + 1, hbmok := s.boot.hbmok ||| (m % 4) * 2 ^ k } }
  if m % 4 ≠ 3 then bootFails 4 s1 else if s1.boot.pairs = 8 then bootPhase 3 s1 else s1

/-- A cluster's power-on scan is done: its shared part, and the cores that passed (R37); the governors of its engines begin
their ramp. -/
def scanCluster (good : Bool) (cores : Nat) (s : State) : State :=
  let k := s.boot.clusters
  let cl := k / 2 + 12 * (k % 2)
  let m := if good then cores % 65536 else 0
  let ok (s : State) : State :=
    { s with boot := { s.boot with
      clustok := s.boot.clustok ||| 2 ^ cl
      coresok := modAt s.boot.coresok (cl / 2) fun x => x ||| m * 2 ^ (16 * (cl % 2)) } }
  let s1 := if m = 0 then s else ok s
  let s2 := (List.range 16).foldl (fun s c =>
    if m.testBit c then modMx s (16 * cl + c) fun x => { x with ramp := some s.refclk } else s) s1
  let s3 := { s2 with boot := { s2.boot with clusters := k + 1 } }
  if k + 1 = 24 then bootPhase 4 s3 else s3

/-- A set of three ports has trained: those that the straps enable are up or failed. PHASE is 5 from the last set on, while
the agents load and after (R36's table). -/
def trainSet (straps lanes peers : Nat) (s : State) : State :=
  let k := s.boot.sets
  let one (s : State) (j : Nat) : State :=
    let n := 3 * k + j
    let m := field lanes (8 * j) 8
    if straps.testBit j then
      trained n m (field peers (10 * j) 10) (modPort n (fun p => { p with enable := true }) s)
    else s
  let s1 := (List.range 3).foldl one s
  let s2 := { s1 with boot := { s1.boot with sets := k + 1 } }
  if k + 1 = 6 then bootPhase 5 s2 else s2

/-- The vector registers of a firmware slot's group: all that an instruction can name, beside the carved register file; the
rules give it no allotment, and forms that need them (R210, R476) (DESIGN CHOICE, log 33). -/
def fwVregs : Nat := 256

/-- The agent's group in the firmware slot of a core: ASID 0, its entry. -/
def loadAgent (entry : Nat) (s : State) (core : Nat) : State :=
  let d : Desc := ⟨false, false, 0, 0, 0, 0, 0, [], []⟩
  let i : WgId :=
    { asid := 0, record := 0, index := 0, ticket := 0, bonded := false, brow := 0, bcol := 0, restartable := false
      gx := 0, gy := 0, gz := 0, banks := List.replicate 8 0, drain := 0, attempt := 0, restores := 0, image := none }
  let w := { newWg d i [fwSlot] 0 0 0 0 0 0 0 0 with firmware := true, released := true }
  { s with
    wgs := sset s.wgs (wkey core fwSlot) w
    groups := sset s.groups (gkey core fwSlot) (newGroup fwSlot 0 0 (0, entry, fwVregs)) }

/-- Agent firmware, the payload of the authenticated agent image, loads into every firmware slot and runs there (log 33). -/
def loadAgents (entry : Nat) (s : State) : State :=
  let code := s.boot.agentCode
  let s1 := memPut { s with boot := { s.boot with loaded := true, agentEntry := entry } } entry code
  if code.isEmpty then s1
  else ((List.range 384).filter fun c => coreLive s1 c).foldl (loadAgent entry) s1

/-- START_STEP_COMPLETE (R36, R37): the next step of start is done. Env: step 1 `flag` the seam holds; step 2 `blobs` the
images; step 3 `mask` the stacks of the pair that trained; step 4 `flag` the cluster's shared part passed, `mask` its
cores that did; step 5 `mask` the ports that the straps enable, `value` the lanes that trained and `size` the peers'
DEVIDs, port by port; step 6 `addr` where the agents' code is put and entered. -/
def execStartStepComplete (s : State) : Host.Outcome State Fault Refusal :=
  .next (if !s.boot.power || s.boot.perst || !s.boot.started then s
    else match s.boot.phase with
      | 0 =>
        let s1 := if s.owner.released then eraseOwner s else s
        if s.env.flag then bootPhase 1 s1 else bootFails 5 s1
      | 1 => authenticate s.env.blobs s
      | 2 => trainStacks s.env.mask s
      | 3 => scanCluster s.env.flag s.env.mask s
      | 4 => trainSet s.env.mask s.env.value s.env.size s
      | 5 => if s.boot.loaded then s else loadAgents s.env.addr s
      | 6 => if s.boot.loaded then s else loadAgents s.env.addr s
      | _ => s)

/-! ### Configuration requests (R13, R14, R36, R38) -/

/-- The size of a BAR (DEDUCED, log 48). -/
def barSize (s : State) (n : Nat) : Nat :=
  match n with
  | 0 => 2 ^ 26
  | 2 => if s.boot.phase = 7 then 0 else 2 ^ 40
  | 4 => if s.boot.phase = 7 then 0 else 2 ^ 24
  | _ => 0

/-- CONFIG_REQUEST (R36, R38). Env: `index` the BAR whose size is asked for, or 6 for the vectors that the MSI-X capability
offers: none in PHASE 7 (R13, R38). -/
def execConfigRequest (s : State) : Host.Outcome State Fault Refusal :=
  .next (if !endpointUp s then s
    else if s.boot.phase < 5 then { s with completion := some [1] }
    else if s.env.index = 6 then { s with completion := some (0 :: leBytes 8 (if s.boot.phase = 7 then 0 else 2048)) }
    else { s with completion := some (0 :: leBytes 8 (barSize s s.env.index)) })

/-! ### Ownership (R48 to R51) -/

/-- An ownership request ends with a STATUS. -/
def ownDone (status : Nat) (s : State) : State := { s with owner := { s.owner with go := false, status := status } }

def ownAsked (s : State) (op : Nat) : Bool := s.owner.go && s.owner.op == op

/-- FETCH_NONCE (R50). Env: `bytes` what the generator draws. -/
def execFetchNonce (s : State) : Host.Outcome State Fault Refusal :=
  .next (if ownAsked s 1 then
      ownDone 0 { s with owner := { s.owner with nonce := fitBytes 32 s.env.bytes, fetched := true } }
    else s)

/-- The STATUS of a submitted record, or none where it passes (R50, R51) (PRESUMED, log 36). Where several apply the first of
4, 2, 5, 3, 1 is reported (DESIGN CHOICE, log 57). -/
def releaseFails (s : State) : Option Nat :=
  let b := s.owner.relrec
  let slot := bytesAt b 8 4
  if !s.boot.owned then some 4
  else if !s.owner.fetched then some 2
  else if bytesAt b 0 4 ≠ 0x56504F52 ∨ bytesAt b 4 4 ≠ 1 ∨ 3 < slot ∨ bytesAt b 0xC 4 ≠ 0 ∨ bytesAt b 0x28 8 ≠ 0
      ∨ !zeros (cut b 0x450 0xB0) then some 5
  else if bytesAt b 0x10 16 ≠ s.owner.serial ∨ bytesAt b 0x20 8 ≠ s.owner.epoch ∨ cut b 0x30 32 ≠ s.owner.nonce then some 3
  else if s.owner.keys[slot]? ≠ some (sha512 (cut b 0x50 512))
      ∨ !pssVerifies (cut b 0x50 512) (sha512 (cut b 0 0x250)) (cut b 0x250 512) then some 1
  else none

/-- NONCE is spent by any submit. -/
def spendNonce (s : State) : State :=
  { s with owner := { s.owner with nonce := List.replicate 32 0, fetched := false } }

/-- A record that passes is recorded, and the epoch rises (R48 step 3). -/
def recordRelease (s : State) : State :=
  let s1 := spendNonce s
  { s1 with owner := { s1.owner with released := true, epoch := s1.owner.epoch + 1 } }

/-- SUBMIT_RELEASE (R48): the record is verified and the release recorded; a further event carries it out, so that a loss of
power may come between (R49). -/
def execSubmitRelease (s : State) : Host.Outcome State Fault Refusal :=
  .next (if !ownAsked s 2 then s
    else if s.owner.released then warmReset (eraseOwner s)
    else match releaseFails s with
      | some c => ownDone c (spendNonce s)
      | none => recordRelease s)

/-- OWNERSHIP_RESERVED_OP (R50). -/
def execOwnershipReservedOp (s : State) : Host.Outcome State Fault Refusal :=
  .next (if s.owner.go && s.owner.op != 1 && s.owner.op != 2 then ownDone 6 s else s)

/-- OWNER_KEY_PROVISIONING (R48): whenever there is power and OWNED is 0, with no check of the image that brings the hashes
(DESIGN CHOICE, log 57). Env: `blobs` up to four owner key hashes. -/
def execOwnerKeyProvisioning (s : State) : Host.Outcome State Fault Refusal :=
  .next (if s.boot.power && !s.boot.owned && !s.env.blobs.isEmpty then
      { s with
        owner := { s.owner with keys := (s.env.blobs.take 4).map (fitBytes 64) }
        boot := { s.boot with owned := true } }
    else s)

end Sys2Proof.Machine
end

