-- ==== Sys2Proof/Machine/Registers.lean ====
section
/-! DEFINITION. The host's access to the package: the registers of BAR0 (R6, R14, R38, R495 and the rules of each register),
feature negotiation (R42 to R44), and the apertures of BAR2 (R15, R16). -/

namespace Sys2Proof.Machine

/-! ### The registers of BAR0 -/

/-- The register a BAR0 offset lies in: its offset and its size in bytes. -/
def regOf (off : Nat) : Option (Nat × Nat) :=
  let link := off - 0x10000
  let aper := off - 0x20000
  if off < 0xC then some (off / 4 * 4, 4)
  else if 0x100 ≤ off ∧ off < 0x124 then (if off < 0x120 then some (off / 4 * 4, 4) else some (0x120, 4))
  else if 0x10000 ≤ off ∧ link / 0x40 < 18 then
    (if link % 0x40 < 4 ∨ (8 ≤ link % 0x40 ∧ link % 0x40 < 12) ∨ (16 ≤ link % 0x40 ∧ link % 0x40 < 20) then
      some (off / 4 * 4, 4) else none)
  else if 0x20000 ≤ off ∧ aper / 0x10 < 16 then (if aper % 0x10 < 8 then some (off / 8 * 8, 8) else none)
  else if 0x30000 ≤ off ∧ off < 0x30008 then some (off / 4 * 4, 4)
  else if 0x30010 ≤ off ∧ off < 0x30020 then some (0x30010, 16)
  else if 0x30020 ≤ off ∧ off < 0x30028 then some (0x30020, 8)
  else if 0x30100 ≤ off ∧ off < 0x30120 then some (0x30100, 32)
  else if 0x30200 ≤ off ∧ off < 0x30700 then some (0x30200, 1280)
  else if 0x40000 ≤ off ∧ off < 0x40040 then some (off / 8 * 8, 8)
  else if 0x40040 ≤ off ∧ off < 0x40044 then some (0x40040, 4)
  else if 0x40048 ≤ off ∧ off < 0x4004C then some (0x40048, 4)
  else if 0x40050 ≤ off ∧ off < 0x40060 then some (off / 8 * 8, 8)
  else if 0x40060 ≤ off ∧ off < 0x40064 then some (0x40060, 4)
  else if 0x40068 ≤ off ∧ off < 0x40070 then some (0x40068, 8)
  else if 0x50000 ≤ off ∧ off < 0x50004 then some (0x50000, 4)
  else if 0x50008 ≤ off ∧ off < 0x5000C then some (0x50008, 4)
  else if 0x50010 ≤ off ∧ off < 0x50014 then some (0x50010, 4)
  else if 0x50100 ≤ off ∧ off < 0x50130 then some (off / 4 * 4, 4)
  else none

def bit1 (b : Bool) (k : Nat) : Nat := if b then 2 ^ k else 0

/-- BOOTSTAT (R39). -/
def bootstat (s : State) : Nat :=
  let b := s.boot
  b.phase * 2 ^ 28 + b.failcode * 2 ^ 24 + b.hbmok * 2 ^ 8 + bit1 b.wash 1 + bit1 b.owned 0

/-- The bits of FEATCAP (R43). -/
def featcap (i : Nat) : Nat := if i = 0 then 0x7FF else 0

/-- LINKSTATn, LINKCTLn and LINKERRn (R24 to R26). -/
def linkReg (p : Port) (k : Nat) : Nat :=
  match k with
  | 0 => p.state * 2 ^ 29 + bit1 p.half 28 + p.peerid * 2 ^ 18 + p.replays * 4
  | 8 => bit1 p.enable 31 + p.backoff
  | _ => p.proterr * 2 ^ 16 + p.nakign

/-- What a register reads, by its offset (R6: write-only fields read zero). -/
def regValue (s : State) (r : Nat) : Nat :=
  let c := s.ckpt
  if r = 0 then bootstat s
  else if r = 4 then s.boot.clustok
  else if r = 8 then 0
  else if r < 0x110 then featcap ((r - 0x100) / 4)
  else if r < 0x120 then (s.featacc.getD ((r - 0x110) / 4) 0).toNat
  else if r = 0x120 then bit1 s.boot.feaerr 1 + bit1 s.boot.featlock 0
  else if r < 0x20000 then linkReg (portOf s ((r - 0x10000) / 0x40)) ((r - 0x10000) % 0x40)
  else if r < 0x30000 then (s.boot.apercfg.getD ((r - 0x20000) / 0x10) 0).toNat
  else if r = 0x30000 then bit1 s.owner.go 31 + s.owner.op
  else if r = 0x30004 then s.owner.status
  else if r = 0x30010 then s.owner.serial
  else if r = 0x30020 then s.owner.epoch
  else if r = 0x30100 then ofLeBytes s.owner.nonce
  else if r = 0x30200 then ofLeBytes s.owner.relrec
  else if r < 0x40040 then (s.mailbox.req.getD ((r - 0x40000) / 8) 0).toNat
  else if r = 0x40040 then bit1 s.mailbox.go 31 + s.mailbox.op
  else if r = 0x40048 then s.mailbox.result * 2 ^ 16 + s.mailbox.status
  else if r = 0x40050 then s.evring.prod
  else if r = 0x40058 then s.evring.cons
  else if r = 0x40060 then bit1 s.evring.ovf 31 + s.evring.lost
  else if r = 0x40068 then bit1 c.busy 63 + bit1 c.fail 62 + bit1 c.aborted 61 + c.sent
  else if r = 0x50000 then bit1 s.boot.fatal 31 + s.boot.killCount
  else if r = 0x50008 then s.boot.ceCount
  else if r = 0x50010 then bit1 s.boot.ironEn 31 + s.boot.ironPeriod
  else s.boot.coresok.getD ((r - 0x50100) / 4) 0

/-- A byte of BAR0 (R38, R495): in PHASE 5 and 6 an offset with no register reads zero; otherwise all but BOOTSTAT, CLUSTOK
and RESETCTL read all ones. -/
def bar0Byte (s : State) (off : Nat) : Byte :=
  if !bar0Full s && 12 ≤ off then 0xFF
  else match regOf off with
    | none => 0
    | some (r, _) => BitVec.ofNat 8 (regValue s r / 2 ^ (8 * (off - r)))

/-- A read of BAR0 by the host. -/
def bar0Read (off n : Nat) (s : State) : State :=
  if !endpointUp s then { s with completion := none }
  else { s with completion := some (0 :: (List.range n).map fun k => bar0Byte s (off + k)) }

/-! ### BAR4 (R14, R36, R38) -/

/-- Where the pending-bit array starts in BAR4, behind the table at 0 (DESIGN CHOICE, log 57). -/
def pbaBase : Nat := 0x800000

/-- A byte of BAR4: the table of 2,048 entries of 16 bytes, the pending bits; all ones outside PHASE 5 and 6. -/
def bar4Byte (s : State) (off : Nat) : Byte :=
  if !bar0Full s then 0xFF
  else if off < 32768 then BitVec.ofNat 8 (msixEntry s (off / 16) / 2 ^ (8 * (off % 16)))
  else if pbaBase ≤ off ∧ off < pbaBase + 256 then
    BitVec.ofNat 8 ((List.range 8).foldl (fun m k =>
      if nsHas s.msixPend (8 * (off - pbaBase) + k) then m + 2 ^ k else m) 0)
  else 0

/-- A read of BAR4 by the host. -/
def bar4Read (off n : Nat) (s : State) : State :=
  if !endpointUp s then { s with completion := none }
  else { s with completion := some (0 :: (List.range n).map fun k => bar4Byte s (off + k)) }

/-- A byte of an entry of the table is written; bits above the mask bit stay 0. A vector that is pending and no longer
masked sends its message and is pending no more. -/
def putEntryByte (off : Nat) (b : Byte) (s : State) : State :=
  let v := off / 16
  let x := msixEntry s v
  let k := 8 * (off % 16)
  let y := (x - field x k 8 * 2 ^ k + b.toNat * 2 ^ k) % 2 ^ 97
  { s with
    msixTab := sput (2 ^ 96) s.msixTab v y
    msixPend := if y.testBit 96 then s.msixPend else nsDel s.msixPend v }

/-- A write to BAR4 by the host: the table takes it in PHASE 5 and 6. -/
def bar4Write (off : Nat) (bs : List Byte) (s : State) : State :=
  if !endpointUp s || !bar0Full s then s
  else (bs.mapIdx fun i b => (off + i, b)).foldl (fun s e => if e.1 < 32768 then putEntryByte e.1 e.2 s else s) s

/-! ### Feature negotiation (R42, R44) -/

/-- The conditions of the lock. -/
def lockOk (s : State) : Bool :=
  s.boot.phase == 5 && !s.boot.wash && featureOn s 0
    && (List.range 4).all fun i => (s.featacc.getD i 0).toNat ||| featcap i == featcap i

/-- Without feature 7 every port stays down (R44); one that is trained or in training at the lock is taken down like one that
is disabled, with its link-fault event (DESIGN CHOICE, log 63). -/
def closeLinks (s : State) : State :=
  if featureOn s 7 then s
  else (List.range 18).foldl (fun s n => if (portOf s n).state = 0 then s else losePort n 0 s) s

/-- FEATLOCK.LOCK is written 1. -/
def requestLock (s : State) : State :=
  if s.boot.featlock then s
  else if lockOk s then
    closeLinks { s with boot := { s.boot with featlock := true, feaerr := false, phase := 6 } }
  else { s with boot := { s.boot with feaerr := true } }

/-! ### Writes -/

/-- A register's old value with the written bits replaced (DESIGN CHOICE, log 35). -/
def mergeBits (old x m : Nat) : Nat := old - (old &&& m) + x

/-- The fields of APERCFGn (R15). -/
def aperMask : Nat := 2 ^ 63 + 2 ^ 57 - 1

/-- A write to LINKCTLn whose ENABLE byte may not be written. -/
def writeLinkPart (n x m : Nat) (s : State) : State :=
  let old := linkReg (portOf s n) 8
  if m.testBit 31 then writeLinkctl n (mergeBits old x m) s
  else modPort n (fun p => { p with backoff := mergeBits old x m % 2 ^ 16 }) s

/-- A write to OWNCMD (R50). -/
def writeOwncmd (x m : Nat) (s : State) : State :=
  if s.owner.go then s
  else { s with owner := { s.owner with op := mergeBits s.owner.op (x % 256) (m % 256), go := x.testBit 31 } }

/-- A write to DRVCMD (R54, R57): a request takes its copy of the words. -/
def writeDrvcmd (x m : Nat) (s : State) : State :=
  let b := s.mailbox
  if b.go then s
  else
    let op := mergeBits b.op (x % 256) (m % 256)
    if x.testBit 31 then { s with mailbox := { b with op := op, go := true, copy := b.req, outcome := none } }
    else { s with mailbox := { b with op := op } }

/-- A write to IRONCTL (R151, R152). -/
def writeIronctl (x m : Nat) (s : State) : State :=
  let v := mergeBits (bit1 s.boot.ironEn 31 + s.boot.ironPeriod) x m
  let s1 := writeIronEn (v.testBit 31) s
  clearTables { s1 with boot := { s1.boot with ironPeriod := v % 1024 } }

/-- Bits of a register are written: `x` under the mask `m`; read-only and reserved fields ignore it (R6). -/
def writeReg (r x m : Nat) (s : State) : State :=
  if r = 8 then writeResetctl x s
  else if 0x110 ≤ r ∧ r < 0x120 then
    (if s.boot.featlock then s
    else { s with featacc := modAt s.featacc ((r - 0x110) / 4) fun v => BitVec.ofNat 32 (mergeBits v.toNat x m) })
  else if r = 0x120 then (if x.testBit 0 then requestLock s else s)
  else if 0x10000 ≤ r ∧ r < 0x20000 then
    (if (r - 0x10000) % 0x40 = 8 then writeLinkPart ((r - 0x10000) / 0x40) x m s else s)
  else if 0x20000 ≤ r ∧ r < 0x30000 then
    { s with boot := { s.boot with
      apercfg := modAt s.boot.apercfg ((r - 0x20000) / 0x10) fun v => BitVec.ofNat 64 (mergeBits v.toNat x m &&& aperMask) } }
  else if r = 0x30000 then writeOwncmd x m s
  else if r = 0x30200 then
    (if s.owner.go then s
    else { s with owner := { s.owner with relrec := leBytes 1280 (mergeBits (ofLeBytes s.owner.relrec) x m) } })
  else if 0x40000 ≤ r ∧ r < 0x40040 then
    (if s.mailbox.go then s
    else { s with mailbox := { s.mailbox with
      req := modAt s.mailbox.req ((r - 0x40000) / 8) fun v => BitVec.ofNat 64 (mergeBits v.toNat x m) } })
  else if r = 0x40040 then writeDrvcmd x m s
  else if r = 0x40058 then { s with evring := { s.evring with cons := mergeBits s.evring.cons x m } }
  else if r = 0x40060 then
    (if x.testBit 31 then { s with evring := { s.evring with ovf := false, lost := 0 } } else s)
  else if r = 0x50008 then (if x.testBit 31 then { s with boot := { s.boot with ceCount := 0 } } else s)
  else if r = 0x50010 then writeIronctl x m s
  else s

/-- Bytes written to BAR0, register by register; offsets with no register ignore them (R495). -/
def bar0Put : Nat → Nat → List Byte → State → State
  | 0, _, _, s => s
  | _ + 1, _, [], s => s
  | fuel + 1, off, b :: bs, s =>
    match regOf off with
    | none => bar0Put fuel (off + 1) bs s
    | some (r, size) =>
      let n := min (b :: bs).length (r + size - off)
      let shift := 8 * (off - r)
      bar0Put fuel (off + n) ((b :: bs).drop n)
        (writeReg r (ofLeBytes ((b :: bs).take n) * 2 ^ shift) ((2 ^ (8 * n) - 1) * 2 ^ shift) s)

/-- A write to BAR0 by the host: outside PHASE 5 and 6 only RESETCTL takes one (R36, R38). -/
def bar0Write (off : Nat) (bs : List Byte) (s : State) : State :=
  if !endpointUp s then s
  else if bar0Full s || off / 4 == 2 then bar0Put (bs.length + 1) off (if bar0Full s then bs else bs.take (12 - off)) s
  else s

/-- REGISTER_WRITE (R6, R495). Env: `addr` the BAR0 offset, `bytes` what is written. -/
def execRegisterWrite (s : State) : Host.Outcome State Fault Refusal := .next (bar0Write s.env.addr s.env.bytes s)

/-- APERCFG_WRITE (R16). Env: `index` the aperture, `value` the register's new value. -/
def execApercfgWrite (s : State) : Host.Outcome State Fault Refusal :=
  .next (if s.env.index < 16 then bar0Write (0x20000 + 16 * s.env.index) (leBytes 8 s.env.value) s else s)

/-- FEATURE_LOCK (R42). -/
def execFeatureLock (s : State) : Host.Outcome State Fault Refusal := .next (bar0Write 0x120 (leBytes 4 1) s)

/-- EVENT_CONSUMER_WRITE (R90). Env: `value`. -/
def execEventConsumerWrite (s : State) : Host.Outcome State Fault Refusal :=
  .next (bar0Write 0x40058 (leBytes 8 s.env.value) s)

/-- EVENT_LOST_CLEAR (R90). -/
def execEventLostClear (s : State) : Host.Outcome State Fault Refusal := .next (bar0Write 0x40060 (leBytes 4 (2 ^ 31)) s)

/-- CE_COUNT_CLEAR (R152). -/
def execCeCountClear (s : State) : Host.Outcome State Fault Refusal := .next (bar0Write 0x50008 (leBytes 4 (2 ^ 31)) s)

/-- IRONCTL_WRITE (R151). Env: `value`. -/
def execIronctlWrite (s : State) : Host.Outcome State Fault Refusal :=
  .next (bar0Write 0x50010 (leBytes 4 s.env.value) s)

/-! ### Apertures (R15) -/

/-- What an aperture does with a request: nothing is behind it, or an ASID and an address. -/
def aperture (s : State) (n off : Nat) : Option (Nat × Nat) :=
  let c := (s.boot.apercfg.getD n 0).toNat
  let asid := c % 65536
  if bar0Full s && n < 16 && c.testBit 63 && liveCtx s asid then
    some (asid, (c % 2 ^ 57 / 2 ^ 16 * 2 ^ 16 + off) % 2 ^ 57)
  else none

/-- Bytes read by the host at a virtual address, line by line, and whether any sector of them is poisoned; or what stops the
read. -/
def hostGet (asid : Nat) : Nat → Nat → Nat → State → Except HostRes (List Byte × Bool) × State
  | 0, _, _, s => (.ok ([], false), s)
  | fuel + 1, va, n, s =>
    if n = 0 then (.ok ([], false), s)
    else
      let k := min n (128 - va % 128)
      match hostLeaf asid va .read s with
      | (.leaf l, s1) =>
        let pa := leafPa l va
        let d := ctrlReadLine s1 l.ck pa
        let bad := d.2 &&& sectorsTouched (byteMask (pa % 128) k) != 0
        match hostGet asid fuel ((va + k) % 2 ^ 57) (n - k) s1 with
        | (.error r, s2) => (.error r, s2)
        | (.ok (bs, q), s2) => (.ok ((d.1.drop (pa % 128)).take k ++ bs, bad || q), s2)
      | (r, s1) => (.error r, s1)

/-- HOST_APERTURE_READ (R15). Env: `index` the aperture, `addr` the offset in it, `size` bytes. A read that waits for a link is
not completed yet: it is asked again once the port can take it or is lost (R27). -/
def execHostApertureRead (s : State) : Host.Outcome State Fault Refusal :=
  let n := s.env.index
  let ones : Option (List Byte) := some (0 :: List.replicate s.env.size 0xFF)
  .next (if !endpointUp s then { s with completion := none }
    else match aperture s n s.env.addr with
      | none => { s with completion := ones }
      | some (asid, va) =>
        match hostGet asid (s.env.size / 128 + 2) va s.env.size s with
        | (.ok (bs, bad), s1) => { s1 with completion := some ((if bad then 2 else 0) :: bs) }
        | (.error .fault, s1) => { aperFault (n + 32 * s.env.addr) 0 asid va s1 with completion := ones }
        | (.error .wait, s1) => { s1 with completion := none, hostReads := s1.hostReads ++ [s.env] }
        | (.error _, s1) => { s1 with completion := ones })

/-- HOST_APERTURE_WRITE (R15). Env: `index` the aperture, `addr` the offset in it, `bytes`. -/
def execHostApertureWrite (s : State) : Host.Outcome State Fault Refusal :=
  let n := s.env.index
  .next (if !endpointUp s then s
    else match aperture s n s.env.addr with
      | none => s
      | some (asid, va) => hostWriteVa (n + 32 * s.env.addr) asid va s.env.bytes s)

end Sys2Proof.Machine
end

