-- ==== Sys2Proof/Machine/Dispatch.lean ====
section
/-! DEFINITION. One arm per constructor of Instr: a direct call of its meaning. -/

namespace Sys2Proof.Machine

def exec (i : Instr) (s : State) : Host.Outcome State Fault Refusal :=
  match i with
  | .nop h o => Sys2Proof.Machine.execNop h o s
  | .bra h o => Sys2Proof.Machine.execBra h o s
  | .brx h o => Sys2Proof.Machine.execBrx h o s
  | .call h o => Sys2Proof.Machine.execCall h o s
  | .callx h o => Sys2Proof.Machine.execCallx h o s
  | .ret h o => Sys2Proof.Machine.execRet h o s
  | .exit h o => Sys2Proof.Machine.execExit h o s
  | .yield h o => Sys2Proof.Machine.execYield h o s
  | .jenter h o => Sys2Proof.Machine.execJenter h o s
  | .jquit h o => Sys2Proof.Machine.execJquit h o s
  | .jwait h o => Sys2Proof.Machine.execJwait h o s
  | .jsave h o => Sys2Proof.Machine.execJsave h o s
  | .jrestore h o => Sys2Proof.Machine.execJrestore h o s
  | .jread h o => Sys2Proof.Machine.execJread h o s
  | .mov h x o => Sys2Proof.Machine.execMov h x o s
  | .movi h x o => Sys2Proof.Machine.execMovi h x o s
  | .sel h x o => Sys2Proof.Machine.execSel h x o s
  | .iadd h x o => Sys2Proof.Machine.execIadd h x o s
  | .isub h x o => Sys2Proof.Machine.execIsub h x o s
  | .iaddi h x o => Sys2Proof.Machine.execIaddi h x o s
  | .imul h x o => Sys2Proof.Machine.execImul h x o s
  | .imad h x o => Sys2Proof.Machine.execImad h x o s
  | .imin h x o => Sys2Proof.Machine.execImin h x o s
  | .imax h x o => Sys2Proof.Machine.execImax h x o s
  | .shl h o => Sys2Proof.Machine.execShl h o s
  | .shr h o => Sys2Proof.Machine.execShr h o s
  | .sar h o => Sys2Proof.Machine.execSar h o s
  | .rol h o => Sys2Proof.Machine.execRol h o s
  | .ror h o => Sys2Proof.Machine.execRor h o s
  | .fshL h o => Sys2Proof.Machine.execFshL h o s
  | .fshR h o => Sys2Proof.Machine.execFshR h o s
  | .andB h o => Sys2Proof.Machine.execAndB h o s
  | .orB h o => Sys2Proof.Machine.execOrB h o s
  | .xorB h o => Sys2Proof.Machine.execXorB h o s
  | .andnB h o => Sys2Proof.Machine.execAndnB h o s
  | .ornB h o => Sys2Proof.Machine.execOrnB h o s
  | .xnorB h o => Sys2Proof.Machine.execXnorB h o s
  | .notB h o => Sys2Proof.Machine.execNotB h o s
  | .clz h o => Sys2Proof.Machine.execClz h o s
  | .popc h o => Sys2Proof.Machine.execPopc h o s
  | .brev h o => Sys2Proof.Machine.execBrev h o s
  | .bfe h x o => Sys2Proof.Machine.execBfe h x o s
  | .bfi h o => Sys2Proof.Machine.execBfi h o s
  | .icmp h x o => Sys2Proof.Machine.execIcmp h x o s
  | .pand h o => Sys2Proof.Machine.execPand h o s
  | .por h o => Sys2Proof.Machine.execPor h o s
  | .pxor h o => Sys2Proof.Machine.execPxor h o s
  | .pandn h o => Sys2Proof.Machine.execPandn h o s
  | .pnot h o => Sys2Proof.Machine.execPnot h o s
  | .ptov h o => Sys2Proof.Machine.execPtov h o s
  | .vtop h o => Sys2Proof.Machine.execVtop h o s
  | .lea h x o => Sys2Proof.Machine.execLea h x o s
  | .faddF32 h x o => Sys2Proof.Machine.execFaddF32 h x o s
  | .faddF64 h x o => Sys2Proof.Machine.execFaddF64 h x o s
  | .faddF16 h x o => Sys2Proof.Machine.execFaddF16 h x o s
  | .faddBf16 h x o => Sys2Proof.Machine.execFaddBf16 h x o s
  | .fmulF32 h x o => Sys2Proof.Machine.execFmulF32 h x o s
  | .fmulF64 h x o => Sys2Proof.Machine.execFmulF64 h x o s
  | .fmulF16 h x o => Sys2Proof.Machine.execFmulF16 h x o s
  | .fmulBf16 h x o => Sys2Proof.Machine.execFmulBf16 h x o s
  | .fmaF32 h x o => Sys2Proof.Machine.execFmaF32 h x o s
  | .fmaF64 h x o => Sys2Proof.Machine.execFmaF64 h x o s
  | .fmaF16 h x o => Sys2Proof.Machine.execFmaF16 h x o s
  | .fmaBf16 h x o => Sys2Proof.Machine.execFmaBf16 h x o s
  | .fminF32 h o => Sys2Proof.Machine.execFminF32 h o s
  | .fminF64 h o => Sys2Proof.Machine.execFminF64 h o s
  | .fminF16 h o => Sys2Proof.Machine.execFminF16 h o s
  | .fminBf16 h o => Sys2Proof.Machine.execFminBf16 h o s
  | .fmaxF32 h o => Sys2Proof.Machine.execFmaxF32 h o s
  | .fmaxF64 h o => Sys2Proof.Machine.execFmaxF64 h o s
  | .fmaxF16 h o => Sys2Proof.Machine.execFmaxF16 h o s
  | .fmaxBf16 h o => Sys2Proof.Machine.execFmaxBf16 h o s
  | .fcmpF32 h x o => Sys2Proof.Machine.execFcmpF32 h x o s
  | .fcmpF64 h x o => Sys2Proof.Machine.execFcmpF64 h x o s
  | .fcmpF16 h x o => Sys2Proof.Machine.execFcmpF16 h x o s
  | .fcmpBf16 h x o => Sys2Proof.Machine.execFcmpBf16 h x o s
  | .frcpF32 h o => Sys2Proof.Machine.execFrcpF32 h o s
  | .fsqrtF32 h o => Sys2Proof.Machine.execFsqrtF32 h o s
  | .frsqF32 h o => Sys2Proof.Machine.execFrsqF32 h o s
  | .fexp2F32 h o => Sys2Proof.Machine.execFexp2F32 h o s
  | .flog2F32 h o => Sys2Proof.Machine.execFlog2F32 h o s
  | .fsinF32 h o => Sys2Proof.Machine.execFsinF32 h o s
  | .fcosF32 h o => Sys2Proof.Machine.execFcosF32 h o s
  | .ftanhF32 h o => Sys2Proof.Machine.execFtanhF32 h o s
  | .frcpF64 h o => Sys2Proof.Machine.execFrcpF64 h o s
  | .fsqrtF64 h o => Sys2Proof.Machine.execFsqrtF64 h o s
  | .frsqF64 h o => Sys2Proof.Machine.execFrsqF64 h o s
  | .faddiF32 h x o => Sys2Proof.Machine.execFaddiF32 h x o s
  | .fmuliF32 h x o => Sys2Proof.Machine.execFmuliF32 h x o s
  | .fmaiF32 h x o => Sys2Proof.Machine.execFmaiF32 h x o s
  | .fmoviF32 h o => Sys2Proof.Machine.execFmoviF32 h o s
  | .cvt h x o => Sys2Proof.Machine.execCvt h x o s
  | .bpack h x o => Sys2Proof.Machine.execBpack h x o s
  | .bunpk h o => Sys2Proof.Machine.execBunpk h o s
  | .xpatld h o => Sys2Proof.Machine.execXpatld h o s
  | .xperm h o => Sys2Proof.Machine.execXperm h o s
  | .shflIdx h o => Sys2Proof.Machine.execShflIdx h o s
  | .shflUp h o => Sys2Proof.Machine.execShflUp h o s
  | .shflDown h o => Sys2Proof.Machine.execShflDown h o s
  | .shflXor h o => Sys2Proof.Machine.execShflXor h o s
  | .bcast h x o => Sys2Proof.Machine.execBcast h x o s
  | .ballot h o => Sys2Proof.Machine.execBallot h o s
  | .voteAny h o => Sys2Proof.Machine.execVoteAny h o s
  | .voteAll h o => Sys2Proof.Machine.execVoteAll h o s
  | .voteUni h o => Sys2Proof.Machine.execVoteUni h o s
  | .redAdd h o => Sys2Proof.Machine.execRedAdd h o s
  | .redMin h o => Sys2Proof.Machine.execRedMin h o s
  | .redMax h o => Sys2Proof.Machine.execRedMax h o s
  | .redAnd h o => Sys2Proof.Machine.execRedAnd h o s
  | .redOr h o => Sys2Proof.Machine.execRedOr h o s
  | .redXor h o => Sys2Proof.Machine.execRedXor h o s
  | .fredAdd h o => Sys2Proof.Machine.execFredAdd h o s
  | .fredMin h o => Sys2Proof.Machine.execFredMin h o s
  | .fredMax h o => Sys2Proof.Machine.execFredMax h o s
  | .scanAdd h o => Sys2Proof.Machine.execScanAdd h o s
  | .scanXadd h o => Sys2Proof.Machine.execScanXadd h o s
  | .scanMax h o => Sys2Proof.Machine.execScanMax h o s
  | .scanMin h o => Sys2Proof.Machine.execScanMin h o s
  | .ldG h x o => Sys2Proof.Machine.execLdG h x o s
  | .ldSp h x o => Sys2Proof.Machine.execLdSp h x o s
  | .ldOb h x o => Sys2Proof.Machine.execLdOb h x o s
  | .ldMs h x o => Sys2Proof.Machine.execLdMs h x o s
  | .stG h x o => Sys2Proof.Machine.execStG h x o s
  | .stSp h x o => Sys2Proof.Machine.execStSp h x o s
  | .stOb h x o => Sys2Proof.Machine.execStOb h x o s
  | .stMs h x o => Sys2Proof.Machine.execStMs h x o s
  | .stuG h o => Sys2Proof.Machine.execStuG h o s
  | .stuSp h o => Sys2Proof.Machine.execStuSp h o s
  | .ldmc h x o => Sys2Proof.Machine.execLdmc h x o s
  | .prefL1 h o => Sys2Proof.Machine.execPrefL1 h o s
  | .prefL2 h o => Sys2Proof.Machine.execPrefL2 h o s
  | .residKeep h o => Sys2Proof.Machine.execResidKeep h o s
  | .residNorm h o => Sys2Proof.Machine.execResidNorm h o s
  | .banksw h o => Sys2Proof.Machine.execBanksw h o s
  | .atomGAdd h o => Sys2Proof.Machine.execAtomGAdd h o s
  | .atomGMin h o => Sys2Proof.Machine.execAtomGMin h o s
  | .atomGMax h o => Sys2Proof.Machine.execAtomGMax h o s
  | .atomGAnd h o => Sys2Proof.Machine.execAtomGAnd h o s
  | .atomGOr h o => Sys2Proof.Machine.execAtomGOr h o s
  | .atomGXor h o => Sys2Proof.Machine.execAtomGXor h o s
  | .atomGExch h o => Sys2Proof.Machine.execAtomGExch h o s
  | .atomGCas h o => Sys2Proof.Machine.execAtomGCas h o s
  | .atomSpAdd h o => Sys2Proof.Machine.execAtomSpAdd h o s
  | .atomSpMin h o => Sys2Proof.Machine.execAtomSpMin h o s
  | .atomSpMax h o => Sys2Proof.Machine.execAtomSpMax h o s
  | .atomSpAnd h o => Sys2Proof.Machine.execAtomSpAnd h o s
  | .atomSpOr h o => Sys2Proof.Machine.execAtomSpOr h o s
  | .atomSpXor h o => Sys2Proof.Machine.execAtomSpXor h o s
  | .atomSpExch h o => Sys2Proof.Machine.execAtomSpExch h o s
  | .atomSpCas h o => Sys2Proof.Machine.execAtomSpCas h o s
  | .fenceRel h o => Sys2Proof.Machine.execFenceRel h o s
  | .fenceAcq h o => Sys2Proof.Machine.execFenceAcq h o s
  | .fenceAr h o => Sys2Proof.Machine.execFenceAr h o s
  | .fenceX h o => Sys2Proof.Machine.execFenceX h o s
  | .bind h o => Sys2Proof.Machine.execBind h o s
  | .unbind h o => Sys2Proof.Machine.execUnbind h o s
  | .acq h o => Sys2Proof.Machine.execAcq h o s
  | .relSet h o => Sys2Proof.Machine.execRelSet h o s
  | .relAdd h o => Sys2Proof.Machine.execRelAdd h o s
  | .relSub h o => Sys2Proof.Machine.execRelSub h o s
  | .waita h x o => Sys2Proof.Machine.execWaita h x o s
  | .barArv h o => Sys2Proof.Machine.execBarArv h o s
  | .barWait h o => Sys2Proof.Machine.execBarWait h o s
  | .barSync h o => Sys2Proof.Machine.execBarSync h o s
  | .obres h o => Sys2Proof.Machine.execObres h o s
  | .obfree h o => Sys2Proof.Machine.execObfree h o s
  | .mma h o => Sys2Proof.Machine.execMma h o s
  | .msmld h x o => Sys2Proof.Machine.execMsmld h x o s
  | .msmst h x o => Sys2Proof.Machine.execMsmst h x o s
  | .bondAcq h o => Sys2Proof.Machine.execBondAcq h o s
  | .bondRel h o => Sys2Proof.Machine.execBondRel h o s
  | .cpy h o => Sys2Proof.Machine.execCpy h o s
  | .lxfer h o => Sys2Proof.Machine.execLxfer h o s
  | .swdecl h o => Sys2Proof.Machine.execSwdecl h o s
  | .swstart h o => Sys2Proof.Machine.execSwstart h o s
  | .swpull h o => Sys2Proof.Machine.execSwpull h o s
  | .swpark h o => Sys2Proof.Machine.execSwpark h o s
  | .swdone h o => Sys2Proof.Machine.execSwdone h o s
  | .swkeep h o => Sys2Proof.Machine.execSwkeep h o s
  | .swwake h o => Sys2Proof.Machine.execSwwake h o s
  | .swstat h o => Sys2Proof.Machine.execSwstat h o s
  | .trap h o => Sys2Proof.Machine.execTrap h o s
  | .tret h o => Sys2Proof.Machine.execTret h o s
  | .sysr h o => Sys2Proof.Machine.execSysr h o s
  | .sysw h o => Sys2Proof.Machine.execSysw h o s
  | .clock h o => Sys2Proof.Machine.execClock h o s
  | .pld h x o => Sys2Proof.Machine.execPld h x o s
  | .pst h x o => Sys2Proof.Machine.execPst h x o s
  | .msix h o => Sys2Proof.Machine.execMsix h o s
  | .grel h o => Sys2Proof.Machine.execGrel h o s
  | .gstop h x o => Sys2Proof.Machine.execGstop h x o s
  | .gsave h o => Sys2Proof.Machine.execGsave h o s
  | .grest h o => Sys2Proof.Machine.execGrest h o s
  | .coldReset => Sys2Proof.Machine.execColdReset s
  | .perstDeassert => Sys2Proof.Machine.execPerstDeassert s
  | .warmReset => Sys2Proof.Machine.execWarmReset s
  | .configRequest => Sys2Proof.Machine.execConfigRequest s
  | .warmResetRequest => Sys2Proof.Machine.execWarmResetRequest s
  | .functionResetRequest => Sys2Proof.Machine.execFunctionResetRequest s
  | .functionLevelReset => Sys2Proof.Machine.execFunctionLevelReset s
  | .functionResetWashEnd => Sys2Proof.Machine.execFunctionResetWashEnd s
  | .thermalShutdown => Sys2Proof.Machine.execThermalShutdown s
  | .droopDetect => Sys2Proof.Machine.execDroopDetect s
  | .voltageFrequencyLoop => Sys2Proof.Machine.execVoltageFrequencyLoop s
  | .governorWindow => Sys2Proof.Machine.execGovernorWindow s
  | .flitReceive => Sys2Proof.Machine.execFlitReceive s
  | .nakReceive => Sys2Proof.Machine.execNakReceive s
  | .resendAfterBackoff => Sys2Proof.Machine.execResendAfterBackoff s
  | .ackTimer => Sys2Proof.Machine.execAckTimer s
  | .replayTimeout => Sys2Proof.Machine.execReplayTimeout s
  | .laneLossOfLock => Sys2Proof.Machine.execLaneLossOfLock s
  | .portRecoveryComplete => Sys2Proof.Machine.execPortRecoveryComplete s
  | .portRecoveryTimeout => Sys2Proof.Machine.execPortRecoveryTimeout s
  | .linkEnable => Sys2Proof.Machine.execLinkEnable s
  | .linkDisable => Sys2Proof.Machine.execLinkDisable s
  | .linkCountersClear => Sys2Proof.Machine.execLinkCountersClear s
  | .registerWrite => Sys2Proof.Machine.execRegisterWrite s
  | .apercfgWrite => Sys2Proof.Machine.execApercfgWrite s
  | .hostApertureRead => Sys2Proof.Machine.execHostApertureRead s
  | .hostApertureWrite => Sys2Proof.Machine.execHostApertureWrite s
  | .featureLock => Sys2Proof.Machine.execFeatureLock s
  | .fetchNonce => Sys2Proof.Machine.execFetchNonce s
  | .submitRelease => Sys2Proof.Machine.execSubmitRelease s
  | .ownershipReservedOp => Sys2Proof.Machine.execOwnershipReservedOp s
  | .createContext => Sys2Proof.Machine.execCreateContext s
  | .destroyContext => Sys2Proof.Machine.execDestroyContext s
  | .createQueue => Sys2Proof.Machine.execCreateQueue s
  | .destroyQueue => Sys2Proof.Machine.execDestroyQueue s
  | .registerSignal => Sys2Proof.Machine.execRegisterSignal s
  | .unregisterSignal => Sys2Proof.Machine.execUnregisterSignal s
  | .setEventRing => Sys2Proof.Machine.execSetEventRing s
  | .resetQueue => Sys2Proof.Machine.execResetQueue s
  | .readAttestationQuote => Sys2Proof.Machine.execReadAttestationQuote s
  | .checkpointStreamStart => Sys2Proof.Machine.execCheckpointStreamStart s
  | .checkpointStreamAbort => Sys2Proof.Machine.execCheckpointStreamAbort s
  | .checkpointStreamEnd => Sys2Proof.Machine.execCheckpointStreamEnd s
  | .rangeHold => Sys2Proof.Machine.execRangeHold s
  | .rangeRelease => Sys2Proof.Machine.execRangeRelease s
  | .rangeInvalidate => Sys2Proof.Machine.execRangeInvalidate s
  | .migratePage => Sys2Proof.Machine.execMigratePage s
  | .resolveFaultsRetry => Sys2Proof.Machine.execResolveFaultsRetry s
  | .resolveFaultsFail => Sys2Proof.Machine.execResolveFaultsFail s
  | .readCounters => Sys2Proof.Machine.execReadCounters s
  | .mailboxReservedOp => Sys2Proof.Machine.execMailboxReservedOp s
  | .mailboxRequestComplete => Sys2Proof.Machine.execMailboxRequestComplete s
  | .eventConsumerWrite => Sys2Proof.Machine.execEventConsumerWrite s
  | .eventLostClear => Sys2Proof.Machine.execEventLostClear s
  | .ceCountClear => Sys2Proof.Machine.execCeCountClear s
  | .ironctlWrite => Sys2Proof.Machine.execIronctlWrite s
  | .packetPickup => Sys2Proof.Machine.execPacketPickup s
  | .queueScan => Sys2Proof.Machine.execQueueScan s
  | .slotIdleRelease => Sys2Proof.Machine.execSlotIdleRelease s
  | .queueEviction => Sys2Proof.Machine.execQueueEviction s
  | .suspectedWaitCycle => Sys2Proof.Machine.execSuspectedWaitCycle s
  | .waitSignalTimeout => Sys2Proof.Machine.execWaitSignalTimeout s
  | .launchPacket => Sys2Proof.Machine.execLaunchPacket s
  | .copyPacket => Sys2Proof.Machine.execCopyPacket s
  | .waitSignalPacket => Sys2Proof.Machine.execWaitSignalPacket s
  | .setSignalPacket => Sys2Proof.Machine.execSetSignalPacket s
  | .barrierAndPacket => Sys2Proof.Machine.execBarrierAndPacket s
  | .markerPacket => Sys2Proof.Machine.execMarkerPacket s
  | .headWaitSatisfied => Sys2Proof.Machine.execHeadWaitSatisfied s
  | .agentAccessRetry => Sys2Proof.Machine.execAgentAccessRetry s
  | .workgroupClaim => Sys2Proof.Machine.execWorkgroupClaim s
  | .gangClaim => Sys2Proof.Machine.execGangClaim s
  | .gangHoldRequest => Sys2Proof.Machine.execGangHoldRequest s
  | .gangHoldAnswer => Sys2Proof.Machine.execGangHoldAnswer s
  | .groupRelease => Sys2Proof.Machine.execGroupRelease s
  | .headOfLineHold => Sys2Proof.Machine.execHeadOfLineHold s
  | .sliceContentionTest => Sys2Proof.Machine.execSliceContentionTest s
  | .stopRequest => Sys2Proof.Machine.execStopRequest s
  | .drainComplete => Sys2Proof.Machine.execDrainComplete s
  | .workgroupRetire => Sys2Proof.Machine.execWorkgroupRetire s
  | .watchdogHang => Sys2Proof.Machine.execWatchdogHang s
  | .remotePendingLimit => Sys2Proof.Machine.execRemotePendingLimit s
  | .uncorrectableError => Sys2Proof.Machine.execUncorrectableError s
  | .poisonConsumed => Sys2Proof.Machine.execPoisonConsumed s
  | .killComplete => Sys2Proof.Machine.execKillComplete s
  | .frameWashComplete => Sys2Proof.Machine.execFrameWashComplete s
  | .l2SliceWashComplete => Sys2Proof.Machine.execL2SliceWashComplete s
  | .ironingTurn => Sys2Proof.Machine.execIroningTurn s
  | .ironingScanStart => Sys2Proof.Machine.execIroningScanStart s
  | .ironingScanComplete => Sys2Proof.Machine.execIroningScanComplete s
  | .pageWalk => Sys2Proof.Machine.execPageWalk s
  | .overflowNakResend => Sys2Proof.Machine.execOverflowNakResend s
  | .l2Eviction => Sys2Proof.Machine.execL2Eviction s
  | .multicastWindowClose => Sys2Proof.Machine.execMulticastWindowClose s
  | .quarterSelection => Sys2Proof.Machine.execQuarterSelection s
  | .flagOperationComplete => Sys2Proof.Machine.execFlagOperationComplete s
  | .engineNakResend => Sys2Proof.Machine.execEngineNakResend s
  | .operandTokenReceive => Sys2Proof.Machine.execOperandTokenReceive s
  | .operandTokenResend => Sys2Proof.Machine.execOperandTokenResend s
  | .matrixOperationComplete => Sys2Proof.Machine.execMatrixOperationComplete s
  | .copyCommandComplete => Sys2Proof.Machine.execCopyCommandComplete s
  | .linkTransferComplete => Sys2Proof.Machine.execLinkTransferComplete s
  | .remoteWakeNotify => Sys2Proof.Machine.execRemoteWakeNotify s
  | .sweepDecisionNotify => Sys2Proof.Machine.execSweepDecisionNotify s
  | .stalledWatchReread => Sys2Proof.Machine.execStalledWatchReread s
  | .resumeWordWrite => Sys2Proof.Machine.execResumeWordWrite s
  | .syscallConsWrite => Sys2Proof.Machine.execSyscallConsWrite s
  | .bankmodeWrite => Sys2Proof.Machine.execBankmodeWrite s
  | .bankSwitchComplete => Sys2Proof.Machine.execBankSwitchComplete s
  | .waitaConditionMet => Sys2Proof.Machine.execWaitaConditionMet s
  | .lpc1Write => Sys2Proof.Machine.execLpc1Write s
  | .rngvalWrite => Sys2Proof.Machine.execRngvalWrite s
  | .mxstallClear => Sys2Proof.Machine.execMxstallClear s
  | .engnakClear => Sys2Proof.Machine.execEngnakClear s
  | .startStepComplete => Sys2Proof.Machine.execStartStepComplete s
  | .linkTrainingComplete => Sys2Proof.Machine.execLinkTrainingComplete s
  | .pcieLinkTrained => Sys2Proof.Machine.execPcieLinkTrained s
  | .droopEnd => Sys2Proof.Machine.execDroopEnd s
  | .powerLoss => Sys2Proof.Machine.execPowerLoss s
  | .ownerKeyProvisioning => Sys2Proof.Machine.execOwnerKeyProvisioning s

end Sys2Proof.Machine
end

