-- ==== Sys2Proof/Machine/Time.lean ====
section
/-! DEFINITION. Time: the reference clock, the clusters' cycle counts, the watchdog counters (R35, R125, R126). -/

namespace Sys2Proof.Machine

/-- Whether every port to a peer reports STATE 3 (R126). -/
def peerRecovering (s : State) (devid : Nat) : Bool :=
  let ports := (sget [] s.routes devid).map fun e => sget Port.reset s.ports e.1
  !ports.isEmpty && ports.all fun p => p.state == 3

/-- Whether an address lies in a page of a peer whose ports are all in recovery. -/
def peerWaits (s : State) (asid va : Nat) : Bool :=
  match (lookupLeaf s asid va).1 with
  | .ok l => targetOf (leafPa l va) == .peer && peerRecovering s (peerOf (leafPa l va))
  | .error _ => false

/-- Whether a copy or link command waits for such a peer (R462): at a segment that reaches it, or for its acknowledgement. -/
def dmaRemote (s : State) (e : Nat) (x : DmaEnt) : Bool :=
  ((segsLeft x).any fun k => (segAddrs x.cmd.cmd k).any fun va => peerWaits s x.cmd.asid va)
    || s.ports.any fun p => p.2.state == 3 && p.2.window.any fun f => match f.req with
        | some r => r.dma == some (dmaName e x) && peerRecovering s f.devid
        | none => false

/-- The copy and link commands of an operation, with their engines. -/
def dmasOf (s : State) (gk op : Nat) : List (Nat × DmaEnt) :=
  let mine (e : Nat) (m : List (Nat × List DmaEnt)) : List (Nat × DmaEnt) :=
    (m.flatMap fun q => q.2.filter fun x => x.packet.isNone && x.cmd.group == gk && x.cmd.op == op).map fun x => (e, x)
  mine 1 s.cp ++ mine 3 s.lk

/-- Whether an access of an operation that is parked waits for such a peer. -/
def parkedRemote (s : State) (p : Parked) : Bool :=
  match p.place with
  | .held h => isPeerHold h && peerRecovering s (holdPeer h)
  | _ => false

/-- Whether all that an operation waits for lies in peer memory whose ports are all in recovery: every access of its lanes
that is left, every wait, its command (R126, R462). -/
def remoteOp (s : State) (gk : Nat) (o : POp) : Bool :=
  let ps := s.parked.filter fun p => p.group == gk && p.op == o.id
  let ws := s.waits.filter fun w => w.group == gk && w.op == o.id && w.sat.isNone
  let ds := dmasOf s gk o.id
  !(ps.isEmpty && ws.isEmpty && ds.isEmpty) && ps.all (parkedRemote s)
    && (ws.all fun w => targetOf w.pa == .peer && peerRecovering s (peerOf w.pa)) && ds.all fun d => dmaRemote s d.1 d.2

/-- Whether a lane cannot issue now, and each wait that keeps it from issuing is such a wait: the pending flags in the wait
mask of its clause (R126). -/
def laneRemote (s : State) (gk asid : Nat) (g : Group) (pc : Pc) : Bool :=
  let head := (pc.addr - BitVec.ofNat 57 (8 * pc.ofs)).toNat
  match (fetchWord (keyCore gk) asid head s).1 with
  | .word h =>
    let waits := g.ops.filter fun o => decide (o.flag < 12) && (waitOf h).testBit o.flag
    !waits.isEmpty && waits.all fun o => !o.ready && remoteOp s gk o
  | _ => false

/-- A group is remote-pending while each wait that keeps it from issuing is one of those (R126); a full replay window is none
of them. -/
def remotePending (s : State) (gk : Nat) (g : Group) : Bool :=
  match sfind s.wgs (wgOf gk g) with
  | none => false
  | some w =>
    let pcs := (g.lanes.filter fun x => x.st == .unblocked).map fun x => x.pc
    !windowsFull g && !pcs.isEmpty && pcs.all fun pc => laneRemote s gk w.asid g pc

/-- Whether a group's workgroup has been released. -/
def groupReleased (s : State) (gk : Nat) (g : Group) : Bool :=
  match sfind s.wgs (wgOf gk g) with
  | some w => w.released
  | none => false

/-- Whether a group's watchdog counter advances (R125). While a run of the group is in progress it does not, also where the
run stalls (DESIGN CHOICE, log 51). -/
def watchdogRuns (s : State) (gk : Nat) (g : Group) : Bool :=
  !(s.runs.any fun e => e.1 / 4 == keyCore gk && e.2.slot == keyNum gk)
    && (inState g .unblocked ||| inState g .parked ||| inState g .faultParked ||| inState g .inactive) != 0

/-- Reference-clock ticks pass for a group. -/
def elapseGroup (s : State) (n gk : Nat) (g : Group) : Group :=
  if keyNum gk = fwSlot || !groupReleased s gk g then g
  else if remotePending s gk g then { g with recovery := g.recovery + n }
  else if watchdogRuns s gk g then { g with watchdog := g.watchdog + n }
  else g

/-- The budget of an engine that ramps after the start: 8 more every 20 µs up to 64 (R36), never above CAP (R268). -/
def rampAt (now : Nat) (x : MxSt) : MxSt :=
  match x.ramp with
  | none => x
  | some t =>
    let b := min 64 (8 + 8 * ((now - t) / 2000))
    { x with budget := min (max 8 (min 64 (x.cap / 8 * 8))) b, ramp := if b = 64 then none else some t }

/-- Reference-clock ticks pass for a cluster: 33·k/16 cycles each; while a droop lasts every edge comes half a period late,
so that two thirds as many do, each a stretch (R34) (DEDUCED, log 37). -/
def elapseCluster (n : Nat) (c : ClusterSt) : ClusterSt :=
  if c.droop then
    let now := c.cycles16 + 22 * c.k * n
    { c with cycles16 := now, stretches := c.stretches + (now / 16 - c.cycles16 / 16) }
  else { c with cycles16 := c.cycles16 + 33 * c.k * n }

/-- Reference-clock ticks pass (R35): 10 ns each, 33·k/16 cycles of a cluster at 3.3 GHz·k/16 (R34) (DESIGN CHOICE, log 37).
-/
def elapse (n : Nat) (s : State) : State :=
  let s1 := (List.range 24).foldl (fun s cl => modCluster s cl (elapseCluster n)) s
  let s2 : State := { s1 with
    refclk := s1.refclk + n
    mx := s1.mx.map fun e => (e.1, rampAt (s1.refclk + n) e.2)
    groups := s1.groups.map fun e => (e.1, elapseGroup s n e.1 e.2) }
  if s2.evring.owed then ringVector s2 else s2

end Sys2Proof.Machine
end

