-- ==== Sys2Proof/Machine/Step.lean ====
section
/-! DEFINITION. One step of the device: the next item of the agenda. -/

namespace Sys2Proof.Machine

/-- After an instruction: the run goes on, and no run is in focus. -/
def afterInstr (cx : Cx) (w : W64) (s : State) : State :=
  { advance cx.rk cx.gk cx.wk (w.getLsbD 55) s with focus := none }

/-- The end of a step: commits whose release waited go on (R282), and contexts are killed for what was found (R130). -/
def settled : Host.Outcome State Fault Refusal → Host.Outcome State Fault Refusal
  | .next s => .next (settleTroubles (sweepsGo s))
  | .fault r => .fault r
  | .refused r => .refused r

/-- What an instruction's meaning leaves, with the run going on. -/
def issued (cx : Cx) (w : W64) : Host.Outcome State Fault Refusal → Host.Outcome State Fault Refusal
  | .next s => .next (afterInstr cx w s)
  | .fault r => .fault r
  | .refused r => .refused r

/-- The state in which a quarter's next word issues: its run is in focus, due writes have landed (R218). -/
def issueState (core q : Nat) (s : State) : State :=
  let s0 := { s with focus := some (core, q) }
  match cxOf s0 with
  | none => s0
  | some cx => landDue cx.rk cx.gk cx.wk s0

/-- One cycle of the run a quarter issues (R217): due writes land, the next word is decoded and executed; a word that is no
instruction raises an exception (R325). With no run there nothing happens. -/
def stepIssue (core q : Nat) (s : State) : Host.Outcome State Fault Refusal :=
  match cxOf (issueState core q s) with
  | none => .next s
  | some cx =>
    match decode (nextInstr cx) with
    | .error e =>
      let s1 := issueState core q s
      .next (afterInstr cx (nextInstr cx) (raiseExc cx (refusalCode cx (nextInstr cx) s1 e) 0 s1))
    | .ok i => issued cx (nextInstr cx) (exec i (issueState core q s))

/-- A write from outside the device: a peer's to local memory, or the host's to its own (R28, R187). -/
def outsideWrite (pa : Nat) (bytes : List Byte) (s : State) : State := noteWrite pa bytes.length (ctrlWrite s 0 pa bytes)

/-- What an item does. -/
def stepItem (x : Item) (s : State) : Host.Outcome State Fault Refusal :=
  match x with
  | .event i env => exec i { s with env := env, focus := none }
  | .issue core q => stepIssue core q s
  | .elapse n => .next (elapse n s)
  | .outside pa bytes => .next (outsideWrite pa bytes s)
  | .hostRead off size => .next (bar0Read off size s)
  | .corrected n => .next (countCorrected n s)
  | .deliver n vc => .next (deliver n vc s)
  | .lineTakes n => .next (lineTakes n s)
  | .seam n asid core => .next (seamTransfer n asid core s)
  | .bar4Read off size => .next (bar4Read off size s)
  | .bar4Write off bytes => .next (bar4Write off bytes s)
  | .temperature k t => .next (takeReading k t s)
  | .sensorRead k => .next (readSensor k s)

/-- One step: the agenda's next item; with an empty agenda nothing happens. -/
def step (s : State) : Host.Outcome State Fault Refusal :=
  match s.agenda with
  | [] => .next s
  | x :: rest => settled (stepItem x { s with agenda := rest })

/-! ### A word where the next step fetches it -/

/-- A clause header of one word, with every unit enabled. -/
def oneWordHeader : W64 := 0xC50F_0000_0000_0000

/-- A workgroup of one group of 256 vector registers on core 0, in a context's ASID (DESIGN CHOICE, log 9). -/
def probeWg : Wg :=
  { newWg ⟨true, true, 0, 0, 0, 0, 0, [], []⟩
      { asid := 1, record := 0, index := 0, ticket := 0, bonded := false, brow := 0, bcol := 0, restartable := false
        gx := 1, gy := 1, gz := 1, banks := List.replicate 8 0, drain := 0, attempt := 0, restores := 0, image := none }
      [0] 0 0 0 0 0 0 0 0 with released := true }

/-- A run of all 32 lanes whose clause is one word. -/
def probeRun (w : W64) : Run :=
  { slot := 0, lanes := BitVec.allOnes 32, head := 0, header := oneWordHeader, words := [w], widx := 0, cycle := 0, pend := []
    exc := none, ends := .going, stalled := false, trapped := none }

/-- The state with an instruction where the next step fetches it: quarter 0 of core 0 issues a run of that one word. -/
def State.withFetchWord (s : State) (_nbits w : Nat) : State :=
  { s with
    agenda := .issue 0 0 :: s.agenda
    wgs := sset s.wgs (wkey 0 0) probeWg
    groups := sset s.groups (gkey 0 0) (newGroup 0 0 0 (0, 0, 256))
    runs := sset s.runs (rkey 0 0) (probeRun (BitVec.ofNat 64 w)) }

end Sys2Proof.Machine
end

