-- ==== Sys2Proof/Safety.lean ====
section
/-! DEFINITION. What counts as a safe run, the invariant of the machine's memory, and the terms the statements use: when an
instruction issues (R325), what the registers of a group hold once its fixed-latency writes have landed (R218), what an
instruction with a result changes and what it leaves. -/

namespace Sys2Proof

open Machine

/-- Whether a step from a state answers a next state: neither a fault nor a refusal. -/
def Proceeds (s : State) : Prop := ∃ t, step s = .next t

/-- A run of a number of steps that never stops. -/
def SafeRun : Nat → State → Prop
  | 0, _ => True
  | n + 1, s => ∃ t, step s = .next t ∧ SafeRun n t

/-- The canonical form of what the machine remembers by address: physical memory and every core's local memories. -/
def MemCanonical (s : State) : Prop :=
  Memory.wf s.mem = true ∧ ∀ e ∈ s.cores, Memory.wf e.2.sp = true ∧ Memory.wf e.2.ob = true ∧ Memory.wf e.2.ms = true

/-- The byte a cluster's L2 holds at a virtual address, where it holds the line. -/
def heldByte (s : State) (cl asid va : Nat) : Option Byte := (l2Line s cl asid va).map fun ln => ln.data.getD (va % 128) 0

/-! ### Memory that serves an access at once -/

/-- Nothing in the device waits: no access is parked, no lane waits on a word, no committed store buffer still drains. -/
structure Quiet (s : State) : Prop where
  parked : s.parked = []
  waits : s.waits = []
  drained : ∀ e ∈ s.wgs, e.2.committed = true → e.2.sbuf = []

/-- The cluster L2 of a core serves an access of an address at once: it holds the line whole and sound, with the permission
the access needs (R161, R162), its page is not frozen (R184) and its slice is not being washed (R144). -/
structure L2Serves (s : State) (core asid va : Nat) (a : Access) (ln : L2Line) : Prop where
  line : l2Line s (clusterOf core) asid va = some ln
  perm : linePerm a ln = .ready
  whole : ln.valid = 15
  sound : ln.bad = 0
  size : ln.data.length = 128
  thawed : frozen s asid va = false
  unwashed : nsHas (clusterSt s (clusterOf core)).washing (sliceOf va) = false

/-- The memory controller serves an access of an aligned word at once, at a physical address (R193): the unit's TLB holds a
leaf that permits it (R170), the page is uncompressed, in the device's HBM, in no frame that is quarantined (R143), in no
range that is held (R174), not frozen (R184), its line not poisoned, and neither the core's L1 nor its cluster's L2 holds
the line. -/
structure CtrlServes (s : State) (core asid va pa : Nat) (a : Access) : Prop where
  user : asid ≠ 0
  leaf : ∃ e, (sget UnitSt.reset s.units (unitOf va)).tlb1.find? (tlbHit asid va) = some e ∧
    soundFrame s va e.leaf = .ok e.leaf ∧ permCheck a e.leaf = none ∧ e.leaf.ck = 0 ∧ leafPa e.leaf va = pa
  home : pa % 16 = va % 16 ∧ targetOf pa = .hbm ∧ targetOf (pa / 128 * 128) = .hbm
  clean : poisonMask s.poison (pa / 128 * 128) 4 = 0
  l1 : sfind (coreSt s core).l1 (lineKey asid va) = none
  l2 : l2Line s (clusterOf core) asid va = none
  open' : heldBy s asid va = none
  thawed : frozen s asid va = false

/-- One lane's atomic on memory as a function of addresses, with the old values so far (R427, R428). -/
def atomOn (op ty n : Nat) (d : Opnd) (p : (Nat → Byte) × List (Nat × W32)) (y : Nat × Nat × Nat) :
    (Nat → Byte) × List (Nat × W32) :=
  let old := ofLeBytes ((List.range n).map fun i => p.1 (y.2.1 + i))
  (match atomNew op ty old y.2.2 with
    | some v => fun a => if y.2.1 ≤ a ∧ a < y.2.1 + n then BitVec.ofNat 8 (v / 2 ^ (8 * (a - y.2.1))) else p.1 a
    | none => p.1, p.2 ++ resultKeys d (n / 4) y.1 old)

/-! ### The issue of an instruction -/

/-- The conditions under which an instruction of a form has its effect (R219, R221, R325, R434): a run is at its issue, has
recorded no exception, every check of R325 passes, no ACQ holds the lanes, no hazard is reported, its flag has room. -/
structure Ready (f : Form) (h : Hdr) (cx : Cx) (s : State) : Prop where
  focus : cxOf s = some cx
  clean : cx.run.exc = none
  checks : checkForm f h cx s = none
  free : acqHeld cx = false
  sound : hazard f cx = false
  room : h.f.toNat < 12 → flagCount cx.g h.f.toNat < 63

/-- The state an effect starts from: the draw counter has moved. -/
def ticked (s : State) : State := { s with tick := s.tick + 1 }

/-- The run and the group of a context as they stand in a state. -/
def runIn (cx : Cx) (s : State) : Run := (sfind s.runs cx.rk).getD cx.run
def groupIn (cx : Cx) (s : State) : Group := (sfind s.groups cx.gk).getD cx.g

/-- The group once every pending fixed-latency write of the run has landed (R218). -/
def landed (cx : Cx) (s : State) : Group :=
  (runIn cx s).pend.foldl (fun g e => landGroup e.2 g) (groupIn cx s)

/-- A state that differs from one only in the draw counter and in the run and the group of a context, which are given. -/
structure Only (cx : Cx) (s t : State) (r : Run) (g : Group) : Prop where
  run : sfind t.runs cx.rk = some r
  group : sfind t.groups cx.gk = some g
  runs : ∀ k, k ≠ cx.rk → sfind t.runs k = sfind s.runs k
  groups : ∀ k, k ≠ cx.gk → sfind t.groups k = sfind s.groups k
  rest : { t with tick := s.tick, runs := s.runs, groups := s.groups } = s

/-- The group with one more outstanding operation, served already, under the flag its instruction names (R219). -/
def withServed (id flag : Nat) (kind : OpKind) (dests : List Nat) (results : List (Nat × W32)) (g : Group) : Group :=
  { g with ops := g.ops ++ [⟨id, flag, kind, 0, dests, results, [], true, []⟩] }

/-- The same for one that names no flag where it is 15. -/
def withOpt (id flag : Nat) (results : List (Nat × W32)) (g : Group) : Group :=
  if flag = 15 then g else withServed id flag .access (results.map fun e => e.1) results g

/-- The group with one more operation, a command that an engine has accepted (R108). -/
def withTaken (id flag e : Nat) (lanes : Mask) (dests : List Nat) (g : Group) : Group :=
  { g with ops := g.ops ++ [⟨id, flag, .engine e 1, lanes, dests, [], [], false, []⟩] }

/-- A store to a local space has written its bytes, in the order named, and nothing else but the operation it leaves and the
cycles it takes. -/
structure StoredLocal (cx : Cx) (h : Hdr) (spc : Space) (bytes : List (Nat × Byte)) (s t : State) : Prop where
  cells : ∀ a, cellByte (spaceCells (coreSt t cx.core) spc) a =
    ((bytes.reverse.find? fun e => (runOf cx.w spc).1 + e.1 == a).map fun e => e.2).getD
      (cellByte (spaceCells (coreSt s cx.core) spc) a)
  others : ∀ other, other ≠ spc → spaceCells (coreSt t cx.core) other = spaceCells (coreSt s cx.core) other
  core : { coreSt t cx.core with
    sp := (coreSt s cx.core).sp, ob := (coreSt s cx.core).ob, ms := (coreSt s cx.core).ms
    spPoison := (coreSt s cx.core).spPoison, obPoison := (coreSt s cx.core).obPoison } = coreSt s cx.core
  cores : ∀ k, k ≠ cx.core → coreSt t k = coreSt s k
  run : ∃ c, sfind t.runs cx.rk = some { cx.run with cycle := c }
  group : sfind t.groups cx.gk = some (withOpt s.nextOp h.f.toNat [] cx.g)
  runs : ∀ k, k ≠ cx.rk → sfind t.runs k = sfind s.runs k
  groups : ∀ k, k ≠ cx.gk → sfind t.groups k = sfind s.groups k
  rest : { t with tick := s.tick, nextOp := s.nextOp, cores := s.cores, runs := s.runs, groups := s.groups } = s

/-- A store to lines of the cluster L2 has written its bytes, in the order named, and nothing else but the operation it leaves
and the core's own L1 copies. -/
structure StoredGlobal (cx : Cx) (h : Hdr) (bytes : List (Nat × Byte)) (s t : State) : Prop where
  holds : ∀ va, va < 2 ^ 57 → heldByte t (clusterOf cx.core) cx.w.asid va =
    ((bytes.reverse.find? fun e => e.1 == va).map fun e => e.2).or (heldByte s (clusterOf cx.core) cx.w.asid va)
  lines : ∀ key, (∀ e ∈ bytes, key ≠ lineKey cx.w.asid e.1) →
    sfind (clusterSt t (clusterOf cx.core)).l2 key = sfind (clusterSt s (clusterOf cx.core)).l2 key
  clusters : ∀ k, k ≠ clusterOf cx.core → clusterSt t k = clusterSt s k
  cores : ∀ k, k ≠ cx.core → coreSt t k = coreSt s k
  rest : Only cx s { t with nextOp := s.nextOp, clusters := s.clusters, cores := s.cores } cx.run
    (withOpt s.nextOp h.f.toNat [] cx.g)

/-- The group with the program counters of the lanes of a mask replaced. -/
def withPcs (g : Group) (m : Mask) (pc : Nat → Pc) : Group :=
  { g with lanes := g.lanes.mapIdx fun l x => if m.getLsbD l then { x with pc := pc l } else x }

/-- The program counter of the clause that follows a run's clause (R229, R319). -/
def following (r : Run) : Pc := ⟨r.head + BitVec.ofNat 57 (8 * (r.words.length + 1)), 0⟩

/-- The run as an instruction that moves its lanes leaves it. -/
def movedRun (r : Run) : Run := { r with ends := .moved }

/-! ### Results with fixed latency -/

/-- What the executing lanes hold of a destination field of `w` words: word j of lane l is `x l j`. -/
def toV (m : Mask) (d : Opnd) (w : Nat) (x : Nat → Nat → W32) (n l : Nat) : Option W32 :=
  match d with
  | .v k => if k.toNat ≤ n ∧ n < k.toNat + w ∧ m.getLsbD l = true then some (x l (n - k.toNat)) else none
  | _ => none

/-- The same for a scalar destination: once, from the elected lane (R334). -/
def toS (cx : Cx) (d : Opnd) (w : Nat) (x : Nat → Nat → W32) (n : Nat) : Option W32 :=
  match d with
  | .s k => if k.toNat ≤ n ∧ n < k.toNat + w then some (x (elected cx) (n - k.toNat)) else none
  | _ => none

/-- The group with the generators of the executing lanes moved by n draws (R310). -/
def drawn (cx : Cx) (n : Nat) (g : Group) : Group :=
  match n with
  | 0 => g
  | n + 1 => onLanes g cx.run.lanes fun y => { y with gen := drawAt y.gen n }

/-- The run's word writes registers and nothing else: each vector register of each lane, each scalar register and each
predicate holds, once the writes have landed, the value named for it or what it held; every lane (but for `n` draws of the
executing lanes), rejoin set, table, trap register, system register, accumulator, other run, other group and byte of memory,
and every other part of the state, is as it was. Marks that an outstanding operation's destination was overwritten (R221),
and the run's cycle, may change. -/
structure Wrote (cx : Cx) (s t : State) (n : Nat) (v : Nat → Nat → Option W32) (sc : Nat → Option W32)
    (p : List Mask → List Mask) : Prop where
  vregs : ∀ k l, l < 32 → vreg (landed cx t) k l = (v k l).getD (vreg (landed cx s) k l)
  sregs : ∀ k, sreg (landed cx t) k = (sc k).getD (sreg (landed cx s) k)
  preds : (landed cx t).preds = p (landed cx s).preds
  group : ∃ g g', sfind s.groups cx.gk = some g ∧ sfind t.groups cx.gk = some g' ∧ { g' with ops := g.ops } = drawn cx n g
    ∧ (g'.ops.map fun o => { o with clobbered := [] }) = g.ops.map fun o => { o with clobbered := [] }
  run : ∃ r r', sfind s.runs cx.rk = some r ∧ sfind t.runs cx.rk = some r' ∧ { r' with pend := r.pend, cycle := r.cycle } = r
  runs : ∀ k, k ≠ cx.rk → sfind t.runs k = sfind s.runs k
  groups : ∀ k, k ≠ cx.gk → sfind t.groups k = sfind s.groups k
  rest : { t with tick := s.tick, runs := s.runs, groups := s.groups } = s

/-- The meaning answers a next state in which the destination holds a 32-bit result in every executing lane. -/
def Gives32 (cx : Cx) (s : State) (d : Opnd) (f : Nat → W32) (out : Host.Outcome State Fault Refusal) : Prop :=
  ∃ t, out = .next t ∧
    Wrote cx s t 0 (toV cx.run.lanes d 1 fun l _ => f l) (toS cx d 1 fun l _ => f l) id

/-- The two words of a 64-bit value. -/
def halves (x : W64) (j : Nat) : W32 := if j = 0 then lo32 x else hi32 x

/-- The same for a 64-bit result, and `n` draws. -/
def Gives64 (cx : Cx) (s : State) (d : Opnd) (f : Nat → W64) (out : Host.Outcome State Fault Refusal) : Prop :=
  ∃ t, out = .next t ∧
    Wrote cx s t 0 (toV cx.run.lanes d 2 fun l => halves (f l)) (toS cx d 2 fun l => halves (f l)) id

/-- The predicates after a predicate destination took bits in the lanes of a mask: P7 and Z discard (R361). -/
def toP (m : Mask) (d : Opnd) (bits : Mask) (ps : List Mask) : List Mask :=
  match d with
  | .p n => if n = 7 then ps else modAt ps n.toNat fun q => (q &&& ~~~m) ||| (bits &&& m)
  | _ => ps

/-- The same for a predicate, in the executing lanes. -/
def GivesPred (cx : Cx) (s : State) (d : Opnd) (bits : Mask) (out : Host.Outcome State Fault Refusal) : Prop :=
  ∃ t, out = .next t ∧ Wrote cx s t 0 (fun _ _ => none) (fun _ => none) (toP cx.run.lanes d bits)

/-- The same for a result of `w` words, given word by word, with `n` draws of the executing lanes. -/
def GivesWords (cx : Cx) (s : State) (w n : Nat) (d : Opnd) (x : Nat → Nat → W32) (out : Host.Outcome State Fault Refusal) :
    Prop :=
  ∃ t, out = .next t ∧ Wrote cx s t n (toV cx.run.lanes d w x) (toS cx d w x) id

/-- The same for a result of `w` words given as a number. -/
def GivesBits (cx : Cx) (s : State) (w n : Nat) (d : Opnd) (x : Nat → Nat) (out : Host.Outcome State Fault Refusal) : Prop :=
  GivesWords cx s w n d (fun l j => BitVec.ofNat 32 (x l / 2 ^ (32 * j))) out

/-- The same for a result of a floating-point format (R388, R389). -/
def GivesFp (cx : Cx) (s : State) (f : FFmt) (n : Nat) (d : Opnd) (x : Nat → Nat) (out : Host.Outcome State Fault Refusal) : Prop :=
  GivesBits cx s (fpWords f) n d x out

/-- What a 32-bit or 64-bit integer source supplies to an instruction at issue (R331). -/
def in32 (cx : Cx) (s : State) (o : Opnd) (l : Nat) : W32 := rdI cx (ticked s) o l
def in64 (cx : Cx) (s : State) (o : Opnd) (l : Nat) : W64 := rdI64 cx (ticked s) o l

/-- Element e of a floating-point source as a value. -/
def inFp (cx : Cx) (s : State) (f : FFmt) (o : Opnd) (l e : Nat) : Fp := elemVal f (rdFp cx (ticked s) f o l) e

/-- A binary tree of depth k over values by number: node i joins nodes 2i and 2i+1 of the level below (R413). -/
def treeFold (f : Nat → Nat → Nat) : Nat → (Nat → Nat) → Nat → Nat
  | 0, v, i => v i
  | k + 1, v, i => f (treeFold f k v (2 * i)) (treeFold f k v (2 * i + 1))

/-- The draws a rounding mode takes (R310). -/
def drawsOf (x : Rnd) (n : Nat) : Nat := if x = .rs then n else 0

end Sys2Proof
end

