-- ==== Sys2Proof/Certificates/Slice0/Obligations.lean ====
section
/-! DEFINITION. The statements for the provers, in the order of OBLIGATIONS.json. -/

open Sys2Proof Sys2Proof.Machine

/-! ### Encoding, reset, steps, memory -/

/-- R317, R320, R324, R329, R339, R340 and the tables of R365 to R483: words of the manual's own examples decode to the
instructions they stand for, and words that the opcode map does not assign, or whose X is reserved, decode to none. -/
def Obligations.SampleWordsDecode : Prop :=
  let h (f g : Nat) : Hdr := ⟨false, BitVec.ofNat 4 f, BitVec.ofNat 4 g⟩
  decode 0x801B_8044_0800_AC84 = .ok (.ldG (h 3 7) .b32 ⟨.v 4, .s 4, .v 2, .imm 16⟩) ∧
  decode 0x217B_8020_0568_3FF8 = .ok (.iadd (h 15 7) .wrap32 ⟨.v 2, .v 2, .imm 32, .z⟩) ∧
  decode 0x487B_8060_0C01_F181 = .ok (.fmaF32 (h 15 7) .rz ⟨.v 6, .v 6, .v 7, .lit 3 false⟩) ∧
  decode 0x0178_FFFF_FFFF_FFD8 = .ok (.bra (h 15 1) ⟨.z, .z, 0x3FFFFB⟩) ∧
  decode 0x0479_0000_29FF_FFF8 = .ok (.callx (h 15 2) ⟨.v 0, .v 20, .z, .z⟩) ∧
  decode 0x2E7B_F010_0760_0082 = .ok (.icmp (h 15 7) .lt ⟨.p 1, .v 3, .imm 0, 0x010⟩) ∧
  decode 0x587B_8060_0E7E_0000 = .ok (.fmaiF32 (h 15 7) .rn ⟨.v 6, .v 7, 0x3F000, 0⟩) ∧
  decode 0x687B_A140_07FF_C08A = .ok (.redMax (h 15 7) ⟨.s 20, .v 3, .z, 0x011⟩) ∧
  decode 0xA013_8070_1400_E488 = .ok (.atomGAdd (h 2 7) ⟨.v 7, .v 10, .v 3, 0x491⟩) ∧
  decode 0xC213_FFF4_11FF_FFF8 = .ok (.mma (h 2 7) ⟨.z, .s 8, .z, .z⟩) ∧
  decode 0xE07B_FFFF_FE00_0918 = .ok (.trap (h 15 7) ⟨.z, .z, 0x123⟩) ∧
  (∀ w : W64, w.extractLsb' 56 8 = 0xC5 → decode w = .error .unassignedOpcode) ∧
  decode 0x487B_8060_0C01_F187 = .error .reservedX

/-- R324 to R347: for every well-formed instruction that has a word, decoding the word that encodes it gives the instruction
back, with every operand at every value. -/
def Obligations.DecodingInvertsEncoding : Prop :=
  ∀ (i : Instr) (w : W64), i.wf = true → encode i = some w → decode w = .ok i

/-- R324 to R347: no bit of a word that decodes is lost, and what a word decodes to is well formed: encoding it gives the
word back. -/
def Obligations.EncodingInvertsDecoding : Prop :=
  ∀ (w : W64) (i : Instr), decode w = .ok i → encode i = some w ∧ i.wf = true

/-- R6, R15, R24 to R26, R39, R42, R54, R90, R109, R152, R157, R167, R212, R238, R269: what reset and release leave, where
the manual gives it; and the memory at reset is in its canonical form. The empty lists and the canonical form are the model's
own (log 3, log 8). -/
def Obligations.ResetLeaves : Prop :=
  let s := State.reset
  s.boot.phase = 0 ∧ s.boot.failcode = 0 ∧ s.boot.hbmok = 0 ∧ s.boot.wash = false ∧ s.boot.clustok = 0 ∧
  (∀ n, n < 16 → s.boot.apercfg[n]? = some 0) ∧ (∀ n, n < 12 → s.boot.coresok[n]? = some 0) ∧
  (∀ n, n < 18 → (portOf s n).state = 0 ∧ (portOf s n).half = false ∧ (portOf s n).peerid = 0 ∧ (portOf s n).replays = 0 ∧
    (portOf s n).enable = false ∧ (portOf s n).backoff = 0x40 ∧ (portOf s n).proterr = 0 ∧ (portOf s n).nakign = 0) ∧
  s.featacc = [0, 0, 0, 0] ∧ s.boot.featlock = false ∧ s.boot.feaerr = false ∧
  s.mailbox.req = List.replicate 8 0 ∧ s.mailbox.go = false ∧ s.mailbox.op = 0 ∧ s.mailbox.status = 0 ∧ s.mailbox.result = 0 ∧
  s.evring.prod = 0 ∧ s.evring.cons = 0 ∧ s.evring.ovf = false ∧ s.evring.lost = 0 ∧
  s.ckpt.busy = false ∧ s.ckpt.fail = false ∧ s.ckpt.aborted = false ∧ s.ckpt.sent = 0 ∧
  s.boot.fatal = false ∧ s.boot.killCount = 0 ∧ s.boot.ceCount = 0 ∧ s.boot.ironEn = true ∧ s.boot.ironPeriod = 10 ∧
  s.owner.nonce = List.replicate 32 0 ∧ s.owner.go = false ∧
  (∀ core, (coreSt s core).naks = 0 ∧ (coreSt s core).backoff = 0x40 ∧ (coreSt s core).bankMode = List.replicate 16 0 ∧
    (coreSt s core).bankFrom = [] ∧ (mxOf s core).cap = 64 ∧ (mxOf s core).budget = 8 ∧ (mxOf s core).stall = 0) ∧
  (∀ cl, (clusterSt s cl).mergewin = 256) ∧
  s.ctxs = [] ∧ s.queues = [] ∧ s.board = [] ∧ s.groups = [] ∧ s.runs = [] ∧ MemCanonical s ∧
  (∀ wg num ubase n, let g := newGroup wg num ubase n
    g.trap.tvec0 = 0 ∧ g.trap.tvec1 = 0 ∧ g.trap.tcause = 0 ∧ g.trap.tmask = 0 ∧ g.trap.tepc = ⟨0, 0⟩ ∧ g.trap.taddr = 0 ∧
    g.trap.lpcsel = 0 ∧ g.trap.hchk = false ∧ g.trap.masked = false ∧ g.trap.inh = false ∧ g.trap.rngsel = 0 ∧
    g.members = List.replicate 16 0 ∧ g.arrivals = List.replicate 16 0 ∧ g.preds = List.replicate 7 0 ∧
    ∀ l, l < 32 → (laneOf g l).pc = ⟨BitVec.ofNat 57 n.2.1, 0⟩ ∧ (laneOf g l).st = .unblocked ∧ (laneOf g l).age = 0)

/-- R217, R218, R230, R319, R325: a step that issues a word lands the writes that are due, decodes the word and is exec of
what it decodes to, then moves the run on: to the next word that is no literal, or to its end at the switch marker, at the
clause's last word or where the instruction ends the run; a stalled attempt only lets a cycle pass. A word that decodes to
nothing raises the illegal-instruction exception, a lane-pattern form with a wrong X where nothing else is wrong the
illegal-operand exception (refusalCode, log 53). A step that takes an event is exec of the event. The agenda and the focus are
the model's own (log 4). -/
def Obligations.StepRunsTheDecodedInstruction : Prop :=
  (∀ (s : State) (rest : List Item) (core q : Nat) (cx : Cx), s.agenda = .issue core q :: rest →
    let u := issueState core q { s with agenda := rest }
    cxOf u = some cx →
    let w := cx.run.words.getD cx.run.widx 0
    let after (t : State) : State := { advance cx.rk cx.gk cx.wk (w.getLsbD 55) t with focus := none }
    (∀ i t, decode w = .ok i → exec i u = .next t → step s = .next (settleTroubles (sweepsGo (after t)))) ∧
    (∀ e, decode w = .error e →
      step s = .next (settleTroubles (sweepsGo (after (raiseExc cx (refusalCode cx w u e) 0 u))))) ∧
    (∀ e, decode w = .error e → e ≠ .operandX → refusalCode cx w u e = 1)) ∧
  (∀ (s : State) (rest : List Item) (i : Instr) (env : Env), s.agenda = .event i env :: rest →
    ∀ t, exec i { s with agenda := rest, env := env, focus := none } = .next t →
      step s = .next (settleTroubles (sweepsGo t))) ∧
  (∀ s : State, s.troubles = [] → (∀ e ∈ s.sw, e.2.held = [] ∧ (e.2.run = 2 → ∀ p ∈ e.2.patch, p.kind = 0)) →
    settleTroubles (sweepsGo s) = s) ∧
  (∀ (s : State) (core q : Nat) (cx : Cx), cxOf { s with focus := some (core, q) } = some cx →
    issueState core q s = landDue cx.rk cx.gk cx.wk { s with focus := some (core, q) }) ∧
  (∀ (s : State) (rk gk wk : Nat) (sw : Bool) (r : Run), sfind s.runs rk = some r →
    (r.stalled = true → advance rk gk wk sw s = modRun s rk fun r => { r with stalled := false, cycle := r.cycle + 1 }) ∧
    (r.stalled = false → r.ends ≠ .going → advance rk gk wk sw s = endRun rk gk wk s) ∧
    (r.stalled = false → r.ends = .going → sw = true →
      advance rk gk wk sw s = endRun rk gk wk (modRun s rk fun r => { r with ends := .after })) ∧
    (∀ k, r.stalled = false → r.ends = .going → sw = false → r.widx < k → k < r.words.length →
      r.header.toNat.testBit (20 + k) = false → k < 16 →
      (∀ j, r.widx < j → j < k → r.header.toNat.testBit (20 + j) = true) →
      advance rk gk wk sw s = modRun s rk fun r => { r with widx := k, cycle := r.cycle + 1 }))

/-- R28, R131, R183: bytes written to memory read back, every other byte stays, and the canonical form is kept; two canonical
memories that read alike are equal; and every step that answers a next state keeps the canonical form of physical memory and
of the local memories (the form and the default are the model's own, log entries 2 and 3). -/
def Obligations.MemoryReadsBack : Prop :=
  (∀ (m : List Host.Cell) (a : Nat) (bs : List Byte), Memory.wf m = true →
    Memory.wf (putBytes m a bs) = true ∧
    (∀ k, k < bs.length → sget memDefault (putBytes m a bs) (a + k) = bs.getD k 0) ∧
    (∀ x, (x < a ∨ a + bs.length ≤ x) → sget memDefault (putBytes m a bs) x = sget memDefault m x)) ∧
  (∀ m m' : List Host.Cell, Memory.wf m = true → Memory.wf m' = true → (∀ a, sget memDefault m a = sget memDefault m' a) →
    m = m') ∧
  (∀ (s : State) (pa : Nat) (bs : List Byte), pa + bs.length ≤ firmwareBase → Memory.wf s.mem = true →
    Memory.wf (ctrlWrite s 0 pa bs).mem = true ∧
    (∀ k, k < bs.length → memByte (ctrlWrite s 0 pa bs) (pa + k) = bs.getD k 0) ∧
    (∀ x, (x < pa ∨ pa + bs.length ≤ x) → memByte (ctrlWrite s 0 pa bs) x = memByte s x)) ∧
  (∀ s t : State, MemCanonical s → step s = .next t → MemCanonical t)

/-- R181, R182: a block written under any compression kind reads back as it was written, whatever form it took. -/
def Obligations.CompressedBlocksReadBack : Prop :=
  ∀ (s : State) (ck pa blk : Nat), ck < 4 → targetOf pa = .hbm → blk < 2 ^ 2048 →
    (readBlock (writeBlock s ck pa blk 0) ck pa).1 = blk

/-! ### Group 001: integers and predicates -/

/-- R375: MOV copies, MOVI writes the sign-extended immediate, SEL picks A in the lanes where the guard is true and B in the
others. Every destination form; what is not the destination stays (Wrote). R377: addition and subtraction wrap, or saturate
as signed or unsigned 32-bit integers. -/
def Obligations.MovesAndSumsGive : Prop :=
  (∀ (h : Hdr) (cx : Cx) (s : State),
    (∀ o, Ready (intForm o 1 1 0 0) h cx s → Gives32 cx s o.d (in32 cx s o.a) (exec (.mov h .w32 o) s)) ∧
    (∀ o, Ready (intForm o 2 2 0 0) h cx s → Gives64 cx s o.d (in64 cx s o.a) (exec (.mov h .w64 o) s)) ∧
    (∀ o, Ready (intForm22 o 1 0) h cx s →
      Gives32 cx s o.d (fun _ => BitVec.ofInt 32 o.m.toInt) (exec (.movi h .w32 o) s)) ∧
    (∀ o, Ready (intForm22 o 2 0) h cx s →
      Gives64 cx s o.d (fun _ => BitVec.ofInt 64 o.m.toInt) (exec (.movi h .w64 o) s)) ∧
    (∀ o, Ready { intForm o 1 1 1 0 with guarded := true, modOk := selGuardOk h o } h cx s →
      Gives32 cx s o.d (fun l => if (guardMask cx h).getLsbD l then in32 cx s o.a l else in32 cx s o.b l)
        (exec (.sel h .w32 o) s)) ∧
    (∀ o, Ready { intForm o 2 2 2 0 with guarded := true, modOk := selGuardOk h o } h cx s →
      Gives64 cx s o.d (fun l => if (guardMask cx h).getLsbD l then in64 cx s o.a l else in64 cx s o.b l)
        (exec (.sel h .w64 o) s))) ∧
  (∀ (h : Hdr) (cx : Cx) (s : State),
    (∀ o, Ready (intForm o 1 1 1 0) h cx s →
      Gives32 cx s o.d (fun l => BitVec.ofNat 32 ((in32 cx s o.a l).toNat + (in32 cx s o.b l).toNat))
        (exec (.iadd h .wrap32 o) s) ∧
      Gives32 cx s o.d
        (fun l => BitVec.ofInt 32 (max (-2147483648) (min 2147483647 ((in32 cx s o.a l).toInt + (in32 cx s o.b l).toInt))))
        (exec (.iadd h .satI32 o) s) ∧
      Gives32 cx s o.d (fun l => BitVec.ofNat 32 (min 4294967295 ((in32 cx s o.a l).toNat + (in32 cx s o.b l).toNat)))
        (exec (.iadd h .satN32 o) s) ∧
      Gives32 cx s o.d (fun l => BitVec.ofInt 32 ((in32 cx s o.a l).toNat - (in32 cx s o.b l).toNat))
        (exec (.isub h .wrap32 o) s) ∧
      Gives32 cx s o.d
        (fun l => BitVec.ofInt 32 (max (-2147483648) (min 2147483647 ((in32 cx s o.a l).toInt - (in32 cx s o.b l).toInt))))
        (exec (.isub h .satI32 o) s) ∧
      Gives32 cx s o.d (fun l => BitVec.ofNat 32 ((in32 cx s o.a l).toNat - (in32 cx s o.b l).toNat))
        (exec (.isub h .satN32 o) s)) ∧
    (∀ o, Ready (intForm o 2 2 2 0) h cx s →
      Gives64 cx s o.d (fun l => BitVec.ofNat 64 ((in64 cx s o.a l).toNat + (in64 cx s o.b l).toNat))
        (exec (.iadd h .wrap64 o) s) ∧
      Gives64 cx s o.d (fun l => BitVec.ofInt 64 ((in64 cx s o.a l).toNat - (in64 cx s o.b l).toNat))
        (exec (.isub h .wrap64 o) s)) ∧
    (∀ o, Ready (intForm22 o 1 1) h cx s →
      Gives32 cx s o.d (fun l => BitVec.ofInt 32 ((in32 cx s o.a l).toInt + o.m.toInt)) (exec (.iaddi h .w32 o) s)) ∧
    (∀ o, Ready (intForm22 o 2 2) h cx s →
      Gives64 cx s o.d (fun l => BitVec.ofInt 64 ((in64 cx s o.a l).toInt + o.m.toInt)) (exec (.iaddi h .w64 o) s)))

/-- R378, R379: the products and the smaller or larger of two integers. -/
def Obligations.ProductsAndBoundsGive : Prop :=
  ∀ (h : Hdr) (cx : Cx) (s : State),
    (∀ o, Ready (intForm o 1 1 1 0) h cx s →
      Gives32 cx s o.d (fun l => BitVec.ofNat 32 ((in32 cx s o.a l).toNat * (in32 cx s o.b l).toNat))
        (exec (.imul h .low32 o) s) ∧
      Gives32 cx s o.d (fun l => BitVec.ofInt 32 ((in32 cx s o.a l).toInt * (in32 cx s o.b l).toInt / 2 ^ 32))
        (exec (.imul h .hiI32 o) s) ∧
      Gives32 cx s o.d (fun l => BitVec.ofNat 32 ((in32 cx s o.a l).toNat * (in32 cx s o.b l).toNat / 2 ^ 32))
        (exec (.imul h .hiN32 o) s) ∧
      Gives32 cx s o.d (fun l => BitVec.ofInt 32 (min (in32 cx s o.a l).toInt (in32 cx s o.b l).toInt))
        (exec (.imin h .i32 o) s) ∧
      Gives32 cx s o.d (fun l => BitVec.ofNat 32 (min (in32 cx s o.a l).toNat (in32 cx s o.b l).toNat))
        (exec (.imin h .n32 o) s) ∧
      Gives32 cx s o.d (fun l => BitVec.ofInt 32 (max (in32 cx s o.a l).toInt (in32 cx s o.b l).toInt))
        (exec (.imax h .i32 o) s) ∧
      Gives32 cx s o.d (fun l => BitVec.ofNat 32 (max (in32 cx s o.a l).toNat (in32 cx s o.b l).toNat))
        (exec (.imax h .n32 o) s)) ∧
    (∀ o, Ready (intForm o 2 2 2 0) h cx s →
      Gives64 cx s o.d (fun l => BitVec.ofNat 64 ((in64 cx s o.a l).toNat * (in64 cx s o.b l).toNat))
        (exec (.imul h .low64 o) s) ∧
      Gives64 cx s o.d (fun l => BitVec.ofInt 64 (min (in64 cx s o.a l).toInt (in64 cx s o.b l).toInt))
        (exec (.imin h .i64 o) s) ∧
      Gives64 cx s o.d (fun l => BitVec.ofNat 64 (min (in64 cx s o.a l).toNat (in64 cx s o.b l).toNat))
        (exec (.imin h .n64 o) s) ∧
      Gives64 cx s o.d (fun l => BitVec.ofInt 64 (max (in64 cx s o.a l).toInt (in64 cx s o.b l).toInt))
        (exec (.imax h .i64 o) s) ∧
      Gives64 cx s o.d (fun l => BitVec.ofNat 64 (max (in64 cx s o.a l).toNat (in64 cx s o.b l).toNat))
        (exec (.imax h .n64 o) s)) ∧
    (∀ o, Ready (intForm o 1 1 1 1) h cx s →
      Gives32 cx s o.d
        (fun l => BitVec.ofNat 32 ((in32 cx s o.a l).toNat * (in32 cx s o.b l).toNat + (in32 cx s o.c l).toNat))
        (exec (.imad h .low32 o) s)) ∧
    (∀ o, Ready (intForm o 2 1 1 2) h cx s →
      Gives64 cx s o.d
        (fun l => BitVec.ofInt 64 ((in32 cx s o.a l).toInt * (in32 cx s o.b l).toInt + (in64 cx s o.c l).toInt))
        (exec (.imad h .wideI32 o) s) ∧
      Gives64 cx s o.d
        (fun l => BitVec.ofNat 64 ((in32 cx s o.a l).toNat * (in32 cx s o.b l).toNat + (in64 cx s o.c l).toNat))
        (exec (.imad h .wideN32 o) s))

/-- R381, R382: shifts by the whole amount, rotations by the amount modulo 32, funnel shifts of the 64-bit value A:B by C
clamped at 32. R383, R384: the bitwise forms bit by bit, the counting forms, and the bit-field forms. R387: LEA adds the
extended index, shifted by SH, to the base. -/
def Obligations.ShiftsAndBitsGive : Prop :=
  (∀ (h : Hdr) (cx : Cx) (s : State),
    (∀ o, Ready (intForm o 1 1 1 0) h cx s →
      Gives32 cx s o.d (fun l => BitVec.ofNat 32 ((in32 cx s o.a l).toNat * 2 ^ (in32 cx s o.b l).toNat))
        (exec (.shl h o) s) ∧
      Gives32 cx s o.d (fun l => BitVec.ofNat 32 ((in32 cx s o.a l).toNat / 2 ^ (in32 cx s o.b l).toNat))
        (exec (.shr h o) s) ∧
      Gives32 cx s o.d (fun l => BitVec.ofInt 32 ((in32 cx s o.a l).toInt / 2 ^ (in32 cx s o.b l).toNat))
        (exec (.sar h o) s) ∧
      Gives32 cx s o.d (fun l => (in32 cx s o.a l).rotateLeft ((in32 cx s o.b l).toNat % 32)) (exec (.rol h o) s) ∧
      Gives32 cx s o.d (fun l => (in32 cx s o.a l).rotateRight ((in32 cx s o.b l).toNat % 32)) (exec (.ror h o) s)) ∧
    (∀ o, Ready (intForm o 1 1 1 1) h cx s →
      Gives32 cx s o.d
        (fun l => BitVec.ofNat 32 (((in32 cx s o.a l).toNat * 2 ^ 32 + (in32 cx s o.b l).toNat) *
          2 ^ min (in32 cx s o.c l).toNat 32 / 2 ^ 32))
        (exec (.fshL h o) s) ∧
      Gives32 cx s o.d
        (fun l => BitVec.ofNat 32 (((in32 cx s o.a l).toNat * 2 ^ 32 + (in32 cx s o.b l).toNat) /
          2 ^ min (in32 cx s o.c l).toNat 32))
        (exec (.fshR h o) s))) ∧
  (∀ (h : Hdr) (cx : Cx) (s : State),
    (∀ o, Ready (intForm o 1 1 1 0) h cx s →
      ∀ p ∈ ([(.andB h o, fun a b => a && b), (.orB h o, fun a b => a || b), (.xorB h o, fun a b => a != b),
          (.andnB h o, fun a b => a && !b), (.ornB h o, fun a b => a || !b), (.xnorB h o, fun a b => a == b)] :
            List (Instr × (Bool → Bool → Bool))),
        Gives32 cx s o.d (fun l => maskOf fun i => p.2 ((in32 cx s o.a l).getLsbD i) ((in32 cx s o.b l).getLsbD i))
          (exec p.1 s)) ∧
    (∀ o, Ready (intForm o 1 1 0 0) h cx s →
      Gives32 cx s o.d (fun l => maskOf fun i => !(in32 cx s o.a l).getLsbD i) (exec (.notB h o) s) ∧
      Gives32 cx s o.d (fun l => (in32 cx s o.a l).clz) (exec (.clz h o) s) ∧
      Gives32 cx s o.d (fun l => (in32 cx s o.a l).cpop) (exec (.popc h o) s) ∧
      Gives32 cx s o.d (fun l => (in32 cx s o.a l).reverse) (exec (.brev h o) s)) ∧
    (∀ o, Ready (intForm o 1 1 1 0) h cx s →
      Gives32 cx s o.d
        (fun l =>
          let p := min ((in32 cx s o.b l).toNat % 256) 32
          let n := min ((in32 cx s o.b l).toNat / 256 % 256) 32
          maskOf fun i => decide (i < n) && (in32 cx s o.a l).getLsbD (p + i))
        (exec (.bfe h .zero o) s) ∧
      Gives32 cx s o.d
        (fun l =>
          let p := min ((in32 cx s o.b l).toNat % 256) 32
          let n := min ((in32 cx s o.b l).toNat / 256 % 256) 32
          maskOf fun i => decide (0 < n) && (in32 cx s o.a l).getLsbD (min (p + min i (n - 1)) 31))
        (exec (.bfe h .sign o) s)) ∧
    (∀ o, Ready (intForm o 1 1 1 1) h cx s →
      Gives32 cx s o.d
        (fun l =>
          let p := min ((in32 cx s o.c l).toNat % 256) 32
          let n := min ((in32 cx s o.c l).toNat / 256 % 256) 32
          maskOf fun i => if p ≤ i ∧ i < p + n then (in32 cx s o.a l).getLsbD (i - p) else (in32 cx s o.b l).getLsbD i)
        (exec (.bfi h o) s))) ∧
  (∀ (h : Hdr) (cx : Cx) (s : State) (o : RM),
    Ready { unit := 0, modOk := decide (o.c.toNat < 8), ops := [(o.d, .dst 2 true true), (o.a, .src 2 (isS o.d)),
      (o.b, .src 1 (isS o.d))] } h cx s →
    Gives64 cx s o.d (fun l => BitVec.ofInt 64 ((in64 cx s o.a l).toNat + (in32 cx s o.b l).toInt * 2 ^ o.c.toNat))
      (exec (.lea h .sx o) s) ∧
    Gives64 cx s o.d (fun l => BitVec.ofNat 64 ((in64 cx s o.a l).toNat + (in32 cx s o.b l).toNat * 2 ^ o.c.toNat))
      (exec (.lea h .zx o) s))

/-- R385, R386: compares, predicate logic and the moves between predicates and registers. The bits of a predicate change in
the executing lanes only; P7 and Z discard (toP). -/
def Obligations.PredicatesGive : Prop :=
  ∀ (h : Hdr) (cx : Cx) (s : State),
    (∀ o : RM, ∀ c ∈ ([(.eq, fun a b => decide (a = b)), (.ne, fun a b => decide (a ≠ b)), (.lt, fun a b => decide (a < b)),
        (.le, fun a b => decide (a ≤ b)), (.gt, fun a b => decide (b < a)), (.ge, fun a b => decide (b ≤ a))] :
          List (Cc × (Int → Int → Bool))),
      ∀ t ∈ ([(16, 1, fun o l => (in32 cx s o l).toInt), (17, 1, fun o l => (in32 cx s o l).toNat),
          (18, 2, fun o l => (in64 cx s o l).toInt), (19, 2, fun o l => (in64 cx s o l).toNat)] :
            List (BitVec 11 × Nat × (Opnd → Nat → Int))),
      o.c = t.1 →
      Ready { unit := 0, ops := [(o.d, .pdst), (o.a, .src t.2.1 false), (o.b, .src t.2.1 false)] } h cx s →
      GivesPred cx s o.d (maskOf fun l => c.2 (t.2.2 o.a l) (t.2.2 o.b l)) (exec (.icmp h c.1 o) s)) ∧
    (∀ o, Ready { unit := 0, ops := [(o.d, .pdst), (o.a, .psrc), (o.b, .psrc), (o.c, .unused)] } h cx s →
      ∀ p ∈ ([(.pand h o, fun a b => a && b), (.por h o, fun a b => a || b), (.pxor h o, fun a b => a != b),
          (.pandn h o, fun a b => a && !b)] : List (Instr × (Bool → Bool → Bool))),
        GivesPred cx s o.d (maskOf fun l => p.2 ((rdPred cx o.a).getLsbD l) ((rdPred cx o.b).getLsbD l)) (exec p.1 s)) ∧
    (∀ o, Ready { unit := 0, ops := [(o.d, .pdst), (o.a, .psrc), (o.b, .unused), (o.c, .unused)] } h cx s →
      GivesPred cx s o.d (maskOf fun l => !(rdPred cx o.a).getLsbD l) (exec (.pnot h o) s)) ∧
    (∀ o, Ready { unit := 0, ops := [(o.d, .dst 1 true false), (o.a, .psrc), (o.b, .unused), (o.c, .unused)] } h cx s →
      Gives32 cx s o.d (fun l => if (rdPred cx o.a).getLsbD l then 1 else 0) (exec (.ptov h o) s)) ∧
    (∀ o, Ready { unit := 0, ops := [(o.d, .pdst), (o.a, .src 1 false), (o.b, .unused), (o.c, .unused)] } h cx s →
      GivesPred cx s o.d (maskOf fun l => decide (in32 cx s o.a l ≠ 0)) (exec (.vtop h o) s))

/-! ### Group 010: floating point -/

/-- R390 to R393: FADD, FMUL and FMA form the exact result of each element and round it once; under .RS every executing lane
takes one draw an element. R396: the immediate forms; FMAI reads its destination; FMOVI writes the bits of its immediate. -/
def Obligations.FloatArithmeticGives : Prop :=
  (∀ (h : Hdr) (x : Rnd) (cx : Cx) (s : State),
    (∀ o : RM, ∀ p ∈ ([(.f32, .faddF32 h x o, .fmulF32 h x o), (.f64, .faddF64 h x o, .fmulF64 h x o),
        (.f16, .faddF16 h x o, .fmulF16 h x o), (.bf16, .faddBf16 h x o, .fmulBf16 h x o)] : List (FFmt × Instr × Instr)),
      Ready (fpFormM p.1 x o) h cx s →
      let a l e := fpSign (o.c.getLsbD 2) (o.c.getLsbD 0) (inFp cx s p.1 o.a l e)
      let b l e := fpSign (o.c.getLsbD 3) (o.c.getLsbD 1) (inFp cx s p.1 o.b l e)
      let round l e := roundArith p.1 x (defaultOvf p.1 != o.c.getLsbD 4) (laneDraw cx l e)
      GivesFp cx s p.1 (drawsOf x (fpElems p.1)) o.d
        (fun l => mapElems p.1 fun e => round l e (fpAdd (x == .rd) (a l e) (b l e))) (exec p.2.1 s) ∧
      GivesFp cx s p.1 (drawsOf x (fpElems p.1)) o.d
        (fun l => mapElems p.1 fun e => round l e (fpMul (a l e) (b l e))) (exec p.2.2 s)) ∧
    (∀ o : R4, ∀ p ∈ ([(.f32, .fmaF32 h x o), (.f64, .fmaF64 h x o), (.f16, .fmaF16 h x o), (.bf16, .fmaBf16 h x o)] :
        List (FFmt × Instr)),
      Ready (fpForm p.1 x (o.d, true) (o.a, true) (o.b, true) (o.c, true)) h cx s →
      GivesFp cx s p.1 (drawsOf x (fpElems p.1)) o.d
        (fun l => mapElems p.1 fun e => roundArith p.1 x (defaultOvf p.1) (laneDraw cx l e)
          (fpAdd (x == .rd) (fpMul (inFp cx s p.1 o.a l e) (inFp cx s p.1 o.b l e)) (inFp cx s p.1 o.c l e)))
        (exec p.2 s))) ∧
  (∀ (h : Hdr) (x : Rnd) (cx : Cx) (s : State) (o : I20),
    let round l e := roundArith .f32 x (defaultOvf .f32) (laneDraw cx l e)
    let a l := inFp cx s .f32 o.a l 0
    (Ready (i20Form x o (.src 1 false)) h cx s →
      GivesFp cx s .f32 (drawsOf x 1) o.d
        (fun l => mapElems .f32 fun e => round l e (fpAdd (x == .rd) (a l) (decodeF .f32 (o.q.toNat * 2 ^ 12))))
        (exec (.faddiF32 h x o) s) ∧
      GivesFp cx s .f32 (drawsOf x 1) o.d (fun l => mapElems .f32 fun e => round l e (fpMul (a l) (decodeF .f32 (o.q.toNat * 2 ^ 12))))
        (exec (.fmuliF32 h x o) s) ∧
      GivesFp cx s .f32 (drawsOf x 1) o.d
        (fun l => mapElems .f32 fun e =>
          round l e (fpAdd (x == .rd) (fpMul (inFp cx s .f32 o.d l 0) (a l)) (decodeF .f32 (o.q.toNat * 2 ^ 12))))
        (exec (.fmaiF32 h x o) s)) ∧
    (Ready (i20Form .rn o .unused) h cx s →
      GivesFp cx s .f32 0 o.d (fun _ => o.q.toNat * 2 ^ 12) (exec (.fmoviF32 h o) s)))

/-- R394, R395: the minimum and maximum of each element, with −0 below +0 and a NaN giving way to a number; a compare holds
where it holds for every element. -/
def Obligations.FloatComparesGive : Prop :=
  ∀ (h : Hdr) (cx : Cx) (s : State) (o : R4),
    (∀ p ∈ ([(.f32, .fminF32 h o, .fmaxF32 h o), (.f64, .fminF64 h o, .fmaxF64 h o),
        (.f16, .fminF16 h o, .fmaxF16 h o), (.bf16, .fminBf16 h o, .fmaxBf16 h o)] : List (FFmt × Instr × Instr)),
      Ready (fpForm p.1 .rn (o.d, true) (o.a, true) (o.b, true) (o.c, false)) h cx s →
      let pick (lower : Bool) l e :=
        let a := elemOf p.1 (rdFp cx (ticked s) p.1 o.a l) e
        let b := elemOf p.1 (rdFp cx (ticked s) p.1 o.b l) e
        if fpIsNan (decodeF p.1 a) then (if fpIsNan (decodeF p.1 b) then nanCode p.1 else b)
        else if fpIsNan (decodeF p.1 b) then a
        else if fpCmp (decodeF p.1 a) (decodeF p.1 b) = .eq then (if fpNeg (decodeF p.1 a) = lower then a else b)
        else if decide (fpCmp (decodeF p.1 a) (decodeF p.1 b) = .lt) = lower then a else b
      GivesFp cx s p.1 0 o.d (fun l => mapElems p.1 (pick true l)) (exec p.2.1 s) ∧
      GivesFp cx s p.1 0 o.d (fun l => mapElems p.1 (pick false l)) (exec p.2.2 s)) ∧
    (∀ x : FCc, ∀ p ∈ ([(.f32, .fcmpF32 h x o), (.f64, .fcmpF64 h x o), (.f16, .fcmpF16 h x o), (.bf16, .fcmpBf16 h x o)] :
        List (FFmt × Instr)),
      Ready { unit := 0, ops := [(o.d, .pdst), (o.a, .src (fpWords p.1) false), (o.b, .src (fpWords p.1) false),
        (o.c, .unused)] } h cx s →
      GivesPred cx s o.d
        (maskOf fun l => (List.range (fpElems p.1)).all fun e =>
          fcmpHolds x (inFp cx s p.1 o.a l e) (inFp cx s p.1 o.b l e))
        (exec p.2 s))

/-- R397: the special functions, each in every executing lane. R399: the results of the special functions for special inputs,
which leave no choice: -∞, -0, +0, +∞, every NaN, negative arguments of FSQRT, FRSQ and FLOG2, and the exact results: FSIN and
FCOS of integers and half-integers; of R398: FEXP2 of integers from -149 to 127, FLOG2 of powers of two, FRSQ of powers of
four. Between them the result is the model's computation with a free choice (log 1, log 19). -/
def Obligations.SpecialFunctionsGive : Prop :=
  (∀ (h : Hdr) (cx : Cx) (s : State) (o : R4),
    (∀ p ∈ ([(.frcpF32 h o, fun _ x => frcp .f32 x), (.fsqrtF32 h o, fun _ x => fsqrt .f32 x), (.frsqF32 h o, frsq .f32),
        (.fexp2F32 h o, fexp2), (.flog2F32 h o, flog2), (.fsinF32 h o, fsin), (.fcosF32 h o, fcos), (.ftanhF32 h o, ftanh)] :
          List (Instr × (Nat → Fp → Nat))),
      Ready (fpForm .f32 .rn (o.d, true) (o.a, true) (o.b, false) (o.c, false)) h cx s →
      GivesFp cx s .f32 0 o.d (fun l => p.2 (rdFp cx (ticked s) .f32 o.a l) (inFp cx s .f32 o.a l 0)) (exec p.1 s)) ∧
    (∀ p ∈ ([(.frcpF64 h o, fun _ x => frcp .f64 x), (.fsqrtF64 h o, fun _ x => fsqrt .f64 x), (.frsqF64 h o, frsq .f64)] :
          List (Instr × (Nat → Fp → Nat))),
      Ready (fpForm .f64 .rn (o.d, true) (o.a, true) (o.b, false) (o.c, false)) h cx s →
      GivesFp cx s .f64 0 o.d (fun l => p.2 (rdFp cx (ticked s) .f64 o.a l) (inFp cx s .f64 o.a l 0)) (exec p.1 s))) ∧
  ((∀ f ∈ [FFmt.f32, FFmt.f64],
    let neg := signBit f true
    frcp f (.inf true) = neg ∧ frcp f (.fin true 0 0) = infCode f true ∧ frcp f (.fin false 0 0) = infCode f false ∧
      frcp f (.inf false) = 0 ∧
    fsqrt f (.inf true) = nanCode f ∧ fsqrt f (.fin true 0 0) = neg ∧ fsqrt f (.fin false 0 0) = 0 ∧
      fsqrt f (.inf false) = infCode f false ∧ (∀ m e, m ≠ 0 → fsqrt f (.fin true m e) = nanCode f) ∧
    (∀ i, frsq f i (.inf true) = nanCode f ∧ frsq f i (.fin true 0 0) = infCode f true ∧
      frsq f i (.fin false 0 0) = infCode f false ∧ frsq f i (.inf false) = 0 ∧
      (∀ m e, m ≠ 0 → frsq f i (.fin true m e) = nanCode f) ∧
      frcp f .nan = nanCode f ∧ fsqrt f .nan = nanCode f ∧ frsq f i .nan = nanCode f)) ∧
  (∀ i, fexp2 i (.inf true) = 0 ∧ fexp2 i (.fin true 0 0) = 0x3F800000 ∧ fexp2 i (.fin false 0 0) = 0x3F800000 ∧
      fexp2 i (.inf false) = 0x7F800000 ∧
    flog2 i (.inf true) = 0x7FC00000 ∧ flog2 i (.fin true 0 0) = 0xFF800000 ∧ flog2 i (.fin false 0 0) = 0xFF800000 ∧
      flog2 i (.inf false) = 0x7F800000 ∧ (∀ m e, m ≠ 0 → flog2 i (.fin true m e) = 0x7FC00000) ∧
      flog2 i (.fin false 1 0) = 0 ∧
    fsin i (.inf true) = 0x7FC00000 ∧ fsin i (.fin true 0 0) = 0x80000000 ∧ fsin i (.fin false 0 0) = 0 ∧
      fsin i (.inf false) = 0x7FC00000 ∧
    fcos i (.inf true) = 0x7FC00000 ∧ fcos i (.fin true 0 0) = 0x3F800000 ∧ fcos i (.fin false 0 0) = 0x3F800000 ∧
      fcos i (.inf false) = 0x7FC00000 ∧
    ftanh i (.inf true) = 0xBF800000 ∧ ftanh i (.fin true 0 0) = 0x80000000 ∧ ftanh i (.fin false 0 0) = 0 ∧
      ftanh i (.inf false) = 0x3F800000 ∧
    ∀ f ∈ [fexp2, flog2, fsin, fcos, ftanh], f i .nan = 0x7FC00000)) ∧
  (∀ (i : Nat) (neg : Bool) (m : Nat) (e n : Int), -160 ≤ e →
    let x := Fp.fin neg m e
    let halves := (if neg then -(m : Int) else m) * 2 ^ (e + 160).toNat
    (halves = n * 2 ^ 160 →
      fsin i x = (if neg then 0x80000000 else 0) ∧ fcos i x = (if n % 2 = 0 then 0x3F800000 else 0xBF800000) ∧
      (-126 ≤ n → n ≤ 127 → fexp2 i x = ((n + 127) * 2 ^ 23).toNat) ∧
      (-149 ≤ n → n < -126 → fexp2 i x = 2 ^ (n + 149).toNat)) ∧
    (halves = (2 * n + 1) * 2 ^ 159 → fsin i x = (if n % 2 = 0 then 0x3F800000 else 0xBF800000) ∧ fcos i x = 0)) ∧
  (∀ (i j : Nat) (e : Int), j ≤ 60 →
    (-149 ≤ e + j → e + j ≤ 127 → ∃ m k, decodeF .f32 (flog2 i (.fin false (2 ^ j) e)) = .fin (decide (e + j < 0)) m k ∧
      (m : Int) * 2 ^ (k + 160).toNat = (e + j).natAbs * 2 ^ 160 ∧ -160 ≤ k) ∧
    (∀ k : Int, e + j = 2 * k → -126 ≤ k → k ≤ 126 →
      frsq .f32 i (.fin false (2 ^ j) e) = ((127 - k) * 2 ^ 23).toNat) ∧
    (∀ k : Int, e + j = 2 * k → -1022 ≤ k → k ≤ 1022 →
      frsq .f64 i (.fin false (2 ^ j) e) = ((1023 - k) * 2 ^ 52).toNat))

/-- R298, R309, R390: a value that a format holds is the result of rounding it, in every mode and with every draw. -/
def Obligations.RepresentableRoundsToItself : Prop :=
  ∀ (f : FFmt) (x : Rnd) (ovf : Bool) (draw code : Nat), code < 2 ^ codeBits f →
    (∀ neg m e, decodeF f code = .fin neg m e → roundArith f x ovf draw (decodeF f code) = code) ∧
    (∀ neg, decodeF f code = .inf neg → roundArith f x ovf draw (decodeF f code) = code) ∧
    (decodeF f code = .nan → roundArith f x ovf draw (decodeF f code) = nanCode f)

/-! ### Group 011: conversions and lanes -/

/-- R400 to R405: CVT, BPACK and BUNPK, with a draw for each rounded result under .RS; what CVT gives for special inputs, of one
float type to itself and for integer destinations (R401, R402, R314), and what a code of a block stands for and is encoded as
where E is 255, where the scale is zero and where the spare is enabled (R303 to R306, R308, R404). An infinity under .SAT and
the overflow of BPACK follow log 18. -/
def Obligations.ConversionsGive : Prop :=
  ∀ (h : Hdr) (x : Rnd) (cx : Cx) (s : State),
    (∀ (o : CV) (dst src : Ty),
      o.c.toNat < 1024 → o.b.toNat < 2 → tyOf (o.c.toNat / 32) = some dst → tyOf (o.c.toNat % 32) = some src →
      o.c.toNat / 32 < 20 → o.c.toNat % 32 < 20 →
      Ready { unit := 0, feature := rsFeature x, ops := [(o.d, .dst (tyWords dst) true false),
        (o.a, .src (tyWords src) false)] } h cx s →
      GivesBits cx s (tyWords dst) (drawsOf x 1) o.d
        (fun l => cvtBits dst src x (o.b.getLsbD 0) (laneDraw cx l 0) (rdTy cx (ticked s) src o.a l)) (exec (.cvt h x o) s)) ∧
    (∀ (o : RM) (f : FFmt),
      o.c.toNat < 64 → (o.c.toNat % 32, f) ∈ [(5, .e4m3), (6, .e5m2), (7, .e3m2), (8, .e2m3), (9, .e2m1)] →
      let wide := if f = .e2m1 then 4 else 8
      (Ready { unit := 0, feature := rsFeature x, ops := [(o.d, .dst 1 true false), (o.a, .src 4 false), (o.b, .src 1 false)] }
          h cx s →
        GivesBits cx s 1 (drawsOf x 4) o.d
          (fun l => packFields wide ((List.range 4).map fun i =>
            encodeBlock f (featureOn s 6) (in32 cx s o.b l) x (o.c.getLsbD 5) (laneDraw cx l i)
              (decodeF .f32 (rd128 cx (ticked s) o.a l / 2 ^ (32 * i) % 2 ^ 32))))
          (exec (.bpack h x o) s)) ∧
      ((o.c.getLsbD 5 = true → f = .e2m1) →
        Ready { unit := 0, ops := [(o.d, .dst 4 true false), (o.a, .src 1 false), (o.b, .src 1 false)] } h cx s →
        GivesWords cx s 4 0 o.d
          (fun l i =>
            let code := (in32 cx s o.a l).toNat / 2 ^ (wide * i + if o.c.getLsbD 5 then 16 else 0) % 2 ^ wide
            BitVec.ofNat 32 (roundArith .f32 .rn true 0 (decodeBlock f (featureOn s 6) (in32 cx s o.b l) code)))
          (exec (.bunpk h o) s))) ∧
    (∀ (src : Ty) (ovfx : Bool) (draw bits n : Nat), draw < 2 ^ 32 → n ∈ [4, 8, 16, 32, 64] →
      ∀ t ∈ ([(.int n, -(2 ^ (n - 1)), 2 ^ (n - 1) - 1), (.nat n, 0, 2 ^ n - 1)] : List (Ty × Int × Int)),
        let v := decodeTy src bits
        let gives (r : Int) : Prop :=
          cvtBits t.1 src x ovfx draw bits = (BitVec.ofInt (max n 32) (max t.2.1 (min t.2.2 r))).toNat
        (v = .nan → cvtBits t.1 src x ovfx draw bits = 0) ∧
        (∀ neg, v = .inf neg → gives (if neg then t.2.1 else t.2.2)) ∧
        (∀ neg m e, v = .fin neg m e →
          let sign (k : Int) : Int := if neg then -k else k
          (0 ≤ e → gives (sign (m * 2 ^ e.toNat))) ∧
          (e < 0 →
            let d : Int := 2 ^ (-e).toNat
            (x = .rz → gives (sign ((m : Int) / d))) ∧
            (x = .rd → gives (sign m / d)) ∧
            (x = .ru → gives (-(sign (-(m : Int)) / d))) ∧
            (x = .rn → ∀ r : Int, 2 * (sign m - r * d) ≤ d → -d ≤ 2 * (sign m - r * d) →
              ((2 * (sign m - r * d) = d ∨ 2 * (sign m - r * d) = -d) → r % 2 = 0) → gives r) ∧
            (x = .rs → gives (sign ((m : Int) / d + if 2 ^ 32 ≤ (m : Int) % d * 2 ^ 32 / d + draw then 1 else 0)))))) ∧
    (∀ (src : Ty) (ovfx : Bool) (draw bits : Nat),
      ∀ p ∈ ([(.f64, 0x7FF8000000000000, 0x7FEFFFFFFFFFFFFF, 0xFFEFFFFFFFFFFFFF, 0x7FF0000000000000, 0xFFF0000000000000),
          (.f32, 0x7FC00000, 0x7F7FFFFF, 0xFF7FFFFF, 0x7F800000, 0xFF800000),
          (.tf32, 0x7FC00000, 0x7F7FE000, 0xFF7FE000, 0x7F800000, 0xFF800000),
          (.bf16, 0x7FC0, 0x7F7F, 0xFF7F, 0x7F80, 0xFF80), (.f16, 0x7E00, 0x7BFF, 0xFBFF, 0x7C00, 0xFC00),
          (.e5m2, 0x7E, 0x7B, 0xFB, 0x7C, 0xFC), (.e4m3, 0x7F, 0x7E, 0xFE, 0x7F, 0x7F),
          (.e3m2, 0, 31, 63, 31, 63), (.e2m3, 0, 31, 63, 31, 63), (.e2m1, 0, 7, 15, 7, 15)] :
            List (FFmt × Nat × Nat × Nat × Nat × Nat)),
        let out := cvtBits (.fl p.1) src x ovfx draw bits
        (decodeTy src bits = .nan → out = p.2.1) ∧
        (∀ neg, src ≠ .fl p.1 → decodeTy src bits = .inf neg →
          out = if defaultOvf p.1 = ovfx then (if neg then p.2.2.2.1 else p.2.2.1)
            else (if neg then p.2.2.2.2.2 else p.2.2.2.2.1)) ∧
        (src = .fl p.1 → decodeTy src bits ≠ .nan →
          out = if p.1 = .tf32 then bits / 2 ^ 13 % 2 ^ 19 * 2 ^ 13 else bits % 2 ^ codeBits p.1)) ∧
    (∀ (f : FFmt) (on : Bool) (w : W32) (code : Nat), f ∈ [.e4m3, .e5m2, .e3m2, .e2m3, .e2m1] →
      let e : Nat := w.toNat / 2 ^ 24
      let g := w.toNat / 2 ^ 12 % 2 ^ 12
      let spare := w.toNat / 2 ^ 4 % 2 ^ 8
      let enabled := f = .e2m1 ∧ on = true ∧ spare % 128 ≠ 0 ∧ e ≠ 255
      let q := if enabled ∧ code % 16 = 8 then decodeF .e4m3 spare else decodeF f (code % 2 ^ codeBits f)
      let sc : Nat × Int := if e = 0 then (g, -138) else (4096 + g, (e : Int) - 139)
      decodeBlock f on w code =
        if e = 255 then .nan
        else match q with
          | .nan => .nan
          | .inf neg => if sc.1 = 0 then .nan else .inf neg
          | .fin neg m k => .fin neg (m * sc.1) (k + sc.2)) ∧
    (∀ (f : FFmt) (on ovfx : Bool) (w : W32) (draw : Nat) (v : Fp), f ∈ [.e4m3, .e5m2, .e3m2, .e2m3, .e2m1] →
      let e : Nat := w.toNat / 2 ^ 24
      let g := w.toNat / 2 ^ 12 % 2 ^ 12
      let spare := w.toNat / 2 ^ 4 % 2 ^ 8
      let enabled := f = .e2m1 ∧ on = true ∧ spare % 128 ≠ 0 ∧ e ≠ 255
      let out := encodeBlock f on w x ovfx draw v
      ((e = 255 ∨ v = .nan) → out = if f = .e4m3 then 0x7F else if f = .e5m2 then 0x7E else 0) ∧
      (e = 0 → g = 0 → v ≠ .nan →
        out = if enabled ∨ fpNeg v = false then 0 else if f = .e2m1 then 8 else if f = .e4m3 ∨ f = .e5m2 then 0x80 else 0x20) ∧
      (enabled → (e ≠ 0 ∨ g ≠ 0) → v = decodeBlock f on w 8 → v ≠ .nan →
        (∀ c, c < 16 → c ≠ 8 → fpCmp (decodeBlock f on w c) v ≠ .eq) → out = 8) ∧
      (e ≠ 255 → (e ≠ 0 ∨ g ≠ 0) → ∀ c, c < 2 ^ codeBits f → (enabled → c ≠ 8) → decodeF f c ≠ .nan →
        (∀ neg, decodeF f c ≠ .inf neg) → v = decodeBlock f on w c → out = c))

/-- R407, R408: XPATLD writes a pattern table with fixed latency; XPERM composes bytes of the lanes of its block of 8. R409
to R411: a value from another lane; a lane that does not execute gives 0, and a vote sees executing lanes only. -/
def Obligations.LanePatternsAndMovesGive : Prop :=
  (∀ (h : Hdr) (cx : Cx) (s : State) (o : RM), o.c.toNat < 4 →
    (∀ a : BitVec 9, o.a = .s a →
      Ready { unit := 0, ops := [(o.d, .unused), (o.a, .sMul 8 504), (o.b, .unused)] } h cx s →
      let table : List Byte := (List.range 32).map fun i =>
        BitVec.ofNat 8 ((rdS cx (ticked s) (a.toNat + i / 4)).toNat / 2 ^ (8 * (i % 4)))
      ∃ t, exec (.xpatld h o) s = .next t ∧
        landed cx t = { landed cx s with tables := setAt (landed cx s).tables o.c.toNat table } ∧
        sfind t.runs cx.rk = some { cx.run with pend := cx.run.pend ++ [(cx.run.cycle, .table o.c.toNat table)] } ∧
        (∀ k, k ≠ cx.rk → sfind t.runs k = sfind s.runs k) ∧ (∀ k, sfind t.groups k = sfind s.groups k) ∧
        { t with tick := s.tick, runs := s.runs, groups := s.groups } = s) ∧
    (Ready { unit := 0, ops := [(o.d, .dst 1 true false), (o.a, .src 1 false), (o.b, .unused)] } h cx s →
      Gives32 cx s o.d
        (fun l => BitVec.ofNat 32 (packFields 8 ((List.range 4).map fun j =>
          let e := ((cx.g.tables.getD o.c.toNat []).getD (4 * (l % 8) + j) 0x80).toNat
          let src := (e % 32 + 8 * (l / 8)) % 32
          if 128 ≤ e ∨ cx.run.lanes.getLsbD src = false then 0
          else (in32 cx s o.a src).toNat / 2 ^ (8 * (e / 32 % 4)) % 256)))
        (exec (.xperm h o) s))) ∧
  (∀ (h : Hdr) (cx : Cx) (s : State) (o : R4),
    let from_ (src _l : Nat) : W32 := if cx.run.lanes.getLsbD src then in32 cx s o.a src else 0
    (Ready { unit := 0, ops := [(o.d, .dst 1 true false), (o.a, .src 1 false), (o.b, .src 1 false), (o.c, .unused)] } h cx s →
      Gives32 cx s o.d (fun l => from_ ((in32 cx s o.b l).toNat % 32) l) (exec (.shflIdx h o) s) ∧
      Gives32 cx s o.d (fun l => from_ (if (in32 cx s o.b l).toNat ≤ l then l - (in32 cx s o.b l).toNat else l) l)
        (exec (.shflUp h o) s) ∧
      Gives32 cx s o.d (fun l => from_ (if l + (in32 cx s o.b l).toNat ≤ 31 then l + (in32 cx s o.b l).toNat else l) l)
        (exec (.shflDown h o) s) ∧
      Gives32 cx s o.d (fun l => from_ (l ^^^ (in32 cx s o.b l).toNat % 32) l) (exec (.shflXor h o) s)) ∧
    (Ready { unit := 0, ops := [(o.d, .dst 1 true true), (o.a, .src 1 false), (o.b, .src 1 true), (o.c, .unused)] } h cx s →
      Gives32 cx s o.d (from_ ((in32 cx s o.b (elected cx)).toNat % 32)) (exec (.bcast h .w32 o) s)) ∧
    (Ready { unit := 0, ops := [(o.d, .dst 2 true true), (o.a, .src 2 false), (o.b, .src 1 true), (o.c, .unused)] } h cx s →
      let src := (in32 cx s o.b (elected cx)).toNat % 32
      Gives64 cx s o.d (fun _ => if cx.run.lanes.getLsbD src then in64 cx s o.a src else 0) (exec (.bcast h .w64 o) s)) ∧
    (Ready { unit := 0, ops := [(o.d, .dst 1 false true), (o.a, .psrc), (o.b, .unused), (o.c, .unused)] } h cx s →
      Gives32 cx s o.d (fun _ => rdPred cx o.a &&& cx.run.lanes) (exec (.ballot h o) s)) ∧
    (Ready { unit := 0, ops := [(o.d, .pdst), (o.a, .psrc), (o.b, .unused), (o.c, .unused)] } h cx s →
      let every (b : Bool) : Prop := ∀ l, l < 32 → cx.run.lanes.getLsbD l = true → (rdPred cx o.a).getLsbD l = b
      (∀ r : Bool, (r = true ↔ ¬ every false) → GivesPred cx s o.d (maskOf fun _ => r) (exec (.voteAny h o) s)) ∧
      (∀ r : Bool, (r = true ↔ every true) → GivesPred cx s o.d (maskOf fun _ => r) (exec (.voteAll h o) s)) ∧
      (∀ r : Bool, (r = true ↔ every true ∨ every false) → GivesPred cx s o.d (maskOf fun _ => r) (exec (.voteUni h o) s))))

/-- R412 to R414: reductions and prefix combinations over the executing lanes in ascending order, and FRED over the fixed
tree of 32 leaves, where a lane that does not execute stands for the identity. -/
def Obligations.LaneReductionsGive : Prop :=
  ∀ (h : Hdr) (cx : Cx) (s : State) (o : RM),
    let c := o.c.toNat
    let w := if c = 18 ∨ c = 19 ∨ c = 23 then 2 else 1
    let val l := if w = 2 then (in64 cx s o.a l).toNat else (in32 cx s o.a l).toNat
    let lanes (p : Nat → Bool) := (List.range 32).filter fun l => cx.run.lanes.getLsbD l && p l
    let fold (f : Nat → Nat → Nat) (unit : Nat) (p : Nat → Bool) := (lanes p).foldl (fun a l => f a (val l)) unit
    let form (sDst : Bool) : Form := { unit := 0, ops := [(o.d, .dst w true sDst), (o.a, .src w false), (o.b, .unused)] }
    (c ∈ [16, 17, 18, 19] → Ready (form true) h cx s →
      GivesBits cx s w 0 o.d (fun _ => fold (redAdd c) 0 fun _ => true) (exec (.redAdd h o) s) ∧
      GivesBits cx s w 0 o.d (fun _ => fold (redMin c) (redTop c) fun _ => true) (exec (.redMin h o) s) ∧
      GivesBits cx s w 0 o.d (fun _ => fold (redMax c) (redBottom c) fun _ => true) (exec (.redMax h o) s)) ∧
    (c ∈ [16, 17, 18, 19, 22, 23] → Ready (form true) h cx s →
      GivesBits cx s w 0 o.d (fun _ => fold (fun a b => a &&& b) (2 ^ (32 * w) - 1) (fun _ => true)) (exec (.redAnd h o) s) ∧
      GivesBits cx s w 0 o.d (fun _ => fold (fun a b => a ||| b) 0 fun _ => true) (exec (.redOr h o) s) ∧
      GivesBits cx s w 0 o.d (fun _ => fold (fun a b => a ^^^ b) 0 fun _ => true) (exec (.redXor h o) s)) ∧
    (c ∈ [16, 17, 18, 19] → Ready (form false) h cx s →
      GivesBits cx s w 0 o.d (fun l => fold (redAdd c) 0 fun k => decide (k ≤ l)) (exec (.scanAdd h o) s) ∧
      GivesBits cx s w 0 o.d (fun l => fold (redAdd c) 0 fun k => decide (k < l)) (exec (.scanXadd h o) s) ∧
      GivesBits cx s w 0 o.d (fun l => fold (redMax c) (redBottom c) fun k => decide (k ≤ l)) (exec (.scanMax h o) s) ∧
      GivesBits cx s w 0 o.d (fun l => fold (redMin c) (redTop c) fun k => decide (k ≤ l)) (exec (.scanMin h o) s)) ∧
    (∀ f, (c, f) ∈ [(0, FFmt.f64), (1, .f32), (3, .bf16), (4, .f16)] →
      Ready { unit := 0, ops := [(o.d, .dst (fpWords f) true true), (o.a, .src (fpWords f) false), (o.b, .unused)] } h cx s →
      let leaf (unit : Nat) e l := if cx.run.lanes.getLsbD l then elemOf f (rdFp cx (ticked s) f o.a l) e else unit
      GivesFp cx s f 0 o.d
        (fun _ => mapElems f fun e => treeFold
          (fun a b => roundArith f .rn true 0 (fpAdd false (decodeF f a) (decodeF f b))) 5 (leaf (signBit f true) e) 0)
        (exec (.fredAdd h o) s) ∧
      GivesFp cx s f 0 o.d (fun _ => mapElems f fun e => treeFold (fminCode f) 5 (leaf (infCode f false) e) 0)
        (exec (.fredMin h o) s) ∧
      GivesFp cx s f 0 o.d (fun _ => mapElems f fun e => treeFold (fmaxCode f) 5 (leaf (infCode f true) e) 0)
        (exec (.fredMax h o) s))

/-! ### Group 000: control flow -/

/-- R365, R370: NOP changes nothing; YIELD ends the run after itself and has its program counter passed over once. R226,
R369: EXIT puts the executing lanes in state 4, takes them out of every set's members and arrivals, and evaluates release of
all 16 sets; where a handler's last trapping lanes leave with it, the handler returns. -/
def Obligations.NopYieldAndExitComplete : Prop :=
  (∀ (h : Hdr) (cx : Cx) (s : State) (o : R4), Ready (ctlForm (unused4 o)) h cx s →
    (∃ t, exec (.nop h o) s = .next t ∧ Only cx s t cx.run cx.g) ∧
    (∃ t, exec (.yield h o) s = .next t ∧
      Only cx s t { cx.run with ends := .after } { cx.g with yielded := some (afterPc cx.run) })) ∧
  (∀ (h : Hdr) (cx : Cx) (s : State) (o : R4), Ready { ctlForm (unused4 o) with ends := true } h cx s →
    ∃ t, exec (.exit h o) s = .next t ∧ Only cx s t (movedRun cx.run) (checkReturn (iter 16 evalSet
      { cx.g with
        lanes := cx.g.lanes.mapIdx fun l x => if cx.run.lanes.getLsbD l then { x with st := .exited, fpark := 0 } else x
        members := cx.g.members.map fun m => m &&& ~~~cx.run.lanes
        arrivals := cx.g.arrivals.map fun a => a &&& ~~~cx.run.lanes })))

/-- R366: every executing lane goes to the target its guard and operands give it, 8 bytes a word from the clause's header or
the address it holds, or to the clause that follows; nothing else changes. -/
def Obligations.BranchesMoveLanes : Prop :=
  ∀ (h : Hdr) (cx : Cx) (s : State),
    (∀ o, Ready { ctlForm [(o.d, .unused), (o.a, .unused)] with guarded := true, ends := true } h cx s →
      ∃ t, exec (.bra h o) s = .next t ∧ Only cx s t (movedRun cx.run) (withPcs cx.g cx.run.lanes fun l =>
        if (guardMask cx h).getLsbD l then ⟨BitVec.ofInt 57 (cx.run.head.toNat + 8 * o.m.toInt), 0⟩ else following cx.run)) ∧
    (∀ o, Ready { ctlForm [(o.d, .unused), (o.a, .src 2 false), (o.b, .unused), (o.c, .unused)] with
        guarded := true, ends := true } h cx s →
      ∃ t, exec (.brx h o) s = .next t ∧ Only cx s t (movedRun cx.run) (withPcs cx.g cx.run.lanes fun l =>
        if (guardMask cx h).getLsbD l then ⟨BitVec.ofNat 57 (in64 cx s o.a l).toNat, 0⟩ else following cx.run))

/-- R229, R367: a call writes the address of the following clause to its link pair in the lanes that its guard moves (a Z
link is discarded), and moves them; CALLX reads its target before the link is written. -/
def Obligations.CallsLinkAndMoveLanes : Prop :=
  ∀ (h : Hdr) (cx : Cx) (s : State),
    let link (_ : Nat) : W64 := BitVec.ofNat 64 (following cx.run).addr.toNat
    let Called (d : Opnd) (target : Nat → Pc) (out : Host.Outcome State Fault Refusal) : Prop :=
      ∃ u t, out = .next t ∧
        Wrote cx s u 0 (toV (guardMask cx h) d 2 fun l => halves (link l)) (fun _ => none) id ∧
        sfind t.runs cx.rk = (sfind u.runs cx.rk).map movedRun ∧
        sfind t.groups cx.gk = (sfind u.groups cx.gk).map (fun g => withPcs g cx.run.lanes fun l =>
          if (guardMask cx h).getLsbD l then target l else following cx.run) ∧
        (∀ k, k ≠ cx.rk → sfind t.runs k = sfind u.runs k) ∧ (∀ k, k ≠ cx.gk → sfind t.groups k = sfind u.groups k) ∧
        { t with runs := u.runs, groups := u.groups } = u
    (∀ o, Ready { ctlForm [(o.d, .vMul 2 true), (o.a, .unused)] with guarded := true, ends := true } h cx s →
      Called o.d (fun _ => ⟨BitVec.ofInt 57 (cx.run.head.toNat + 8 * o.m.toInt), 0⟩) (exec (.call h o) s)) ∧
    (∀ o, Ready { ctlForm [(o.d, .vMul 2 true), (o.a, .src 2 false), (o.b, .unused), (o.c, .unused)] with
        guarded := true, ends := true } h cx s →
      Called o.d (fun l => ⟨BitVec.ofNat 57 (in64 cx s o.a l).toNat, 0⟩) (exec (.callx h o) s))

/-- R230, R368: RET moves each executing lane to the address it holds; where one holds 0, bad-return is recorded and no lane
moves. -/
def Obligations.ReturnsMoveLanes : Prop :=
  ∀ (h : Hdr) (cx : Cx) (s : State) (o : R4),
    Ready { ctlForm [(o.d, .unused), (o.a, .vMul 2 false), (o.b, .unused), (o.c, .unused)] with ends := true } h cx s →
    ((∀ l, l < 32 → cx.run.lanes.getLsbD l = true → in64 cx s o.a l ≠ 0) →
      ∃ t, exec (.ret h o) s = .next t ∧ Only cx s t (movedRun cx.run)
        (withPcs cx.g cx.run.lanes fun l => ⟨BitVec.ofNat 57 (in64 cx s o.a l).toNat, 0⟩)) ∧
    (∀ l, l < 32 → cx.run.lanes.getLsbD l = true → in64 cx s o.a l = 0 →
      ∃ t, exec (.ret h o) s = .next t ∧ Only cx s t { cx.run with exc := some ⟨5, cx.run.widx, 0⟩ } cx.g)

/-- R223, R227, R371 to R374: what the rejoin instructions do to the sets, with the non-member-wait of JWAIT. -/
def Obligations.RejoinFormsChangeSets : Prop :=
  ∀ (h : Hdr) (cx : Cx) (s : State) (o : RM), o.c.toNat < 16 →
    let n := o.c.toNat
    let e := cx.run.lanes
    let unused := [(o.d, Role.unused), (o.a, .unused), (o.b, .unused)]
    (Ready (ctlForm unused) h cx s →
      (∃ t, exec (.jenter h o) s = .next t ∧
        Only cx s t cx.run { cx.g with members := modAt cx.g.members n fun m => m ||| e }) ∧
      (∃ t, exec (.jquit h o) s = .next t ∧
        Only cx s t cx.run (evalSet n { cx.g with members := modAt cx.g.members n fun m => m &&& ~~~e }))) ∧
    (Ready { ctlForm unused with ends := true } h cx s →
      (e &&& ~~~cx.g.members.getD n 0 = 0 →
        ∃ t, exec (.jwait h o) s = .next t ∧ Only cx s t (movedRun cx.run) (evalSet n
          { cx.g with
            lanes := cx.g.lanes.mapIdx fun l x => if e.getLsbD l then { x with st := .parked, pc := following cx.run } else x
            arrivals := modAt cx.g.arrivals n fun a => a ||| e })) ∧
      (e &&& ~~~cx.g.members.getD n 0 ≠ 0 →
        ∃ t, exec (.jwait h o) s = .next t ∧ Only cx s t { cx.run with exc := some ⟨6, cx.run.widx, 0⟩ } cx.g)) ∧
    (Ready (ctlForm [(o.d, .dst 1 false true), (o.a, .unused), (o.b, .unused)]) h cx s →
      Gives32 cx s o.d (fun _ => cx.g.members.getD n 0) (exec (.jsave h o) s) ∧
      Gives32 cx s o.d (fun _ => cx.g.arrivals.getD n 0) (exec (.jread h o) s)) ∧
    (Ready (ctlForm [(o.d, .unused), (o.a, .src 1 true), (o.b, .unused)]) h cx s →
      ∃ t, exec (.jrestore h o) s = .next t ∧ Only cx s t cx.run (evalSet n (withdraw n
        { cx.g with members := setAt cx.g.members n (in32 cx s o.a (elected cx) &&& ~~~inState cx.g .exited) })))

/-- R224, R239: a set whose members, not none, have all arrived releases: its arrivals become 0, its members stay, and its
members return to state 0 at their own program counters; while a handler runs, a set with a member outside TMASK does not
release. Accesses of a released lane that are still outstanding come before every member's later ones from then on (R199). A
set that does not release changes nothing. R227, R239: JRESTORE's withdrawal. Arrivals at a set that are no longer
members leave it and their lanes return to state 0; in a handler those of lanes outside TMASK stay and are marked. -/
def Obligations.SetsReleaseAndWithdraw : Prop :=
  (∀ (n : Nat) (g : Group), n < g.members.length → g.arrivals.length = g.members.length →
    let m := g.members.getD n 0
    ((m ≠ 0 ∧ g.arrivals.getD n 0 = m ∧ (g.trap.inh = true → m &&& ~~~g.trap.tmask = 0)) →
      (evalSet n g).arrivals.getD n 0 = 0 ∧ (evalSet n g).members = g.members ∧
      (∀ k, k ≠ n → (evalSet n g).arrivals.getD k 0 = g.arrivals.getD k 0) ∧
      (∀ l, l < g.lanes.length → laneOf (evalSet n g) l =
        if m.getLsbD l then { laneOf g l with st := .unblocked, fpark := 0 } else laneOf g l) ∧
      (evalSet n g).ops.map (fun o => { o with joins := [] }) = g.ops.map (fun o => { o with joins := [] }) ∧
      (∀ o ∈ g.ops, o.ready = true ∨ o.lanes &&& m = 0 → o.joins = [] → o ∈ (evalSet n g).ops) ∧
      (∀ o ∈ g.ops, o.ready = false → o.lanes &&& m ≠ 0 → o.joins = [] →
        { o with joins := [(o.lanes &&& m, m)] } ∈ (evalSet n g).ops) ∧
      { evalSet n g with arrivals := g.arrivals, lanes := g.lanes, ops := g.ops } = g) ∧
    (¬(m ≠ 0 ∧ g.arrivals.getD n 0 = m ∧ (g.trap.inh = true → m &&& ~~~g.trap.tmask = 0)) → evalSet n g = g)) ∧
  (∀ (n : Nat) (g : Group), n < g.arrivals.length →
    let gone := g.arrivals.getD n 0 &&& ~~~g.members.getD n 0
    (g.trap.inh = false →
      (withdraw n g).arrivals.getD n 0 = g.arrivals.getD n 0 &&& g.members.getD n 0 ∧
      ∀ l, l < g.lanes.length → laneOf (withdraw n g) l =
        if gone.getLsbD l then { laneOf g l with st := .unblocked, fpark := 0 } else laneOf g l) ∧
    (g.trap.inh = true →
      (withdraw n g).arrivals.getD n 0 = g.arrivals.getD n 0 &&& ~~~(gone &&& g.trap.tmask) ∧
      ∀ l, l < g.lanes.length → laneOf (withdraw n g) l =
        if (gone &&& g.trap.tmask).getLsbD l then { laneOf g l with st := .unblocked, fpark := 0 }
        else if gone.getLsbD l then { laneOf g l with rewritten := true } else laneOf g l) ∧
    (withdraw n g).members = g.members ∧ (∀ k, k ≠ n → (withdraw n g).arrivals.getD k 0 = g.arrivals.getD k 0))

/-! ### Groups 100 and 101: memory and synchronisation -/

/-- R416, R418, R419: a load from a local space whose bytes all lie in the workgroup's run and in no poisoned sector. Its
value, little-endian, extended for the signed types, is the result of one outstanding operation under the flag it names
(R219); bank conflicts may take cycles (R155); nothing else changes. That the access is performed at issue and its result
delivered by a later event is the model's choice (log 12). -/
def Obligations.LocalLoadsRead : Prop :=
  ∀ (h : Hdr) (x : LdW) (cx : Cx) (s : State) (o : R4),
    ∀ p ∈ ([(.sp, .ldSp h x o), (.ob, .ldOb h x o), (.ms, .ldMs h x o)] : List (Space × Instr)),
    Ready (ldForm false x o) h cx s → cx.g.ops = [] →
    let off l := ((((in32 cx s o.a l).toNat : Int) + (in32 cx s o.b l).toInt * ldSize x + (in32 cx s o.c l).toInt) % 2 ^ 32).toNat
    (∀ l, l < 32 → cx.run.lanes.getLsbD l = true → off l + ldSize x ≤ (runOf cx.w p.1).2) →
    (∀ l, l < 32 → cx.run.lanes.getLsbD l = true → o.d ≠ .z →
      localPoisoned s cx.core p.1 ((runOf cx.w p.1).1 + off l) (ldSize x) = false) →
    let value l := ldValue x (ofLeBytes ((List.range (ldSize x)).map fun i =>
      cellByte (spaceCells (coreSt s cx.core) p.1) ((runOf cx.w p.1).1 + off l + i)))
    let results := (lanesOf cx.run.lanes).flatMap fun l => resultKeys o.d (ldWords x) l (value l)
    ∃ t c, exec p.2 s = .next t ∧
      sfind t.runs cx.rk = some { cx.run with cycle := c } ∧
      sfind t.groups cx.gk = some (withServed s.nextOp h.f.toNat .access (results.map fun e => e.1) results cx.g) ∧
      (∀ k, k ≠ cx.rk → sfind t.runs k = sfind s.runs k) ∧ (∀ k, k ≠ cx.gk → sfind t.groups k = sfind s.groups k) ∧
      { t with tick := s.tick, nextOp := s.nextOp, runs := s.runs, groups := s.groups } = s

/-- R416 to R419, R422: a local store of a group with nothing outstanding whose bytes all lie in the workgroup's run: lane by
lane, byte i of the data goes to the lane's offset plus i, STU taking the bytes its mask names, and where two lanes store to
one byte the highest lane's stays; every other byte of the space, the other spaces, the other cores and the rest of the state
are as they were. R328: where the guard holds in no lane nothing happens. That the store is performed at issue is the model's
choice (log 12). -/
def Obligations.LocalStoresWrite : Prop :=
  ∀ (h : Hdr) (cx : Cx) (s : State) (o : R4), cx.g.ops = [] →
    (∀ x : StW, Ready (stForm false x o) h cx s →
      let off l := ((((in32 cx s o.a l).toNat : Int) + (in32 cx s o.b l).toInt * stSize x + (in32 cx s o.c l).toInt) % 2 ^ 32).toNat
      let bytes := (lanesOf (guardMask cx h)).flatMap fun l =>
        (List.range (stSize x)).map fun i => (off l + i, (stData cx (ticked s) x o.d l).getD i 0)
      (guardMask cx h ≠ 0 → (∀ e ∈ bytes, e.1 < cx.w.scratchLen) →
        ∃ t, exec (.stSp h x o) s = .next t ∧ StoredLocal cx h .sp bytes s t) ∧
      (guardMask cx h ≠ 0 → (∀ e ∈ bytes, e.1 < cx.w.obLen) →
        ∃ t, exec (.stOb h x o) s = .next t ∧ StoredLocal cx h .ob bytes s t) ∧
      (guardMask cx h ≠ 0 → (∀ e ∈ bytes, e.1 < cx.w.msLen) →
        ∃ t, exec (.stMs h x o) s = .next t ∧ StoredLocal cx h .ms bytes s t) ∧
      (guardMask cx h = 0 → ∀ i ∈ [Instr.stSp h x o, .stOb h x o, .stMs h x o],
        ∃ t, exec i s = .next t ∧ Only cx s t cx.run cx.g)) ∧
    (Ready (stuForm false o) h cx s →
      let off l := ((((in32 cx s o.a l).toNat : Int) + (in32 cx s o.b l).toInt) % 2 ^ 32).toNat
      let bytes := (lanesOf (guardMask cx h)).flatMap fun l =>
        ((List.range 8).filter fun i => (in32 cx s o.c l).getLsbD i).map fun i =>
          (off l + i, BitVec.ofNat 8 ((in64 cx s o.d l).toNat / 2 ^ (8 * i)))
      (guardMask cx h ≠ 0 → (∀ e ∈ bytes, e.1 < cx.w.scratchLen) →
        ∃ t, exec (.stuSp h o) s = .next t ∧ StoredLocal cx h .sp bytes s t) ∧
      (guardMask cx h = 0 → ∃ t, exec (.stuSp h o) s = .next t ∧ Only cx s t cx.run cx.g))

/-- R160, R235: a local load, store or atomic that would touch a byte outside the workgroup's run records the local-range
exception at the lowest such offset, and has no other effect. -/
def Obligations.LocalRangeTraps : Prop :=
  ∀ (h : Hdr) (cx : Cx) (s : State), vecHeld cx = false →
    let Traps (len : Nat) (touched : Nat → Prop) (i : Instr) : Prop :=
      ∀ a, touched a → len ≤ a → (∀ b, touched b → len ≤ b → a ≤ b) →
        ∃ t, exec i s = .next t ∧ Only cx s t { cx.run with exc := some ⟨8, cx.run.widx, a⟩ } cx.g
    (∀ (x : LdW) (o : R4), Ready (ldForm false x o) h cx s →
      let touched (a : Nat) := ∃ l i, l < 32 ∧ cx.run.lanes.getLsbD l = true ∧ i < ldSize x ∧
        a = effOff cx (ticked s) o (ldSize x) l + i
      Traps cx.w.scratchLen touched (.ldSp h x o) ∧ Traps cx.w.obLen touched (.ldOb h x o) ∧
      Traps cx.w.msLen touched (.ldMs h x o)) ∧
    (∀ (x : StW) (o : R4), Ready (stForm false x o) h cx s →
      let touched (a : Nat) := ∃ l i, l < 32 ∧ (guardMask cx h).getLsbD l = true ∧ i < stSize x ∧
        a = effOff cx (ticked s) o (stSize x) l + i
      Traps cx.w.scratchLen touched (.stSp h x o) ∧ Traps cx.w.obLen touched (.stOb h x o) ∧
      Traps cx.w.msLen touched (.stMs h x o)) ∧
    (∀ (o : RM), ∀ p ∈ ([(0, .atomSpAdd h o), (1, .atomSpMin h o), (2, .atomSpMax h o), (3, .atomSpAnd h o), (4, .atomSpOr h o),
        (5, .atomSpXor h o), (6, .atomSpExch h o), (7, .atomSpCas h o)] : List (Nat × Instr)),
      Ready (atomForm false p.1 o) h cx s →
      let n := atomSize (atomType o)
      Traps cx.w.scratchLen (fun a => ∃ l i, l < 32 ∧ (guardMask cx h).getLsbD l = true ∧ i < n ∧
        a = (in32 cx s o.a l).toNat / n * n + i) p.2)

/-- R427: what an atomic writes: the sum (rounded once for .F32), the smaller or larger value under the type's signedness,
the bitwise results, the operand, or for CAS the new word where the old one equals the expected word. R428: the scratchpad
atomics, in a group with nothing outstanding: the lanes whose guard holds act in ascending order, each on the word its
aligned offset names, and their old values are the result of one operation; without .REL or .AR no fence goes before them,
and without .ACQ or .AR none after; where the guard holds in no lane nothing happens (R328). The global atomics at a scope below
die act on the words of cluster L2 lines, at die scope and wider on words at the memory controller. That the atomics are
performed at issue is the model's choice (log 12). -/
def Obligations.ScratchAtomicsAct : Prop :=
  (∀ old b : Nat,
    (∀ p ∈ ([(16, 32), (17, 32), (18, 64), (19, 64)] : List (Nat × Nat)), old < 2 ^ p.2 → b < 2 ^ p.2 →
      atomNew 0 p.1 old b = some ((old + b) % 2 ^ p.2) ∧
      atomNew 3 p.1 old b = some (old &&& b) ∧ atomNew 4 p.1 old b = some (old ||| b) ∧
      atomNew 5 p.1 old b = some (old ^^^ b) ∧ atomNew 6 p.1 old b = some b ∧
      (∀ new, atomNew 7 p.1 old (b + new * 2 ^ p.2) = if old = b then some new else none)) ∧
    (∀ p ∈ ([(17, 32), (19, 64)] : List (Nat × Nat)), old < 2 ^ p.2 → b < 2 ^ p.2 →
      atomNew 1 p.1 old b = some (min old b) ∧ atomNew 2 p.1 old b = some (max old b)) ∧
    (∀ p ∈ ([(16, 32), (18, 64)] : List (Nat × Nat)), old < 2 ^ p.2 → b < 2 ^ p.2 →
      (∀ r, r < 2 ^ p.2 → toSigned p.2 r = min (toSigned p.2 old) (toSigned p.2 b) → atomNew 1 p.1 old b = some r) ∧
      (∀ r, r < 2 ^ p.2 → toSigned p.2 r = max (toSigned p.2 old) (toSigned p.2 b) → atomNew 2 p.1 old b = some r)) ∧
    atomNew 0 1 old b = some (roundArith .f32 .rn true 0 (fpAdd false (decodeF .f32 old) (decodeF .f32 b)))) ∧
  (∀ (h : Hdr) (cx : Cx) (s : State) (o : RM),
    ∀ p ∈ ([(0, .atomSpAdd h o), (1, .atomSpMin h o), (2, .atomSpMax h o), (3, .atomSpAnd h o), (4, .atomSpOr h o),
      (5, .atomSpXor h o), (6, .atomSpExch h o), (7, .atomSpCas h o)] : List (Nat × Instr)),
    Ready (atomForm false p.1 o) h cx s → cx.g.ops = [] →
    (guardMask cx h = 0 → ∃ t, exec p.2 s = .next t ∧ Only cx s t cx.run cx.g) ∧
    (guardMask cx h ≠ 0 → atomOrder o = 0 →
    let n := atomSize (atomType o)
    let off l := (in32 cx s o.a l).toNat / n * n
    let ls := lanesOf (guardMask cx h)
    (∀ l ∈ ls, off l + n ≤ cx.w.scratchLen) →
    (∀ l ∈ ls, localPoisoned s cx.core .sp (cx.w.scratchOff + off l) n = false) →
    let r := atomSpLanes cx.core cx.w.scratchOff p.1 (atomType o) o.d
      (ls.map fun l => (l, off l, atomOperand cx (ticked s) p.1 o l)) s
    ∃ t c, exec p.2 s = .next t ∧ t.cores = r.2.cores ∧
      sfind t.runs cx.rk = some { cx.run with cycle := c } ∧
      sfind t.groups cx.gk = some (withOpt s.nextOp h.f.toNat r.1 cx.g) ∧
      (∀ k, k ≠ cx.rk → sfind t.runs k = sfind s.runs k) ∧ (∀ k, k ≠ cx.gk → sfind t.groups k = sfind s.groups k) ∧
      { t with tick := s.tick, nextOp := s.nextOp, cores := s.cores, runs := s.runs, groups := s.groups } = s)) ∧
  (∀ (h : Hdr) (cx : Cx) (s : State) (o : RM),
    cx.g.ops = [] → buffers cx.w = false → Quiet s → guardMask cx h ≠ 0 → atomOrder o = 0 →
    let n := atomSize (atomType o)
    let va l := (in64 cx s o.a l).toNat % 2 ^ 57 / n * n
    let ls := lanesOf (guardMask cx h)
    let acts (op : Nat) (place : Nat → Nat) (mem : Nat → Byte) :=
      ls.foldl (fun m l => atomOn op (atomType o) n o.d m (l, place l, atomOperand cx (ticked s) op o l)) (mem, [])
    let cached a := (heldByte s (clusterOf cx.core) cx.w.asid a).getD 0
    let AtL2 (op : Nat) (t : State) : Prop :=
      let r := acts op va cached
      (∀ a, a < 2 ^ 57 → heldByte t (clusterOf cx.core) cx.w.asid a =
        (heldByte s (clusterOf cx.core) cx.w.asid a).map fun _ => r.1 a) ∧
      (∀ k, k ≠ clusterOf cx.core → clusterSt t k = clusterSt s k) ∧ (∀ k, k ≠ cx.core → coreSt t k = coreSt s k) ∧
      Only cx s { t with nextOp := s.nextOp, clusters := s.clusters, cores := s.cores } cx.run
        (withOpt s.nextOp h.f.toNat r.2 cx.g)
    (atomScope o < 3 → (∀ l ∈ ls, ∃ ln,
        L2Serves s cx.core cx.w.asid (va l) .atomic ln ∧ ln.poison = 0 ∧ onPeer s (agCx cx s) (va l) = false) →
      (Ready (atomForm true 0 o) h cx s → ∃ t, exec (.atomGAdd h o) s = .next t ∧ AtL2 0 t) ∧
      (Ready (atomForm true 1 o) h cx s → ∃ t, exec (.atomGMin h o) s = .next t ∧ AtL2 1 t) ∧
      (Ready (atomForm true 2 o) h cx s → ∃ t, exec (.atomGMax h o) s = .next t ∧ AtL2 2 t) ∧
      (Ready (atomForm true 3 o) h cx s → ∃ t, exec (.atomGAnd h o) s = .next t ∧ AtL2 3 t) ∧
      (Ready (atomForm true 4 o) h cx s → ∃ t, exec (.atomGOr h o) s = .next t ∧ AtL2 4 t) ∧
      (Ready (atomForm true 5 o) h cx s → ∃ t, exec (.atomGXor h o) s = .next t ∧ AtL2 5 t) ∧
      (Ready (atomForm true 6 o) h cx s → ∃ t, exec (.atomGExch h o) s = .next t ∧ AtL2 6 t) ∧
      (Ready (atomForm true 7 o) h cx s → ∃ t, exec (.atomGCas h o) s = .next t ∧ AtL2 7 t)) ∧
    (3 ≤ atomScope o → ∀ pa : Nat → Nat, (∀ l ∈ ls, CtrlServes s cx.core cx.w.asid (va l) (pa l) .atomic) →
      ∀ p ∈ ([(0, .atomGAdd h o), (1, .atomGMin h o), (2, .atomGMax h o), (3, .atomGAnd h o), (4, .atomGOr h o),
        (5, .atomGXor h o), (6, .atomGExch h o), (7, .atomGCas h o)] : List (Nat × Instr)),
      Ready (atomForm true p.1 o) h cx s →
      let r := acts p.1 pa (memByte s)
      ∃ t, exec p.2 s = .next t ∧ (∀ a, memByte t a = r.1 a) ∧
        sfind t.groups cx.gk = some (withOpt s.nextOp h.f.toNat r.2 cx.g)))

/-- R416, R418, R420, R422, R423, R428, R434, R435: the global forms start one access of their lanes, at the 57-bit address
the form gives each lane and with the data, order and scope it names. LDMC joins a merge entry of its slice, or where none
takes it reads its lines itself; with no line it completes, and lines that would land outside the run record the local-range
exception. startAccess performs what it can at once, which is the model's choice (log 12). What follows each equation says what
the form has done where memory serves it at once: ACQ of a word that is no object gives the word, REL leaves its new value
in memory, WAITA whose condition holds gives the word it found, LDMC served separately has its lines in the space. -/
def Obligations.GlobalFormsStartAccesses : Prop :=
  ∀ (h : Hdr) (cx : Cx) (s : State), vecHeld cx = false →
    let regs (d : Opnd) (w : Nat) (ls : List Nat) := ls.flatMap fun l => (resultKeys d w l 0).map fun e => e.1
    let f := h.f.toNat
    let all := lanesOf cx.run.lanes
    let some_ := lanesOf (guardMask cx h)
    let indexed (o : R4) (size l : Nat) : Nat :=
      (((in64 cx s o.a l).toNat + (in32 cx s o.b l).toInt * size + (in32 cx s o.c l).toInt) % 2 ^ 57).toNat
    (∀ x o, Ready (ldForm true x o) h cx s →
      exec (.ldG h x o) s = .next (startAccess cx f .access (.load x o.d) (regs o.d (ldWords x) all)
        (all.map fun l => ⟨l, indexed o (ldSize x) l, [], 0⟩) (ticked s))) ∧
    (∀ x o, Ready (stForm true x o) h cx s →
      (guardMask cx h = 0 → exec (.stG h x o) s = .next (ticked s)) ∧
      (guardMask cx h ≠ 0 → exec (.stG h x o) s = .next (startAccess cx f .access (.store (stSize x)) []
        (some_.map fun l => ⟨l, indexed o (stSize x) l, stData cx (ticked s) x o.d l, 0⟩) (ticked s)))) ∧
    (∀ o, Ready (stuForm true o) h cx s →
      let ls := some_.filter fun l => (in32 cx s o.c l).toNat % 256 != 0
      (guardMask cx h = 0 → exec (.stuG h o) s = .next (ticked s)) ∧
      (guardMask cx h ≠ 0 → exec (.stuG h o) s = .next (startAccess cx f .access .stu []
        (ls.map fun l => ⟨l, (((in64 cx s o.a l).toNat + (in32 cx s o.b l).toInt) % 2 ^ 57).toNat,
          leBytes 8 (in64 cx s o.d l).toNat ++ [BitVec.ofNat 8 (in32 cx s o.c l).toNat], 0⟩) (ticked s)))) ∧
    (∀ o : RM, ∀ p ∈ ([(0, .atomGAdd h o), (1, .atomGMin h o), (2, .atomGMax h o), (3, .atomGAnd h o), (4, .atomGOr h o),
        (5, .atomGXor h o), (6, .atomGExch h o), (7, .atomGCas h o)] : List (Nat × Instr)),
      Ready (atomForm true p.1 o) h cx s →
      (guardMask cx h = 0 → exec p.2 s = .next (ticked s)) ∧
      (guardMask cx h ≠ 0 → exec p.2 s = .next (startAccess cx f .access
        (.atom p.1 (o.c.toNat % 32) (o.c.toNat / 256) (o.c.toNat / 64 % 4) o.d)
        (regs o.d (atomSize (o.c.toNat % 32) / 4) some_)
        (some_.map fun l => ⟨l, (in64 cx s o.a l).toNat % 2 ^ 57,
          leBytes (atomBytes p.1 o) (atomOperand cx (ticked s) p.1 o l), 0⟩) (ticked s)))) ∧
    (∀ o : R4, Ready { unit := 1, fcls := .res, ops := [(o.d, .dst 2 true true), (o.a, .src 2 true), (o.b, .unused),
        (o.c, .unused)] } h cx s →
      let va := (in64 cx s o.a (elected cx)).toNat % 2 ^ 57 / 8 * 8
      exec (.acq h o) s = .next (startAccess cx f .acquire (.acqRead o.d)
        (if isS o.d then (resultKeys o.d 2 0 0).map fun e => e.1 else regs o.d 2 all)
        (all.map fun l => ⟨l, va, [], 0⟩) (ticked s)) ∧
      (cx.g.ops = [] → Quiet s → isObject s cx.w.asid va = false → cx.run.lanes ≠ 0 →
        ∀ pa, CtrlServes s cx.core cx.w.asid va pa .atomic →
        let old := ofLeBytes ((List.range 8).map fun i => memByte s (pa + i))
        let results := if isS o.d then resultKeys o.d 2 0 old else all.flatMap fun l => resultKeys o.d 2 l old
        ∃ t, exec (.acq h o) s = .next t ∧ t.mem = s.mem ∧
          sfind t.groups cx.gk = some (withServed s.nextOp f .acquire (results.map fun e => e.1) results cx.g))) ∧
    (∀ o : R4, Ready { unit := 1, fcls := .opt, ops := [(o.d, .unused), (o.a, .src 2 true), (o.b, .src 2 true),
        (o.c, .unused)] } h cx s →
      let va := (in64 cx s o.a (elected cx)).toNat % 2 ^ 57 / 8 * 8
      let x := (in64 cx s o.b (elected cx)).toNat
      (∀ p ∈ ([(0, .relSet h o), (1, .relAdd h o), (2, .relSub h o)] : List (Nat × Instr)),
        exec p.2 s = .next (startAccess cx f .access (.relOp p.1) [] (all.map fun l => ⟨l, va, leBytes 8 x, 0⟩) (ticked s))) ∧
      (cx.g.ops = [] → buffers cx.w = false → Quiet s → isObject s cx.w.asid va = false → cx.run.lanes ≠ 0 →
        ∀ pa, CtrlServes s cx.core cx.w.asid va pa .atomic →
        let old := ofLeBytes ((List.range 8).map fun i => memByte s (pa + i))
        let Writes (v : Nat) (t : State) : Prop :=
          (∀ a, memByte t a = if pa ≤ a ∧ a < pa + 8 then BitVec.ofNat 8 (v / 2 ^ (8 * (a - pa))) else memByte s a) ∧
          sfind t.groups cx.gk = some (withOpt s.nextOp f [] cx.g)
        (∃ t, exec (.relSet h o) s = .next t ∧ Writes x t) ∧
        (∃ t, exec (.relAdd h o) s = .next t ∧ Writes ((old + x) % 2 ^ 64) t) ∧
        (∃ t, exec (.relSub h o) s = .next t ∧ Writes ((old + 2 ^ 64 - x) % 2 ^ 64) t))) ∧
    (∀ (x : WaX) (o : RM), o.c.toNat / 256 < 6 → o.c.toNat % 64 = 0 →
      let w := if o.c.getLsbD 6 then 2 else 1
      Ready { unit := 1, fcls := .res, ops := [(o.d, .dst w true false), (o.a, .src 2 false), (o.b, .src w false)] } h cx s →
      let cmp l := if o.c.getLsbD 6 then (in64 cx s o.b l).toNat else (in32 cx s o.b l).toNat
      exec (.waita h x o) s = .next (startAccess cx f (.waita (o.c.getLsbD 7))
        (.wait x (o.c.toNat / 256) (o.c.getLsbD 7) (o.c.getLsbD 6) o.d) (regs o.d w all)
        (all.map fun l => ⟨l, (in64 cx s o.a l).toNat % 2 ^ 57, leBytes (4 * w) (cmp l), 0⟩) (ticked s)) ∧
      (cx.g.ops = [] → Quiet s → o.c.toNat / 256 < 3 → o.c.getLsbD 7 = false →
        let va l := (in64 cx s o.a l).toNat % 2 ^ 57 / (4 * w) * (4 * w)
        let word l := ofLeBytes ((List.range (4 * w)).map fun i =>
          (heldByte s (clusterOf cx.core) cx.w.asid (va l + i)).getD 0)
        (∀ l ∈ all, ∃ ln, L2Serves s cx.core cx.w.asid (va l) .wait ln ∧ ln.poison = 0) →
        (∀ l ∈ all, waitHolds x (word l) (cmp l) = true) →
        let results := all.flatMap fun l => resultKeys o.d w l (word l)
        ∃ t, exec (.waita h x o) s = .next t ∧ t.mem = s.mem ∧
          sfind t.groups cx.gk =
            some (withServed s.nextOp f (.waita false) (results.map fun e => e.1) results cx.g))) ∧
    (∀ (x : McX) (o : R4), Ready { unit := 1, fcls := .res, ops := [(o.d, .unused), (o.a, .src 2 true), (o.b, .src 1 true),
        (o.c, .src 1 true)] } h cx s →
      let e := elected cx
      let start := (in64 cx s o.a e).toNat % 2 ^ 57 / 128 * 128
      let n := min (in32 cx s o.b e).toNat 64
      let dst := (in32 cx s o.c e).toNat / 128 * 128
      let spc : Space := if x = .ob then .ob else .sp
      let len := (runOf cx.w spc).2
      let kind : OpKind := .mcast (x == .ob) start n dst cx.run.head.toNat
      let joined := mergeInto (clusterSt s (clusterOf cx.core)) cx.w.asid start n cx.gk s.nextOp
      (n ≠ 0 → len < dst + 128 * n → ∃ t, exec (.ldmc h x o) s = .next t ∧
        Only cx s t { cx.run with exc := some ⟨8, cx.run.widx, max dst len⟩ } cx.g) ∧
      (n = 0 → exec (.ldmc h x o) s = .next (startOp cx f .access 0 [] [] true (ticked s))) ∧
      (n ≠ 0 → dst + 128 * n ≤ len → localHeld cx false (ticked s) = false → ∀ c, joined = some c →
        exec (.ldmc h x o) s =
          .next (startOp cx f kind 1 [] [] false (putCluster (ticked s) (clusterOf cx.core) c))) ∧
      (n ≠ 0 → dst + 128 * n ≤ len → joined = none → exec (.ldmc h x o) s =
        .next (startAccess cx f kind (.mcast (x == .ob) dst) []
          ((List.range n).map fun i => ⟨0, (start + 128 * i) % 2 ^ 57, leBytes 1 i, 0⟩) (ticked s))) ∧
      (n ≠ 0 → dst + 128 * n ≤ len → (clusterSt s (clusterOf cx.core)).mergewin = 0 → cx.g.ops = [] → cx.w.sbuf = [] → Quiet s →
        (∀ i, i < n → ∃ ln, L2Serves s cx.core cx.w.asid ((start + 128 * i) % 2 ^ 57) .read ln) →
        let base := (runOf cx.w spc).1 + dst
        ∃ t, exec (.ldmc h x o) s = .next t ∧
          (∀ a, cellByte (spaceCells (coreSt t cx.core) spc) a = if base ≤ a ∧ a < base + 128 * n then
            (heldByte s (clusterOf cx.core) cx.w.asid ((start + (a - base)) % 2 ^ 57)).getD 0
            else cellByte (spaceCells (coreSt s cx.core) spc) a) ∧
          (∀ k, k ≠ cx.core → coreSt t k = coreSt s k) ∧
          Only cx s { t with nextOp := s.nextOp, cores := s.cores } cx.run
            (withServed s.nextOp f kind [] [] cx.g)))

/-- R154, R418: a global load of a group with nothing outstanding, in a device with no access parked and no wait, whose lines
the core's L1 holds: each lane receives the bytes at its address, little-endian, across a line's end too; the device is
otherwise as it was. That the access is performed at issue is the model's choice (log 12). -/
def Obligations.CachedGlobalLoadsRead : Prop :=
  ∀ (h : Hdr) (x : LdW) (cx : Cx) (s : State) (o : R4) (line : Nat → List Byte), Ready (ldForm true x o) h cx s →
    cx.g.ops = [] → cx.w.sbuf = [] → Quiet s →
    let ea l := (((in64 cx s o.a l).toNat + (in32 cx s o.b l).toInt * ldSize x + (in32 cx s o.c l).toInt) % 2 ^ 57).toNat
    (∀ n, (line n).length = 128) →
    (∀ l i, l < 32 → cx.run.lanes.getLsbD l = true → i < ldSize x →
      let n := (ea l + i) % 2 ^ 57 / 128
      ∃ way, sfind (coreSt s cx.core).l1 (lineKey cx.w.asid (128 * n)) = some (way, line n)) →
    let value l := ldValue x (ofLeBytes ((List.range (ldSize x)).map fun i =>
      (line ((ea l + i) % 2 ^ 57 / 128)).getD ((ea l + i) % 2 ^ 57 % 128) 0))
    let results := (lanesOf cx.run.lanes).flatMap fun l => resultKeys o.d (ldWords x) l (value l)
    ∃ t, exec (.ldG h x o) s = .next t ∧
      Only cx s { t with nextOp := s.nextOp } cx.run
        (withServed s.nextOp h.f.toNat .access (results.map fun e => e.1) results cx.g)

/-- R162, R163, R418, R420, R422: a global store of a group with nothing outstanding, in a device with no access parked and
no wait, whose lines the cluster L2 holds writable and unfrozen, from a workgroup that does not buffer its stores. Every byte
the L2 holds at any address is the byte stored there last, by the highest lane, or what it was; physical memory, every other
cluster and every other part of the state but the core's own L1 copies are as they were. That the store is performed at issue
is the model's choice (log 12). -/
def Obligations.CachedGlobalStoresWrite : Prop :=
  ∀ (h : Hdr) (cx : Cx) (s : State) (o : R4), cx.g.ops = [] → buffers cx.w = false → Quiet s → guardMask cx h ≠ 0 →
    (∀ x : StW, Ready (stForm true x o) h cx s →
      let ea l := (((in64 cx s o.a l).toNat + (in32 cx s o.b l).toInt * stSize x + (in32 cx s o.c l).toInt) % 2 ^ 57).toNat
      let bytes := (lanesOf (guardMask cx h)).flatMap fun l =>
        (List.range (stSize x)).map fun i => ((ea l + i) % 2 ^ 57, (stData cx (ticked s) x o.d l).getD i 0)
      (∀ e ∈ bytes, ∃ ln, L2Serves s cx.core cx.w.asid (e.1 / 128 * 128) .write ln) →
      ∃ t, exec (.stG h x o) s = .next t ∧ StoredGlobal cx h bytes s t) ∧
    (Ready (stuForm true o) h cx s →
      let ea l := (((in64 cx s o.a l).toNat + (in32 cx s o.b l).toInt) % 2 ^ 57).toNat
      let bytes := (lanesOf (guardMask cx h)).flatMap fun l => ((List.range 8).filter fun i => (in32 cx s o.c l).getLsbD i).map
        fun i => ((ea l + i) % 2 ^ 57, BitVec.ofNat 8 ((in64 cx s o.d l).toNat / 2 ^ (8 * i)))
      (∀ e ∈ bytes, ∃ ln, L2Serves s cx.core cx.w.asid (e.1 / 128 * 128) .write ln) →
      ∃ t, exec (.stuG h o) s = .next t ∧ StoredGlobal cx h bytes s t)

/-- R157, R158, R179, R424, R425: a hint acts at the address of each executing lane in turn, and waits where its slice is
being washed; PREF.L2 of lines that the L2 holds, and PREF.L1 of lines that the L1 holds too, change nothing; RESID.KEEP marks
a line that the L2 holds as kept; RESID.NORM clears the kept mark of a line that the cluster L2 holds, and of an address in a
held range or without R permission is dropped and counted; BANKSW gives every bank its mask names, of banks 2 to 15, the mode
it asks for, where that is not mode 3 and the bank's own, no switch of the bank is pending and the table of R158 accepts it.
That a hint acts at issue is the model's choice (log 12). -/
def Obligations.HintsAndBankSwitchesAct : Prop :=
  ∀ (h : Hdr) (cx : Cx) (s : State) (o : R4),
    (vecHeld cx = false → Ready { unit := 1, ops := (o.d, .unused) :: addrForm true o } h cx s →
      let ea l := (((in64 cx s o.a l).toNat + (in32 cx s o.b l).toInt + (in32 cx s o.c l).toInt) % 2 ^ 57).toNat
      let hints (act : Nat) : State :=
        let ag := agCx cx (ticked s)
        let r := runHint ag act ((lanesOf cx.run.lanes).map fun l => ⟨l, ea l, [], 0⟩) (Ran.start (ticked s))
        let t := parkLeft ag s.nextOp (.hint act) cx.run.head.toNat r.left r.st
        { t with nextOp := t.nextOp + 1 }
      exec (.prefL1 h o) s = .next (hints 0) ∧ exec (.prefL2 h o) s = .next (hints 1) ∧
      exec (.residKeep h o) s = .next (hints 2) ∧
      ((∀ l ∈ lanesOf cx.run.lanes, ∃ ln, L2Serves s cx.core cx.w.asid (ea l) .read ln) →
        ∃ t, exec (.prefL2 h o) s = .next t ∧ Only cx s { t with nextOp := s.nextOp } cx.run cx.g) ∧
      ((∀ l ∈ lanesOf cx.run.lanes, ∃ ln, L2Serves s cx.core cx.w.asid (ea l) .read ln ∧
          ∃ y, sfind (coreSt s cx.core).l1 (lineKey cx.w.asid (ea l)) = some y) →
        ∃ t, exec (.prefL1 h o) s = .next t ∧ Only cx s { t with nextOp := s.nextOp } cx.run cx.g) ∧
      (∀ e, lanesOf cx.run.lanes = [e] → (∃ ln, L2Serves s cx.core cx.w.asid (ea e) .read ln) →
        ∃ t, exec (.residKeep h o) s = .next t ∧
          ((l2Line t (clusterOf cx.core) cx.w.asid (ea e)).bind fun ln => ln.kept) = some s.tick.succ) ∧
      (∀ e, lanesOf cx.run.lanes = [e] →
        heldBy s cx.w.asid (ea e) ≠ none ∨ (∃ ln, l2Line s (clusterOf cx.core) cx.w.asid (ea e) = some ln ∧ ln.r = false) →
        exec (.residNorm h o) s = .next (modCtx (ticked s) cx.w.asid fun c =>
          { c with hintDrops := min (c.hintDrops + 1) (2 ^ 64 - 1) })) ∧
      ((∀ l ∈ lanesOf cx.run.lanes, heldBy s cx.w.asid (ea l) = none ∧
          ∀ ln, l2Line s (clusterOf cx.core) cx.w.asid (ea l) = some ln → ln.r = true) →
        ∃ t, exec (.residNorm h o) s = .next t ∧
        (∀ key, sfind (clusterSt t (clusterOf cx.core)).l2 key = (sfind (clusterSt s (clusterOf cx.core)).l2 key).map fun ln =>
          if (lanesOf cx.run.lanes).any fun l => lineKey cx.w.asid (ea l) == key then { ln with kept := none } else ln) ∧
        (∀ k, k ≠ clusterOf cx.core → clusterSt t k = clusterSt s k) ∧
        { t with tick := s.tick, clusters := s.clusters } = s)) ∧
    (Ready { unit := 1, priv := true, fcls := .opt, ops := [(o.d, .unused), (o.a, .src 1 true), (o.b, .src 1 true),
        (o.c, .unused)] } h cx s → (coreSt s cx.core).bankMode.length = 16 →
      let mode := (in32 cx s o.b (elected cx)).toNat % 4
      let takes (b : Nat) : Prop := 2 ≤ b ∧ b < 16 ∧ (in32 cx s o.a (elected cx)).getLsbD b = true ∧ mode ≠ 3 ∧
        (coreSt s cx.core).bankMode.getD b 0 ≠ mode ∧ sfind (coreSt s cx.core).bankFrom b = none ∧
        switchOk s cx.core b mode = true
      ∃ t, exec (.banksw h o) s = .next t ∧
        (∀ b, takes b → (coreSt t cx.core).bankMode.getD b 0 = mode ∧
          sfind (coreSt t cx.core).bankFrom b = some ((coreSt s cx.core).bankMode.getD b 0)) ∧
        (∀ b, ¬ takes b → (coreSt t cx.core).bankMode.getD b 0 = (coreSt s cx.core).bankMode.getD b 0 ∧
          sfind (coreSt t cx.core).bankFrom b = sfind (coreSt s cx.core).bankFrom b) ∧
        (∀ k, k ≠ cx.core → coreSt t k = coreSt s k) ∧ t.mem = s.mem ∧ t.runs = s.runs ∧
        (h.f = 15 → { t with tick := s.tick, cores := s.cores } = s))

/-- R196, R197, R430, R431: a fence whose earlier accesses are done releases and acquires at its scope at once; one whose
earlier accesses are not, or whose workgroup's store buffer still drains, stays outstanding over the lanes that executed it.
In an uncommitted restartable workgroup the release enters the store buffer. FENCE.X waits for the path it names. R197: a
release at die scope or wider leaves no dirty line of the ASID in the cluster's L2; an acquire at die scope or wider leaves
no line of it there, and at cluster scope or wider none in the core's L1; a narrower scope changes nothing. That a fence acts
at once where nothing is outstanding is the model's choice (log 12). -/
def Obligations.FencesOrder : Prop :=
  (∀ (h : Hdr) (cx : Cx) (s : State) (o : RM),
    let scope := o.c.toNat / 256
    let f := h.f.toNat
    (scope < 6 → o.c.toNat % 256 = 0 → Ready (fenceForm o) h cx s →
      ∀ p ∈ ([(true, false, .fenceRel h o), (false, true, .fenceAcq h o), (true, true, .fenceAr h o)] :
        List (Bool × Bool × Instr)),
      let act (rel : Bool) : State :=
        let t := if rel then releaseScope (ticked s) cx.core cx.w.asid scope else ticked s
        if p.2.1 then acquireScope t cx.core cx.w.asid scope else t
      (uncommitted s cx.wk = false → draining s cx.wk = false → fenceDue s cx.gk cx.g s.nextOp cx.run.lanes p.1 p.2.1 = true →
        exec p.2.2 s = .next (if h.f = 15 then act p.1 else startOp cx f (.fence p.1 p.2.1 scope) 0 [] [] true (act p.1))) ∧
      (uncommitted s cx.wk = false →
        (p.1 = true ∧ draining s cx.wk = true) ∨ fenceDue s cx.gk cx.g s.nextOp cx.run.lanes p.1 p.2.1 = false →
        exec p.2.2 s = .next (startOp cx f (.fence p.1 p.2.1 scope) cx.run.lanes [] [] false (ticked s))) ∧
      (p.1 = true → uncommitted s cx.wk = true →
        let t := bufferOp cx.wk ⟨cx.gk, s.nextOp, cx.run.lanes, .fence scope, cx.run.head.toNat, false⟩ (ticked s)
        let u := if p.2.1 then acquireScope t cx.core cx.w.asid scope else t
        (fenceDue s cx.gk cx.g s.nextOp cx.run.lanes false p.2.1 = true →
          exec p.2.2 s = .next (if h.f = 15 then u else startOp cx f (.fence false p.2.1 scope) 0 [] [] true u)) ∧
        (fenceDue s cx.gk cx.g s.nextOp cx.run.lanes false p.2.1 = false →
          exec p.2.2 s = .next (startOp cx f (.fence false p.2.1 scope) cx.run.lanes [] [] false t)))) ∧
    (∀ a b : Nat, a < 5 → b < 5 → a ≠ b → o.c = BitVec.ofNat 11 (8 * a + b) →
      Ready { unit := 1, fcls := .opt, ops := [(o.d, .unused), (o.a, .unused), (o.b, .unused)] } h cx s →
      let due := pathDone cx.g s.nextOp a
      exec (.fenceX h o) s =
        .next (if due = true ∧ h.f = 15 then ticked s else startOp cx f (.fenceX a b) 0 [] [] due (ticked s)))) ∧
  (∀ (s : State) (core asid scope : Nat),
    (scope < 3 → releaseScope s core asid scope = s) ∧ (scope < 2 → acquireScope s core asid scope = s) ∧
    (3 ≤ scope → ∀ key ln, keyAsid key = asid →
      sfind (clusterSt (releaseScope s core asid scope) (clusterOf core)).l2 key = some ln → ln.dirty = 0) ∧
    (3 ≤ scope → ∀ key, keyAsid key = asid →
      sfind (clusterSt (acquireScope s core asid scope) (clusterOf core)).l2 key = none) ∧
    (2 ≤ scope → ∀ key, keyAsid key = asid → sfind (coreSt (acquireScope s core asid scope) core).l1 key = none))

/-- R201, R204, R432, R433: BIND and UNBIND write a status when their flag clears. BIND flushes the range and adds a binding
under the lowest free number where no limit is broken; UNBIND of an address and object that are bound pulls the object, frees
its lines and takes the binding away; a BIND refused, and an UNBIND of no binding (status 6), change nothing else, but for the
poisoned page-table entry that the walk of the object's address may find (R130). That the
effect is at issue and the flag clears by a later event is the model's choice (log 12). -/
def Obligations.BindingsChange : Prop :=
  ∀ (h : Hdr) (cx : Cx) (s : State) (o : R4), vecHeld cx = false →
    let status (n : Nat) (t : State) : State :=
      let r := resultKeys o.d 1 0 n
      startOp cx h.f.toNat .access 0 (r.map fun e => e.1) r true t
    let base := (in64 cx s o.a (elected cx)).toNat % 2 ^ 57
    let len := (in64 cx s o.b (elected cx)).toNat
    let obj := (in64 cx s o.c (elected cx)).toNat % 2 ^ 57 / 8 * 8
    let walked (t : State) : State := { t with troubles := (lookupLeaf t cx.w.asid obj).2.troubles }
    (Ready { unit := 1, fcls := .res, ops := [(o.d, .dst 1 false true), (o.a, .src 2 true), (o.b, .src 2 true),
        (o.c, .src 2 true)] } h cx s →
      (∀ c, ctxOf (ticked s) cx.w.asid = some c →
        (64 ≤ c.bindings.length → exec (.bind h o) s = .next (status 1 (ticked s))) ∧
        (c.bindings.length < 64 → base % 128 ≠ 0 ∨ len % 128 ≠ 0 ∨ len = 0 →
          exec (.bind h o) s = .next (status 2 (ticked s)))) ∧
      (bindStatus (ticked s) cx.w.asid base len obj = 0 →
        exec (.bind h o) s = .next (status 0 (walked (modCtx (flushRange (ticked s) cx.w.asid base len) cx.w.asid fun c =>
          { c with bindings := c.bindings ++ [⟨base, len, obj, freeBinding c.bindings⟩] })))) ∧
      (∀ n, bindStatus (ticked s) cx.w.asid base len obj = n → 3 ≤ n →
        exec (.bind h o) s = .next (status n (walked (ticked s))))) ∧
    (Ready { unit := 1, fcls := .res, ops := [(o.d, .dst 1 false true), (o.a, .src 2 true), (o.b, .unused),
        (o.c, .src 2 true)] } h cx s →
      ((∀ b ∈ boundTo (ticked s) cx.w.asid obj, b.base ≠ base) → exec (.unbind h o) s = .next (status 6 (ticked s))) ∧
      (∀ b, ((boundTo (ticked s) cx.w.asid obj).find? fun b => b.base == base) = some b →
        exec (.unbind h o) s = .next (status 0
          (modCtx (unmarkLines cx.w.asid b.num (pullObject cx.w.asid obj (ticked s))) cx.w.asid fun c =>
            { c with bindings := c.bindings.filter fun x => x != b }))))

/-- R232 to R234, R439: the barrier forms. A number at or above NBAR, a count outside 1 to 32 and a count other than the
phase's raise their exceptions; an arrival that does not complete the phase counts; the one that does resets the barrier and
makes every wait on it ready; a wait joins the waiting groups under its flag. That a wait's flag clears by a later event is
the model's choice (log 12). -/
def Obligations.BarriersCount : Prop :=
  ∀ (h : Hdr) (cx : Cx) (s : State) (o : R4), cx.g.ops = [] →
    let n := (in32 cx s o.a (elected cx)).toNat
    let count := (in32 cx s o.b (elected cx)).toNat
    let b := cx.w.barriers.getD n Barrier.reset
    let Raises (code taddr : Nat) (i : Instr) : Prop :=
      ∃ t, exec i s = .next t ∧ Only cx s t { cx.run with exc := some ⟨code, cx.run.widx, taddr⟩ } cx.g
    let join (w : Wg) : Wg := { w with barriers := modAt w.barriers n fun b => { b with waiting := b.waiting ++ [(cx.gk, s.nextOp)] } }
    let pending : Group := { cx.g with ops := [⟨s.nextOp, h.f.toNat, .barrier n [], cx.run.lanes, [], [], [], false, []⟩] }
    (Ready (barForm o (.src 1 true) .none) h cx s →
      (cx.w.nbar ≤ n → Raises 8 n (.barArv h o)) ∧
      (n < cx.w.nbar → (count = 0 ∨ 32 < count) → Raises 11 0 (.barArv h o)) ∧
      (n < cx.w.nbar → 1 ≤ count → count ≤ 32 → b.arrivals ≠ 0 → b.expected ≠ count → Raises 11 0 (.barArv h o)) ∧
      (n < cx.w.nbar → 1 ≤ count → count ≤ 32 → b.arrivals = 0 ∨ b.expected = count → b.arrivals + 1 ≠ count →
        ∃ t, exec (.barArv h o) s = .next t ∧ Only cx s { t with wgs := s.wgs } cx.run cx.g ∧
          sfind t.wgs cx.wk = some { cx.w with
            barriers := modAt cx.w.barriers n fun b => { b with expected := count, arrivals := b.arrivals + 1 } } ∧
          ∀ k, k ≠ cx.wk → sfind t.wgs k = sfind s.wgs k) ∧
      (n < cx.w.nbar → 1 ≤ count → count ≤ 32 → b.arrivals = 0 ∨ b.expected = count → b.arrivals + 1 = count →
        exec (.barArv h o) s = .next (b.waiting.foldl
          (fun t e => modOp e.1 e.2 (fun p => { p with kind := .barrier n b.debts, ready := true }) t)
          (modWg (ticked s) cx.wk fun w => { w with barriers := modAt w.barriers n fun _ => Barrier.reset })))) ∧
    (Ready (barForm o .unused .res) h cx s →
      (cx.w.nbar ≤ n → Raises 8 n (.barWait h o)) ∧
      (n < cx.w.nbar → ∃ t, exec (.barWait h o) s = .next t ∧
        Only cx s { t with wgs := s.wgs, nextOp := s.nextOp } cx.run pending ∧ sfind t.wgs cx.wk = some (join cx.w) ∧
        ∀ k, k ≠ cx.wk → sfind t.wgs k = sfind s.wgs k)) ∧
    (Ready (barForm o (.src 1 true) .res) h cx s →
      (cx.w.nbar ≤ n → Raises 8 n (.barSync h o)) ∧
      (n < cx.w.nbar → (count = 0 ∨ 32 < count) → Raises 11 0 (.barSync h o)) ∧
      (n < cx.w.nbar → 1 ≤ count → count ≤ 32 → b.arrivals = 0 ∨ b.expected = count → b.arrivals + 1 ≠ count →
        ∃ t, exec (.barSync h o) s = .next t ∧ Only cx s { t with wgs := s.wgs, nextOp := s.nextOp } cx.run pending ∧
          sfind t.wgs cx.wk = some { join cx.w with barriers := modAt (join cx.w).barriers n fun b =>
            { b with expected := count, arrivals := b.arrivals + 1 } } ∧
          ∀ k, k ≠ cx.wk → sfind t.wgs k = sfind s.wgs k) ∧
      (n < cx.w.nbar → n < cx.w.barriers.length → 1 ≤ count → count ≤ 32 → b.arrivals = 0 ∨ b.expected = count →
        b.arrivals + 1 = count →
        exec (.barSync h o) s = .next ((b.waiting ++ [(cx.gk, s.nextOp)]).foldl
          (fun t e => modOp e.1 e.2 (fun p => { p with kind := .barrier n b.debts, ready := true }) t)
          (modWg (startOp cx h.f.toNat (.barrier n []) cx.run.lanes [] [] false (modWg (ticked s) cx.wk join)) cx.wk
            fun w => { w with barriers := modAt w.barriers n fun _ => Barrier.reset }))))

/-! ### Group 110: engine commands -/

/-- R442, R443: OBRES writes the 32-byte record its eight registers hold, with VALID set, and OBFREE clears VALID, with fixed
latency; an illegal record and one outside the operand buffer raise their exceptions. -/
def Obligations.OperandRecordsChange : Prop :=
  ∀ (h : Hdr) (cx : Cx) (s : State) (o : RM), o.c.toNat < 16 →
    let Pends (w : Wr) (i : Instr) : Prop := ∃ t, exec i s = .next t ∧
      sfind t.runs cx.rk = some { cx.run with pend := cx.run.pend ++ [(cx.run.cycle, w)] } ∧
      (∀ k, k ≠ cx.rk → sfind t.runs k = sfind s.runs k) ∧ (∀ k, sfind t.groups k = sfind s.groups k) ∧
      { t with tick := s.tick, runs := s.runs, groups := s.groups } = s
    (∀ a : BitVec 9, o.a = .s a →
      Ready { unit := 2, ops := [(o.d, .unused), (o.a, .sMul 8 504), (o.b, .unused)] } h cx s →
      let r : List Byte := (List.range 32).map fun i =>
        BitVec.ofNat 8 ((rdS cx (ticked s) (a.toNat + i / 4)).toNat / 2 ^ (8 * (i % 4)))
      (recIllegal r = true →
        ∃ t, exec (.obres h o) s = .next t ∧ Only cx s t { cx.run with exc := some ⟨1, cx.run.widx, 0⟩ } cx.g) ∧
      (recIllegal r = false → cx.w.obLen < recBase r + recLen r →
        ∃ t, exec (.obres h o) s = .next t ∧
          Only cx s t { cx.run with exc := some ⟨8, cx.run.widx, recBase r + recLen r - 1⟩ } cx.g) ∧
      (recIllegal r = false → recBase r + recLen r ≤ cx.w.obLen → Pends (.obrec o.c.toNat r) (.obres h o))) ∧
    (Ready { unit := 2, ops := [(o.d, .unused), (o.a, .unused), (o.b, .unused)] } h cx s →
      Pends (.obrec o.c.toNat []) (.obfree h o)) ∧
    (∀ r : List Byte, r.length = 32 → o.c.toNat < cx.w.obrecs.length →
      let after (image : List Byte) := (sfind (landWr cx.gk cx.wk (.obrec o.c.toNat image) s).wgs cx.wk).map fun w =>
        w.obrecs.getD o.c.toNat []
      sfind s.wgs cx.wk = some cx.w →
        after r = some (r.take 10 ++ [1] ++ r.drop 11) ∧
        after [] = some (setAt (cx.w.obrecs.getD o.c.toNat []) 10 0))

/-- R108, R256, R444 to R449: the matrix commands, their checks passed, go to the window of the matrix engine with what they
read at issue; a full window stalls them, an illegal block or a byte outside its space, for MSMLD and MSMST the lowest byte
outside the run, raises the exception. An MMA whose A
comes from registers goes only to an engine with room, and takes the cycles of reading them; a hazard on those registers is an
exception (R221). From a group with nothing outstanding an engine with room accepts the command at once: it stands last in
its queue. The window and the queue of an
engine are filled at issue, its work is done by later events (log 13). -/
def Obligations.MatrixCommandsIssue : Prop :=
  ∀ (h : Hdr) (cx : Cx) (s : State),
    let Raises (code taddr : Nat) (i : Instr) : Prop :=
      ∃ t, exec i s = .next t ∧ Only cx s t { cx.run with exc := some ⟨code, cx.run.widx, taddr⟩ } cx.g
    let Stalls (i : Instr) : Prop := ∃ t, exec i s = .next t ∧ Only cx s t { cx.run with stalled := true } cx.g
    (∀ o : R4, Ready { unit := 2, fcls := .opt, ops := [(o.d, .unused), (o.a, .sMul 8 504), (o.b, .unused),
        (o.c, .unused)] } h cx s →
      let ws := sBlock cx (ticked s) o.a 8
      let b := mblock ws
      let ra := cx.w.obrecs.getD b.ares []
      let rb := cx.w.obrecs.getD b.bres []
      let t := issueTile s cx.core
      let regs := b.asrc == 2
      let words := min 32 (((b.k * fmtBits (recFmt ra) + 7) / 8 + 3) / 4)
      (mmaIllegal cx b ra rb t.1 t.2.1 t.2.2.1 t.2.2.2 = true → Raises 1 0 (.mma h o)) ∧
      (mmaIllegal cx b ra rb t.1 t.2.1 t.2.2.1 t.2.2.2 = false →
        (∀ a, mmaOutside cx.w b ra rb t.1 t.2.2.1 t.2.2.2 = some a → Raises 8 a (.mma h o)) ∧
        (mmaOutside cx.w b ra rb t.1 t.2.2.1 t.2.2.2 = none →
          (windowFull cx 0 = true → Stalls (.mma h o)) ∧
          (windowFull cx 0 = false → regs = false → exec (.mma h o) s = .next (send cx h 0 0 []
            (.mma ws ra rb [] (elected cx))
            (modMx (ticked s) cx.core fun x => { x with elect := elected cx, slot := cx.run.slot }))) ∧
          (cx.g.ops = [] → cx.g.window = [] → mxRoom s cx.core = true → regs = false → ∃ t, exec (.mma h o) s = .next t ∧
            sfind t.groups cx.gk = some (withTaken s.nextOp h.f.toNat 0 0 [] cx.g) ∧
            (mxOf t cx.core).queue.map (fun e => e.cmd) = (mxOf s cx.core).queue.map (fun e => e.cmd) ++
              [⟨s.nextOp, cx.gk, cx.w.asid, cx.wk, .mma ws ra rb [] (elected cx)⟩]) ∧
          (regs = true → windowFull cx 0 = false → regHazard cx b.areg words = true → Raises 10 0 (.mma h o)) ∧
          (regs = true → regHazard cx b.areg words = false → windowOf cx.g 0 = [] →
            pathHeld cx.g 0 s.nextOp = false → mxRoom s cx.core = true →
            exec (.mma h o) s = .next (send cx h 0 0 []
              (.mma ws ra rb (regA cx (ticked s) b words) (elected cx))
              (modMx (takeCycles cx ((b.k * fmtBits (recFmt ra) + 255) / 256) (ticked s)) cx.core fun x =>
                { x with elect := elected cx, slot := cx.run.slot })))))) ∧
    (∀ x : Wd, ∀ o : R4,
      let w := if x = .w64 then 2 else 1
      let off l := (in32 cx s o.a l).toNat / (4 * w) * (4 * w)
      let out l := l < 32 ∧ cx.run.lanes.getLsbD l = true ∧ cx.w.msLen < off l + 4 * w
      let inside := ∀ l, ¬ out l
      let first (a : Nat) := ∃ l, out l ∧ a = max (off l) cx.w.msLen ∧ ∀ j, out j → a ≤ max (off j) cx.w.msLen
      (Ready { unit := 2, fcls := .res, ops := [(o.d, .dst w true false), (o.a, .src 1 false), (o.b, .unused), (o.c, .unused)] }
          h cx s → ∀ a, first a → Raises 8 a (.msmld h x o)) ∧
      (Ready { unit := 2, fcls := .opt, ops := [(o.d, .src w false), (o.a, .src 1 false), (o.b, .unused), (o.c, .unused)] }
          h cx s → ∀ a, first a → Raises 8 a (.msmst h x o)) ∧
      (Ready { unit := 2, fcls := .res, ops := [(o.d, .dst w true false), (o.a, .src 1 false), (o.b, .unused), (o.c, .unused)] }
          h cx s → inside →
        (windowFull cx 0 = true → Stalls (.msmld h x o)) ∧
        (windowFull cx 0 = false → exec (.msmld h x o) s = .next (send cx h 0 cx.run.lanes (destKeys o.d w cx.run.lanes)
          (.msmld (decide (x = .w64)) o.d ((lanesOf cx.run.lanes).map fun l => (l, off l))) (ticked s))) ∧
        (cx.g.ops = [] → cx.g.window = [] → mxRoom s cx.core = true → ∃ t, exec (.msmld h x o) s = .next t ∧
          sfind t.groups cx.gk =
            some (withTaken s.nextOp h.f.toNat 0 cx.run.lanes (destKeys o.d w cx.run.lanes) cx.g) ∧
          (mxOf t cx.core).queue.map (fun e => e.cmd) = (mxOf s cx.core).queue.map (fun e => e.cmd) ++
            [⟨s.nextOp, cx.gk, cx.w.asid, cx.wk,
              .msmld (decide (x = .w64)) o.d ((lanesOf cx.run.lanes).map fun l => (l, off l))⟩])) ∧
      (Ready { unit := 2, fcls := .opt, ops := [(o.d, .src w false), (o.a, .src 1 false), (o.b, .unused), (o.c, .unused)] }
          h cx s → inside →
        (windowFull cx 0 = true → Stalls (.msmst h x o)) ∧
        (windowFull cx 0 = false → exec (.msmst h x o) s = .next (send cx h 0 0 []
          (.msmst (decide (x = .w64)) ((lanesOf cx.run.lanes).map fun l =>
            (l, off l, if x = .w64 then (in64 cx s o.d l).toNat else (in32 cx s o.d l).toNat))) (ticked s))) ∧
        (cx.g.ops = [] → cx.g.window = [] → mxRoom s cx.core = true → ∃ t, exec (.msmst h x o) s = .next t ∧
          sfind t.groups cx.gk = some (withTaken s.nextOp h.f.toNat 0 0 [] cx.g) ∧
          (mxOf t cx.core).queue.map (fun e => e.cmd) = (mxOf s cx.core).queue.map (fun e => e.cmd) ++
            [⟨s.nextOp, cx.gk, cx.w.asid, cx.wk, .msmst (decide (x = .w64)) ((lanesOf cx.run.lanes).map fun l =>
              (l, off l, if x = .w64 then (in64 cx s o.d l).toNat else (in32 cx s o.d l).toNat))⟩]))) ∧
    (∀ o : RM, o.c.toNat < 16 → o.c.toNat % 4 ≠ 3 →
      let lr := o.c.toNat / 4
      let lc := o.c.toNat % 4
      Ready { unit := 2, fcls := .opt, feature := if lr = 3 then some 1 else none,
              ops := [(o.d, .unused), (o.a, .unused), (o.b, .unused)] } h cx s →
      (bondLegal s cx.core = none → Raises 1 0 (.bondAcq h o)) ∧
      (∀ l, bondLegal s cx.core = some l →
        (l.rows % 2 ^ lr ≠ 0 ∨ l.cols % 2 ^ lc ≠ 0 → Raises 1 0 (.bondAcq h o)) ∧
        (l.rows % 2 ^ lr = 0 → l.cols % 2 ^ lc = 0 → windowFull cx 0 = true → Stalls (.bondAcq h o)) ∧
        (l.rows % 2 ^ lr = 0 → l.cols % 2 ^ lc = 0 → windowFull cx 0 = false →
          exec (.bondAcq h o) s = .next (send cx h 0 0 [] (.bondAcq lr lc)
            (modMx (ticked s) cx.core fun x => { x with itr := 2 ^ lr, itc := 2 ^ lc }))))) ∧
    (∀ o : R4, Ready { unit := 2, fcls := .opt, ops := [(o.d, .unused), (o.a, .unused), (o.b, .unused), (o.c, .unused)] }
        h cx s →
      (bondLegal s cx.core = none → Raises 1 0 (.bondRel h o)) ∧
      (∀ l, bondLegal s cx.core = some l → windowFull cx 0 = true → Stalls (.bondRel h o)) ∧
      (∀ l, bondLegal s cx.core = some l → windowFull cx 0 = false →
        exec (.bondRel h o) s =
          .next (send cx h 0 0 [] .bondRel (modMx (ticked s) cx.core fun x => { x with relIssued := true }))))

/-- R108, R450, R454, R459, R460: CPY and LXFER read their blocks at issue, check them and go to the window of their engine,
the workgroup being one that does not buffer its stores; from a group with nothing outstanding an engine with room accepts
the command at once, last in its queue. The command's work is done by later events (log 13); a workgroup
that buffers stores commits first (log 42). -/
def Obligations.CopyCommandsIssue : Prop :=
  ∀ (h : Hdr) (cx : Cx) (s : State) (o : R4), buffers cx.w = false →
    let Raises (code taddr : Nat) (i : Instr) : Prop :=
      ∃ t, exec i s = .next t ∧ Only cx s t { cx.run with exc := some ⟨code, cx.run.widx, taddr⟩ } cx.g
    let Stalls (i : Instr) : Prop := ∃ t, exec i s = .next t ∧ Only cx s t { cx.run with stalled := true } cx.g
    (Ready { unit := 2, fcls := .opt, ops := [(o.d, .unused), (o.a, .sMul 8 488), (o.b, .unused), (o.c, .unused)] } h cx s →
      let ws := sBlock cx (ticked s) o.a 24
      let b := cblock ws
      (cpyLegal b (featureOn s 4) = false → Raises 1 0 (.cpy h o)) ∧
      (cpyLegal b (featureOn s 4) = true →
        (∀ a, cpyOutside cx.w b = some a → Raises 8 a (.cpy h o)) ∧
        (cpyOutside cx.w b = none → windowFull cx 1 = true → Stalls (.cpy h o)) ∧
        (cpyOutside cx.w b = none → windowFull cx 1 = false → (b.conv && b.rnd == 4) = false →
          exec (.cpy h o) s = .next (send cx h 1 0 [] (.cpy ws (laneOf cx.g (elected cx)).gen) (ticked s))) ∧
        (cpyOutside cx.w b = none → windowFull cx 1 = false → (b.conv && b.rnd == 4) = true →
          exec (.cpy h o) s = .next (send cx h 1 0 [] (.cpy ws (laneOf cx.g (elected cx)).gen)
            (modGroup (ticked s) cx.gk fun g => onLanes g (laneBit (elected cx)) fun y =>
              { y with gen := lfsrDraw y.gen }))) ∧
        (cpyOutside cx.w b = none → (b.conv && b.rnd == 4) = false → cx.g.ops = [] → cx.g.window = [] →
          dmaRoom s 1 cx.core = true → ∃ t, exec (.cpy h o) s = .next t ∧
            sfind t.groups cx.gk = some (withTaken s.nextOp h.f.toNat 1 0 [] cx.g) ∧
            dmaOf t 1 cx.core = dmaOf s 1 cx.core ++
              [⟨⟨s.nextOp, cx.gk, cx.w.asid, cx.wk, .cpy ws (laneOf cx.g (elected cx)).gen⟩, none, 0, [], false⟩]))) ∧
    (Ready { unit := 2, fcls := .opt, feature := some 7, ops := [(o.d, .unused), (o.a, .sMul 4 500), (o.b, .unused),
        (o.c, .unused)] } h cx s →
      let ws := sBlock cx (ticked s) o.a 12
      let v (i : Nat) := ws.getD (2 * i) 0 + 2 ^ 32 * ws.getD (2 * i + 1) 0
      (lxferLegal ws = false → Raises 1 0 (.lxfer h o)) ∧
      (lxferLegal ws = true → windowFull cx 3 = true → Stalls (.lxfer h o)) ∧
      (lxferLegal ws = true → windowFull cx 3 = false →
        exec (.lxfer h o) s = .next (send cx h 3 0 [] (.lxfer [v 0, v 1, v 2, v 3, v 4, 0]) (ticked s))) ∧
      (lxferLegal ws = true → cx.g.ops = [] → cx.g.window = [] → dmaRoom s 3 (dieOf cx.core) = true →
        ∃ t, exec (.lxfer h o) s = .next t ∧ sfind t.groups cx.gk = some (withTaken s.nextOp h.f.toNat 3 0 [] cx.g) ∧
          dmaOf t 3 (dieOf cx.core) = dmaOf s 3 (dieOf cx.core) ++
            [⟨⟨s.nextOp, cx.gk, cx.w.asid, cx.wk, .lxfer [v 0, v 1, v 2, v 3, v 4, 0]⟩, none, 0, [], false⟩]))

/-- R275 to R282, R288, R291, R464 to R466: the sweep commands of a workgroup that has the engine go to its window. These
raise illegal-instruction: a sweep command of a workgroup without the engine; SWSTART with an SWDECL outstanding, with no
status 0, after an SWSTART that no SWDECL has followed, with a run active, or with a word that is not 8-byte aligned; SWPULL
with no run begun, of a group that holds an element, or of a fifth group; a commit with a lane that holds no element, or an
SWPARK whose kind, neighbour or slot R281 does not allow; SWWAKE of an index at or above N. A lane holds an element from the
clearing of its SWPULL's flag to its commit. An engine that is free answers SWSTAT, and a pull of a run it has decided, at
once; it takes any other pull into those it has to answer. What the engine can do it does at once, which is the model's
choice (log 13, log 42). -/
def Obligations.SweepCommandsIssue : Prop :=
  ∀ (h : Hdr) (cx : Cx) (s : State) (o : R4),
    let Raises (t0 : State) (i : Instr) : Prop :=
      ∃ t, exec i s = .next t ∧ Only cx t0 t { cx.run with exc := some ⟨1, cx.run.widx, 0⟩ } cx.g
    let x := swOf s cx.core
    let mine (f : SwSt → SwSt) : State := modSw (modSw (ticked s) cx.core fun x => { x with wg := some (keyNum cx.wk) }) cx.core f
    let own : State := modSw (ticked s) cx.core fun x => { x with wg := some (keyNum cx.wk) }
    let e := elected cx
    let room : Prop := cx.w.sw = true ∧ windowFull cx 2 = false
    let free : Prop := cx.g.ops = [] ∧ cx.g.window = [] ∧ x.held = [] ∧ swRoom s cx.core = true
    let done (g : Group) (dests : List Nat) (results : List (Nat × W32)) : Group :=
      { g with ops := g.ops ++ [⟨s.nextOp, h.f.toNat, .engine 2 1, 0, dests, results, [], true, []⟩] }
    (Ready (swForm .res [(o.d, .dst 1 false true), (o.a, .src 2 true), (o.b, .src 1 true), (o.c, .src 1 true)]) h cx s →
      (cx.w.sw = false → Raises s (.swdecl h o)) ∧
      (room → exec (.swdecl h o) s = .next (send cx h 2 0 (destKeys o.d 1 0)
        (.swdecl o.d ((in64 cx s o.a e).toNat % 2 ^ 57) (in32 cx s o.b e).toNat (in32 cx s o.c e).toNat)
        (mine fun x => { x with declOut := x.declOut + 1, started := false })))) ∧
    (Ready (swForm .opt [(o.d, .unused), (o.a, .src 2 true), (o.b, .src 2 true), (o.c, .unused)]) h cx s →
      let active := (x.run = 1 ∨ x.run = 2) ∧ x.dec = 0
      (cx.w.sw = false → Raises s (.swstart h o)) ∧
      (room → (x.declOut ≠ 0 ∨ x.declOk = false ∨ x.started = true ∨ active ∨ (in64 cx s o.a e).toNat % 8 ≠ 0) →
        Raises own (.swstart h o)) ∧
      (room → buffers cx.w = false → x.declOut = 0 → x.declOk = true → x.started = false → ¬ active →
        (in64 cx s o.a e).toNat % 8 = 0 → exec (.swstart h o) s = .next (send cx h 2 0 []
          (.swstart ((in64 cx s o.a e).toNat % 2 ^ 57) (in64 cx s o.b e).toNat)
          (mine fun x => { x with started := true, groups := [], batches := [] })))) ∧
    (Ready (swForm .res [(o.d, .out true 4 0), (o.a, .out false 1 511), (o.b, .unused), (o.c, .unused)]) h cx s →
      let takes := x.groups.contains cx.gk = true ∨ x.groups.length < 4
      let regs := destKeys o.d 4 cx.run.lanes ++ destKeys o.a 1 0
      let pull : Cmd := ⟨s.nextOp, cx.gk, cx.w.asid, cx.wk, .swpull o.d o.a cx.run.lanes⟩
      (cx.w.sw = false → Raises s (.swpull h o)) ∧
      (room → (x.started = false ∨ holdsElem cx x = true ∨ ¬ takes) → Raises own (.swpull h o)) ∧
      (room → x.started = true → holdsElem cx x = false → takes →
        exec (.swpull h o) s = .next (send cx h 2 cx.run.lanes regs pull.cmd
          (mine fun x => { x with groups := if x.groups.contains cx.gk then x.groups else x.groups ++ [cx.gk] })) ∧
        (∀ d, free → x.decl = some d → x.run = 3 → x.notices = [] → x.pulls = [] →
          let answer := pullResults o.d o.a (lanesOf cx.run.lanes) [] x.dec x.sweep
          ∃ t, exec (.swpull h o) s = .next t ∧ sfind t.groups cx.gk = some (done cx.g regs answer)) ∧
        (free → x.run ≠ 3 → ∃ t, exec (.swpull h o) s = .next t ∧ (swOf t cx.core).pulls = x.pulls ++ [pull] ∧
          sfind t.groups cx.gk = some (withTaken s.nextOp h.f.toNat 2 cx.run.lanes regs cx.g)))) ∧
    (Ready (swForm .opt [(o.d, .unused), (o.a, .src 1 false), (o.b, .unused), (o.c, .unused)]) h cx s →
      let ws := (lanesOf cx.run.lanes).map fun l => (l, (in32 cx s o.a l).toNat)
      let all (i : Nat → Instr) (p : Nat → Prop) := ∀ k, 1 ≤ k → k ≤ 3 → p k → Raises own (i k)
      let commit (k : Nat) : Instr := if k = 1 then .swpark h o else if k = 2 then .swdone h o else .swkeep h o
      let parks (w : Nat) := ∃ d, x.decl = some d ∧
        (w / 2 ^ 21 % 8 = 3 ∨ (w / 2 ^ 21 % 8 = 1 ∧ w / 2 ^ 19 % 4 < d.nnbr) ∨ (w / 2 ^ 21 % 8 = 2 ∧ w / 2 ^ 13 % 256 < d.nwatch))
      (cx.w.sw = false → Raises s (.swpark h o) ∧ Raises s (.swdone h o) ∧ Raises s (.swkeep h o)) ∧
      (room →
        all commit (fun _ => ∃ y ∈ ws, lanesElem cx x y.1 = none) ∧
        all commit (fun k => k = 1 ∧ ∃ y ∈ ws, ¬ parks y.2) ∧
        (∀ n : Nat → Nat, (∀ y ∈ ws, lanesElem cx x y.1 = some (n y.1)) → ∀ k, 1 ≤ k → k ≤ 3 →
          (k = 1 → ∀ y ∈ ws, parks y.2) → exec (commit k) s = .next (send cx h 2 cx.run.lanes []
            (.swcommit k (ws.map fun y => (y.1, n y.1, y.2)))
            (mine fun x => { x with batches := (lanesOf cx.run.lanes).foldl (fun bs l => sendLane cx l bs) x.batches }))))) ∧
    (∀ (l : Nat) (as bs : List Batch), l < 32 →
      let holds (b : Batch) (n : Nat) := b.group = cx.gk ∧ (∀ p ∈ cx.g.ops, p.id ≠ b.op) ∧ b.sent.getLsbD l = false ∧
        b.lanes.find? (fun e => e.1 == l) = some (l, n)
      (∀ a ∈ as, ∀ n, ¬ holds a n) →
        sendLane cx l as = as ∧ lanesElem cx { x with batches := as } l = none ∧
        ∀ b n, holds b n → sendLane cx l (as ++ b :: bs) = as ++ { b with sent := b.sent ||| 1#32 <<< l } :: bs ∧
          lanesElem cx { x with batches := as ++ b :: bs } l = some n) ∧
    (Ready (swForm .opt [(o.d, .unused), (o.a, .src 2 true), (o.b, .src 1 false), (o.c, .unused)]) h cx s →
      (cx.w.sw = false → Raises s (.swwake h o)) ∧
      (∀ d, x.decl = some d → d.blk = (in64 cx s o.a e).toNat % 2 ^ 57 → room →
        let outside (l : Nat) := l < 32 ∧ cx.run.lanes.getLsbD l = true ∧ swCount d ≤ (in32 cx s o.b l).toNat
        ((∃ l, outside l) → Raises own (.swwake h o)) ∧
        (buffers cx.w = false → (∀ l, ¬ outside l) →
          exec (.swwake h o) s = .next (send cx h 2 cx.run.lanes []
            (.swwake d.blk ((lanesOf cx.run.lanes).map fun l => (l, (in32 cx s o.b l).toNat))) own)))) ∧
    (Ready (swForm .res [(o.d, .out false 4 508), (o.a, .unused), (o.b, .unused), (o.c, .unused)]) h cx s →
      (cx.w.sw = false → Raises s (.swstat h o)) ∧
      (room → exec (.swstat h o) s = .next (send cx h 2 0 (destKeys o.d 4 0) (.swstat o.d) own)) ∧
      (cx.w.sw = true → free → ∃ t, exec (.swstat h o) s = .next t ∧ sfind t.groups cx.gk =
        some (done cx.g (destKeys o.d 4 0) (resultKeys o.d 4 0 (doSw.ofWords (statWords own cx.core))))))

/-! ### Group 111: system forms, exceptions, runs -/

/-- R241, R467 to R470: TRAP of a user group ends the run and has its lanes park on a system call of its number; TRET makes
the executing lanes inactive and the handler returns once no trapping lane is left; both are illegal elsewhere. -/
def Obligations.TrapsAndHandlerReturns : Prop :=
  ∀ (h : Hdr) (cx : Cx) (s : State),
    let Illegal (i : Instr) : Prop :=
      ∃ t, exec i s = .next t ∧ Only cx s t { cx.run with exc := some ⟨1, cx.run.widx, 0⟩ } cx.g
    (∀ o : I22, Ready { unit := 3, holds := true, ops := [(o.d, .unused), (o.a, .unused)] } h cx s →
      (cx.w.firmware = true → Illegal (.trap h o)) ∧
      (cx.w.firmware = false → ∃ t, exec (.trap h o) s = .next t ∧
        Only cx s t { cx.run with ends := .after, trapped := some o.m.toNat } cx.g)) ∧
    (∀ o : R4, Ready { unit := 3, ends := true, ops := [(o.d, .unused), (o.a, .unused), (o.b, .unused), (o.c, .unused)] }
        h cx s →
      let quit : Group := { cx.g with
        lanes := cx.g.lanes.mapIdx fun l x => if cx.run.lanes.getLsbD l then { x with st := .inactive } else x }
      (cx.g.trap.inh = false → Illegal (.tret h o)) ∧
      (cx.g.trap.inh = true → cx.g.trap.tmask &&& ~~~(inState quit .exited ||| inState quit .inactive) ≠ 0 →
        ∃ t, exec (.tret h o) s = .next t ∧ Only cx s t (movedRun cx.run) quit) ∧
      (cx.g.trap.inh = true → cx.g.trap.tmask &&& ~~~(inState quit .exited ||| inState quit .inactive) = 0 →
        ∃ t, exec (.tret h o) s = .next t ∧ Only cx s t (movedRun cx.run) (handlerReturn quit)))

/-- R238, R269, R312, R471 to R474: SYSR gives the register its uniform number names, to a user where the table lets it, and
is illegal otherwise; CLOCK gives the reference-clock count. The reference-clock count moves only between steps (log 37). -/
def Obligations.SystemRegistersRead : Prop :=
  ∀ (h : Hdr) (cx : Cx) (s : State) (o : R4),
    (Ready { unit := 3, ops := [(o.d, .dst 1 true true), (o.a, .src 1 true), (o.b, .unused), (o.c, .unused)] } h cx s →
      let num := (in32 cx s o.a (elected cx)).toNat % 4096
      let t := cx.g.trap
      let pc := (laneOf cx.g t.lpcsel).pc.addr.toNat
      let b (x : Bool) (k : Nat) : Nat := if x then 2 ^ k else 0
      let regs : List (Nat × Bool × Nat) :=
        [(0x040, true, t.tvec0.toNat), (0x041, true, t.tvec1.toNat), (0x042, true, t.tcause.toNat), (0x043, true, t.tmask.toNat),
          (0x044, true, t.tepc.addr.toNat % 2 ^ 32), (0x045, true, t.tepc.addr.toNat / 2 ^ 32),
          (0x046, true, t.taddr.toNat % 2 ^ 32), (0x047, true, t.taddr.toNat / 2 ^ 32), (0x048, true, t.lpcsel),
          (0x049, true, pc % 2 ^ 32), (0x04A, true, pc / 2 ^ 32),
          (0x04B, true, b t.hchk 2 + b t.masked 1 + b t.inh 0), (0x050, true, t.rngsel),
          (0x051, true, (laneOf cx.g t.rngsel).gen.toNat),
          (0x060, true, (mxOf s cx.core).cap * 2 ^ 16 + (mxOf s cx.core).budget), (0x061, true, (mxOf s cx.core).stall),
          (0x062, true, mxStat s cx.core), (0x070, false, (coreSt s cx.core).naks * 2 ^ 12 + (coreSt s cx.core).backoff),
          (0x080, false, bankModes (coreSt s cx.core)), (0x081, false, bankPend (coreSt s cx.core)),
          (0x090, false, (clusterSt s (clusterOf cx.core)).mergewin)]
      (∀ e ∈ regs, num = e.1 → (cx.w.firmware || e.2.1) = true →
        Gives32 cx s o.d (fun _ => BitVec.ofNat 32 e.2.2) (exec (.sysr h o) s)) ∧
      ((∀ e ∈ regs, num = e.1 → (cx.w.firmware || e.2.1) = false) →
        ∃ t, exec (.sysr h o) s = .next t ∧ Only cx s t { cx.run with exc := some ⟨1, cx.run.widx, 0⟩ } cx.g)) ∧
    (Ready { unit := 3, ops := [(o.d, .dst 2 true true), (o.a, .unused), (o.b, .unused), (o.c, .unused)] } h cx s →
      Gives64 cx s o.d (fun _ => BitVec.ofNat 64 s.refclk) (exec (.clock h o) s))

/-- R109, R157, R238, R269, R312, R473: SYSW writes the register its uniform number names with fixed latency,
where it is writable at that moment, and is illegal otherwise; and what a landed write leaves: the
fields of R238, with the low bits of an address cleared and RNGVAL never 0; CAP with a budget no larger (CAP in steps of 8
from 8 to 64), the counts that their clear bits clear, BACKOFF, the bank switches of BANKMODE, and MERGEWIN. -/
def Obligations.SystemRegistersWrite : Prop :=
  ∀ (h : Hdr) (cx : Cx) (s : State) (o : R4),
    (Ready { unit := 3, ops := [(o.d, .unused), (o.a, .src 1 true), (o.b, .src 1 true), (o.c, .unused)] } h cx s →
      let num := (in32 cx s o.a (elected cx)).toNat % 4096
      let x := in32 cx s o.b (elected cx)
      let always := [0x040, 0x041, 0x048, 0x04B, 0x050, 0x051]
      let handler := [0x044, 0x045, 0x049, 0x04A]
      let firmware := [0x060, 0x061, 0x070, 0x080, 0x090]
      let writable := num ∈ always ∨ (num ∈ handler ∧ cx.g.trap.inh = true) ∨ (num ∈ firmware ∧ cx.w.firmware = true)
      (¬ writable → ∃ t, exec (.sysw h o) s = .next t ∧
        Only cx s t { cx.run with exc := some ⟨1, cx.run.widx, 0⟩ } cx.g) ∧
      (writable → num ≠ 0x04B → ∃ t, exec (.sysw h o) s = .next t ∧
        sfind t.runs cx.rk = some { cx.run with pend := cx.run.pend ++ [(cx.run.cycle, .sys num x)] } ∧
        (∀ k, k ≠ cx.rk → sfind t.runs k = sfind s.runs k) ∧ (∀ k, sfind t.groups k = sfind s.groups k) ∧
        { t with tick := s.tick, runs := s.runs, groups := s.groups } = s) ∧
      (num = 0x04B → ∃ t y, exec (.sysw h o) s = .next t ∧ y.getLsbD 2 = (x.getLsbD 2 && featureOn s 10) ∧
        sfind t.runs cx.rk = some { cx.run with pend := cx.run.pend ++ [(cx.run.cycle, .sys 0x04B y)] })) ∧
    (∀ x : W32,
      let landed (num : Nat) : State := landWr cx.gk cx.wk (.sys num x) s
      let k := keyCore cx.gk
      let cap := x.toNat / 2 ^ 16 % 128
      let most := if cap < 8 then 8 else if 64 < cap then 64 else cap / 8 * 8
      let mx := mxOf s k
      let core := coreSt s k
      mxOf (landed 0x060) k = { mx with cap := cap, budget := if mx.budget ≤ most then mx.budget else most } ∧
      mxOf (landed 0x061) k = { mx with stall := if x.getLsbD 31 then 0 else mx.stall } ∧
      coreSt (landed 0x070) k =
        { core with naks := if x.getLsbD 31 then 0 else core.naks, backoff := x.toNat % 4096 } ∧
      landed 0x080 = writeBankMode k x s ∧
      (clusterSt (landed 0x090) (clusterOf k)).mergewin = x.toNat % 4096) ∧
    (∀ (g : Group) (x : W32),
      (landSys 0x040 x g).trap.tvec0.toNat = x.toNat / 8 * 8 ∧ (landSys 0x041 x g).trap.tvec1.toNat = x.toNat % 2 ^ 25 ∧
      (landSys 0x048 x g).trap.lpcsel = x.toNat % 32 ∧ (landSys 0x050 x g).trap.rngsel = x.toNat % 32 ∧
      (landSys 0x04B x g).trap.hchk = x.getLsbD 2 ∧
      (g.trap.rngsel < 32 → g.lanes.length = 32 →
        (laneOf (landSys 0x051 x g) g.trap.rngsel).gen = if x = 0 then 1 else x) ∧
      (landSys 0x044 x g).trap.tepc.addr.toNat = g.trap.tepc.addr.toNat / 2 ^ 32 * 2 ^ 32 + x.toNat / 8 * 8 ∧
      (landSys 0x045 x g).trap.tepc.addr.toNat = g.trap.tepc.addr.toNat % 2 ^ 32 + x.toNat % 2 ^ 25 * 2 ^ 32 ∧
      (landSys 0x049 x g).trap.staged = some (BitVec.ofNat 32 (x.toNat / 8 * 8)) ∧
      (∀ y, g.trap.staged = some y → g.trap.lpcsel < 32 → g.lanes.length = 32 → g.trap.tmask.getLsbD g.trap.lpcsel = false →
        (laneOf g g.trap.lpcsel).st = .parked →
        let u := landSys 0x04A x g
        u.trap.staged = none ∧ (laneOf u g.trap.lpcsel).rewritten = true ∧
        (laneOf u g.trap.lpcsel).pc.addr = BitVec.ofNat 57 (y.toNat + x.toNat % 2 ^ 25 * 2 ^ 32)))

/-- R475 to R482: the privileged forms in the firmware slot. PLD reads physical memory without decompression, PST writes it
lane by lane, MSIX raises its vector, GREL releases a sound slot-table record's groups, GSTOP marks the workgroup or its gang
as stopping, GSAVE writes the record of a stopped, drained workgroup, a header alone where it starts over (R124), or an empty
header, GREST puts back what a record in memory holds; a defective record is device-fatal. In a user group each is illegal.
The physical accesses are performed at issue, GSTOP marks and waits, vectors are counted (log 12, log 24, log 25, log 38). -/
def Obligations.PrivilegedForms : Prop :=
  ∀ (h : Hdr) (cx : Cx) (s : State),
    let f := h.f.toNat
    let flag (t : State) : State := if h.f = 15 then t else startOp cx f .access 0 [] [] true t
    let priv (c : FCls) (ops : List (Opnd × Role)) : Form := { unit := 3, priv := true, fcls := c, ops := ops }
    (∀ (x : Wd) (o : R4), ∀ i ∈ ([.pld h x o, .pst h x o, .msix h o, .grel h o, .gstop h .gang o, .gstop h .workgroup o,
        .gsave h o, .grest h o, .banksw h o] : List Instr),
      cxOf s = some cx → cx.run.exc = none → cx.w.firmware = false →
      ∃ t, exec i s = .next t ∧ ∃ r, sfind t.runs cx.rk = some r ∧ r.exc = some ⟨1, cx.run.widx, 0⟩ ∧ t.mem = s.mem) ∧
    (∀ (x : Wd) (o : R4),
      let n := if x = .w64 then 8 else 4
      let pa l := (in64 cx s o.a l).toNat % 2 ^ 52 / n * n
      let ls := lanesOf cx.run.lanes
      let base := (ls.map pa).foldl (fun t p => (request cx.w.asid cx.core 0 p t).2) (ticked s)
      ((∀ l ∈ ls, targetOf (pa l) ≠ .peer) → base = ticked s) ∧
      ((∀ l ∈ ls, reach s (pa l) = .ready) →
      (Ready (priv .res [(o.d, .dst (n / 4) true false), (o.a, .src 2 false), (o.b, .unused), (o.c, .unused)]) h cx s →
        (∀ l ∈ ls, rangePoisoned s.poison (pa l) n = false) →
        let rs := ls.flatMap fun l => resultKeys o.d (n / 4) l (ofLeBytes (ctrlRead s 0 (pa l) n))
        exec (.pld h x o) s =
          .next (startOp cx f .access 0 (destKeys o.d (n / 4) cx.run.lanes) rs true (ticked base))) ∧
      (Ready (priv .opt [(o.d, .src (n / 4) false), (o.a, .src 2 false), (o.b, .unused), (o.c, .unused)]) h cx s →
        let data l := leBytes n (if x = .w64 then (in64 cx s o.d l).toNat else (in32 cx s o.d l).toNat)
        exec (.pst h x o) s = .next (flag (ls.foldl (fun t l => ctrlWrite t 0 (pa l) (data l)) base))))) ∧
    (∀ o : R4,
      (Ready (priv .none [(o.d, .unused), (o.a, .src 1 true), (o.b, .unused), (o.c, .unused)]) h cx s →
        let n := (in32 cx s o.a (elected cx)).toNat % 2048
        exec (.msix h o) s = .next { ticked s with
          msix := sset s.msix n (sget 0 s.msix n + 1)
          msixPend := if vectorMasked s n then nsAdd s.msixPend n else s.msixPend }) ∧
      (Ready (priv .opt [(o.d, .unused), (o.a, .sMul 2 510), (o.b, .unused), (o.c, .unused)]) h cx s →
        let pa := (in64 cx s o.a (elected cx)).toNat
        let t := slotTab (memBytes s pa 640)
        let wk := wkey cx.core t.num
        (slotTabBad s cx.core pa t = true → exec (.grel h o) s = .next (deviceFatal 1 pa (ticked s))) ∧
        (slotTabBad s cx.core pa t = false →
          exec (.grel h o) s = .next (flag (releaseWg wk (setSlice wk (writeSlots cx.core t (ticked s))))))) ∧
      (∀ x : StopX, Ready (priv .opt [(o.d, .unused), (o.a, .src 1 true), (o.b, .src 1 true), (o.c, .unused)]) h cx s →
        let core := (in32 cx s o.a (elected cx)).toNat
        let n := (in32 cx s o.b (elected cx)).toNat
        let ks := if n < 192 then (if x = .gang then gangOf s (wkey core n) else [wkey core n]) else []
        let t := ks.foldl (fun t k => modWg t k fun w => if w.released && !w.firmware then { w with stopping := true } else w)
          (ticked s)
        exec (.gstop h x o) s = .next (startOp cx f (.stop core n (x == .gang)) 0 [] [] false t)) ∧
      (∀ a : BitVec 9, o.a = .s a →
        Ready (priv .opt [(o.d, .unused), (o.a, .sMul 4 508), (o.b, .unused), (o.c, .unused)]) h cx s →
        let reg (i : Nat) := (rdS cx (ticked s) (a.toNat + i)).toNat
        let addr := (reg 0 + 2 ^ 32 * reg 1) % 2 ^ 52
        let wk := wkey cx.core (reg 2)
        let within (n : Nat) := targetOf addr = .firmware ∧ targetOf (addr + n - 1) = .firmware
        let empty := exec (.gsave h o) s =
          .next (flag { memPut (ticked s) addr (List.replicate 256 0) with images := sdel s.images addr })
        (within 256 → reg 2 < 192 → sfind s.wgs wk = none → empty) ∧
        (∀ w, sfind s.wgs wk = some w → reg 2 < 192 →
          (within 256 → w.stopping = false ∨ wgDrained s wk = false → empty) ∧
          (w.stopping = true → wgDrained s wk = true →
            (uncommitted s wk = false → within (recordSize s wk) →
              exec (.gsave h o) s = .next (flag (lastSaved w (saveFree (ticked s) (wk, addr))))) ∧
            (uncommitted s wk = true → within 256 →
              exec (.gsave h o) s = .next (flag (lastSaved w (freeWg wk (storeRestart wk addr w (ticked s)))))))) ∧
        (targetOf addr ≠ .firmware → exec (.gsave h o) s = .next (deviceFatal 1 addr (ticked s))) ∧
        (let pa := (reg 2 + 2 ^ 32 * reg 3) % 2 ^ 52
         let tab := slotTab (memBytes s pa 640)
         let header (o n : Nat) := ofLeBytes (memBytes s (addr + o) n)
         (¬ within 256 ∨ header 0 2 = 0 → exec (.grest h o) s = .next (deviceFatal 1 addr (ticked s))) ∧
         (within 256 → header 0 2 ≠ 0 → slotTabBad s cx.core pa tab = true ∨ tab.n ≠ header 0x1C 4 →
           exec (.grest h o) s = .next (deviceFatal 1 pa (ticked s))) ∧
         (within 256 → header 0 2 ≠ 0 → slotTabBad s cx.core pa tab = false → tab.n = header 0x1C 4 →
           let k := wkey cx.core tab.num
           exec (.grest h o) s = .next (flag (releaseWg k (setSlice k
             (modWg (writeSlots cx.core tab (ticked s)) k fun w => { w with image := some addr }))))))))

/-- R325: an instruction whose word fails check 1, 2 or 3 has no effect: its run records the exception of the first check
that fails, illegal-instruction, illegal-operand or out-of-allotment; a flag that counts 63 operations stalls it (R219), and
in hazard-check mode an access to an outstanding operation's destination records the hazard exception (R221). A run that has
an exception keeps it (R236). -/
def Obligations.IssueChecksInOrder : Prop :=
  ∀ (f : Form) (h : Hdr) (eff : Cx → State → State) (cx : Cx) (s : State), cxOf s = some cx → cx.run.exc = none →
    let Records (code : Nat) : Prop := ∃ t, issue f h eff s = .next t ∧
      { t with runs := s.runs } = s ∧ sfind t.runs cx.rk = some { cx.run with exc := some ⟨code, cx.run.widx, 0⟩ } ∧
      ∀ k, k ≠ cx.rk → sfind t.runs k = sfind s.runs k
    (illegal f h cx s = true → Records 1) ∧
    (illegal f h cx s = false → (∃ e ∈ f.ops, roleOk cx.run e.2 e.1 = false) → Records 2) ∧
    (illegal f h cx s = false → (∀ e ∈ f.ops, roleOk cx.run e.2 e.1 = true) → (∃ e ∈ f.ops, cx.g.vregs < vTop e.2 e.1) →
      Records 3) ∧
    (checkForm f h cx s = none → acqHeld cx = false → hazard f cx = true → Records 10) ∧
    (checkForm f h cx s = none → acqHeld cx = false → hazard f cx = false → h.f.toNat < 12 → 63 ≤ flagCount cx.g h.f.toNat →
      ∃ t, issue f h eff s = .next t ∧ { t with runs := s.runs } = s ∧
        sfind t.runs cx.rk = some { cx.run with stalled := true }) ∧
    (∀ (u : State) (r : Run) (e : ExcRec) code taddr, sfind u.runs cx.rk = some r → r.exc = some e →
      sfind (raiseExc cx code taddr u).runs cx.rk = some r)

/-- R236, R237, R239: an exception that is taken with traps unmasked and TVEC not 0 enters the handler: TCAUSE, TMASK, TEPC
and TADDR are written, INH and MASKED set, the other lanes of state 0 become inactive, and the trapping lanes stand at TVEC
in state 0 with ageing counters of 0; every register of the group, and everything outside it, stays. R237, R240: an exception
while traps are masked, or with TVEC 0, kills the context with cause 9 and the return address in the event's virtual-address
field; in the firmware slot it is device-fatal with cause 2. The place and address that a kill names and the cause of a
failure in the firmware slot are DEDUCED (log 39, log 45). -/
def Obligations.ExceptionsEnterOrKill : Prop :=
  (∀ (s : State) (gk code idx flag taddr : Nat) (insn : Bool) (m : Mask) (pc : Pc) (g : Group), sfind s.groups gk = some g →
    g.trap.masked = false → g.trap.tvec1.toNat * 2 ^ 32 + g.trap.tvec0.toNat ≠ 0 → g.trap.tvec1.toNat < 2 ^ 25 →
    code < 256 → idx < 16 → flag < 16 →
    ∃ t g', takeException gk (causeWord code idx flag insn) m pc taddr s = t ∧ sfind t.groups gk = some g' ∧
      (let c := code + 2 ^ 8 * idx + 2 ^ 12 * flag + (if insn then 2 ^ 16 else 0)
       let a := BitVec.ofNat 64 taddr
       g'.trap = { g.trap with tcause := BitVec.ofNat 32 c, tmask := m, tepc := pc, taddr := a, inh := true, masked := true }) ∧
      (∀ l, l < g.lanes.length → laneOf g' l =
        let v : Pc := ⟨BitVec.ofNat 57 (g.trap.tvec1.toNat * 2 ^ 32 + g.trap.tvec0.toNat), 0⟩
        if m.getLsbD l then { laneOf g l with st := .unblocked, age := 0, fpark := 0, pc := v }
        else if (laneOf g l).st = .unblocked ∧ l < 32 then { laneOf g l with st := .inactive } else laneOf g l) ∧
      { g' with trap := g.trap, lanes := g.lanes } = g ∧
      (∀ k, k ≠ gk → sfind t.groups k = sfind s.groups k) ∧ { t with groups := s.groups } = s) ∧
  (∀ (s : State) (gk taddr : Nat) (cause : W32) (m : Mask) (pc : Pc) (g : Group) (w : Wg), sfind s.groups gk = some g →
    sfind s.wgs (wgOf gk g) = some w → (g.trap.masked = true ∨ (g.trap.tvec0 = 0 ∧ g.trap.tvec1 = 0)) →
    (w.firmware = false →
      takeException gk cause m pc taddr s = killContext w.asid 9 (keyCore gk) pc.addr.toNat 0 s) ∧
    (w.firmware = true → takeException gk cause m pc taddr s = deviceFatal 2 0 s) ∧
    (∀ c, w.firmware = false → ctxOf s w.asid = some c → c.killed = false →
      (takeException gk cause m pc taddr s).boot.killCount = min (s.boot.killCount + 1) 0xFFFF))

/-- R241: the return of a handler. INH and MASKED clear and the staged value is dropped; the trapping lanes that have not
exited stand at TEPC in state 0; inactive lanes return to state 0 where they are; a lane that was rewritten, or has arrived
at a set it no longer belongs to, leaves the set and runs; then every set is evaluated. -/
def Obligations.HandlersReturn : Prop :=
  ∀ (g : Group),
    let back (l : Nat) : Bool := (laneOf g l).rewritten ||
      (match arrivedAt g l with | some n => !(g.members.getD n 0).getLsbD l | none => false)
    let leaves (l : Nat) : Bool := decide (l < 32) && back l && ((laneOf g l).st == .parked || (laneOf g l).st == .faultParked)
    let g' : Group := { g with
      arrivals := g.arrivals.map fun a => a &&& ~~~(maskOf leaves),
      lanes := g.lanes.mapIdx fun l x =>
        let y := if g.trap.tmask.getLsbD l && x.st != .exited then
            { x with st := .unblocked, pc := g.trap.tepc, fpark := if leaves l then 0 else x.fpark }
          else if leaves l then { x with st := .unblocked, fpark := 0 }
          else if decide (l < 32) && x.st == .inactive then { x with st := .unblocked }
          else x
        { y with rewritten := false },
      trap := { g.trap with inh := false, masked := false, staged := none } }
    handlerReturn g = evalSets g'

/-- R218: a write of a run lands four slots after it issued; one issued fewer slots back is still pending, and the registers
read as before it. R217, R218, R236: at the end of a run that was not moved and recorded nothing, every pending register
write has landed, its lanes stand at the word after it, the run is gone, and nothing else of the group has changed. -/
def Obligations.RunsLandTheirWrites : Prop :=
  (∀ (s : State) (rk gk wk reg lane c : Nat) (x : W32) (r : Run) (g : Group), lane < 32 →
    sfind s.runs rk = some r → sfind s.groups gk = some g → r.pend = [(c, .v reg lane x)] →
    ∃ r' g', sfind (landDue rk gk wk s).runs rk = some r' ∧ sfind (landDue rk gk wk s).groups gk = some g' ∧
      (c + 4 ≤ r.cycle → r' = { r with pend := [] } ∧ vreg g' reg lane = x ∧
        ∀ k l, l < 32 → (k, l) ≠ (reg, lane) → vreg g' k l = vreg g k l) ∧
      (r.cycle < c + 4 → r' = r ∧ g' = g)) ∧
  (∀ (s : State) (rk gk wk : Nat) (r : Run) (g : Group), sfind s.runs rk = some r → sfind s.groups gk = some g →
    r.ends = .after → r.trapped = none → r.exc = none → g.ops ≠ [] →
    (∀ e ∈ r.pend, ∃ n l x, e.2 = .v n l x ∨ e.2 = .s n x ∨ ∃ m : Mask, e.2 = .p n m x) →
    sfind (endRun rk gk wk s).runs rk = none ∧
    sfind (endRun rk gk wk s).groups gk =
      some (onLanes (r.pend.foldl (fun g e => landGroup e.2 g) g) r.lanes fun x => { x with pc := afterPc r }) ∧
    (∀ k, k ≠ rk → sfind (endRun rk gk wk s).runs k = sfind s.runs k) ∧
    (∀ k, k ≠ gk → sfind (endRun rk gk wk s).groups k = sfind s.groups k) ∧
    { endRun rk gk wk s with runs := s.runs, groups := s.groups } = s)

/-! ### Events of the device -/

/-- R36, R38, R40, R41, R49, R52, R494: a cold or warm reset, and the loss of power, clear the volatile state (what the
memory of the device holds then is open, and nothing is said of it) and keep host memory, serial, ownership epoch, owner keys
and OWNED; a function reset in PHASE 5 or 6 ends work and queues, clears the feature lock and the apertures, and washes
memory, with PHASE 5; PERST#, the PCIe link and the answer to a configuration request as start goes on. R36, R37, R45, R49:
the steps of start. A seam that holds leads to PHASE 1, with a recorded release carried out first, one that fails to PHASE 7
with FAILCODE 5; images are authenticated in order and measured, the first that fails giving PHASE 7 with its FAILCODE, a
kind that is missing FAILCODE 6 (log 59); a pair of stacks that trains sets its bits, the eighth leads to PHASE 3, one that
fails to PHASE 7 with FAILCODE 4; a cluster that passes with a core sets its bit in CLUSTOK, any other stays fenced, the last
leads to PHASE 4; the sixth set of ports leads to PHASE 5, in which the authenticated agents load. What
each event's environment supplies is the model's own form (log 4); the fuses are the model's (log 7); the parts of start are
one event each (log 11). -/
def Obligations.ResetsAndStart : Prop :=
  (∀ (s : State),
    let Fresh (t : State) : Prop :=
      t.ctxs = [] ∧ t.queues = [] ∧ t.board = [] ∧ t.wgs = [] ∧ t.groups = [] ∧ t.runs = [] ∧ t.cores = [] ∧ t.clusters = [] ∧
      t.units = [] ∧ t.ports = [] ∧ t.mailbox = Mailbox.reset ∧ t.boot.phase = 0 ∧ t.boot.failcode = 0 ∧ t.boot.attLog = [] ∧
      t.boot.featlock = false ∧ t.boot.clustok = 0 ∧ t.boot.owned = s.boot.owned ∧ t.owner.nonce = List.replicate 32 0 ∧
      t.owner.serial = s.owner.serial ∧ t.owner.epoch = s.owner.epoch ∧ t.owner.keys = s.owner.keys ∧
      (∀ pa, 2 ^ 50 ≤ pa → memByte t pa = memByte s pa)
    let Washed (t : State) : Prop :=
      t.queues = [] ∧ t.board = [] ∧ t.boot.phase = 5 ∧ t.boot.wash = true ∧ t.boot.featlock = false ∧
      t.boot.apercfg = List.replicate 16 0 ∧
      (∀ pa, pa < 2 ^ 50 → memByte t pa =
        if t.boot.loaded = true ∧ t.boot.agentEntry ≤ pa ∧ pa < t.boot.agentEntry + t.boot.agentCode.length then
          t.boot.agentCode.getD (pa - t.boot.agentEntry) 0 else 0)
    (∃ t, exec .coldReset s = .next t ∧ Fresh t ∧ t.boot.power = true ∧ t.boot.perst = true) ∧
    (s.boot.power = true → ∃ t, exec .warmReset s = .next t ∧ Fresh t ∧ t.boot.power = true ∧ t.boot.perst = true) ∧
    (∃ t, exec .powerLoss s = .next t ∧ Fresh t ∧ t.boot.power = false) ∧
    ((∃ e ∈ s.sensors, 115 ≤ e.2) → ∃ t, exec .thermalShutdown s = .next t ∧ Fresh t ∧ t.boot.power = false) ∧
    ((∀ e ∈ s.sensors, e.2 < 115) → exec .thermalShutdown s = .next s) ∧
    (endpointUp s = true → releasing s = false →
      ∃ t, exec .warmResetRequest s = .next t ∧ Fresh t ∧ t.boot.perst = false ∧ t.boot.started = true) ∧
    (endpointUp s = true → releasing s = true →
      exec .warmResetRequest s = .next s ∧ exec .functionResetRequest s = .next s) ∧
    (s.boot.phase = 5 ∨ s.boot.phase = 6 → ∃ t, exec .functionLevelReset s = .next t ∧ Washed t) ∧
    (s.boot.phase = 5 ∨ s.boot.phase = 6 → endpointUp s = true → releasing s = false →
      ∃ t, exec .functionResetRequest s = .next t ∧ Washed t) ∧
    exec .functionResetWashEnd s = .next { s with boot := { s.boot with wash := false } } ∧
    (s.boot.power = true → s.boot.perst = true →
      exec .perstDeassert s = .next { s with boot := { s.boot with perst := false, started := true } }) ∧
    (s.boot.power = true → s.boot.perst = false →
      exec .pcieLinkTrained s = .next { s with boot := { s.boot with pcie := true } }) ∧
    (endpointUp s = true →
      let size := if s.boot.phase = 7 ∧ s.env.index ≠ 0 then 0
        else match s.env.index with | 0 => 2 ^ 26 | 2 => 2 ^ 40 | 4 => 2 ^ 24 | 6 => 2048 | _ => 0
      exec .configRequest s =
        .next { s with completion := some (if s.boot.phase < 5 then [1] else 0 :: leBytes 8 size) })) ∧
  (∀ (s : State), s.boot.power = true → s.boot.perst = false → s.boot.started = true →
    ∃ t, exec .startStepComplete s = .next t ∧
      (s.boot.phase = 0 → s.env.flag = true → t.boot.phase = 1 ∧
        (s.owner.released = true → t.owner.keys = [] ∧ t.boot.owned = false ∧ t.owner.released = false)) ∧
      (s.boot.phase = 0 → s.env.flag = false → t.boot.phase = 7 ∧ t.boot.failcode = 5) ∧
      (s.boot.phase = 1 → s.env.blobs = [] → t = { s with boot := { s.boot with phase := 7, failcode := 6 } }) ∧
      (∀ b bs c, s.boot.phase = 1 → s.env.blobs = b :: bs → imageFails s b = some c →
        t = { s with boot := { s.boot with phase := 7, failcode := c } }) ∧
      (s.boot.phase = 1 → (∀ b ∈ s.env.blobs, imageFails s b = none) →
        s.boot.attLog.length + s.env.blobs.length ≤ 64 →
        t.boot.attLog.map (fun e => e.digest) = s.boot.attLog.map (fun e => e.digest) ++ s.env.blobs.map sha512 ∧
        ((∀ k ∈ [1, 2, 3, 4], ∃ b ∈ s.env.blobs, bytesAt b 8 4 = k) → t.boot.phase = 2) ∧
        (∀ k ∈ [1, 2, 3, 4], (∀ b ∈ s.env.blobs, bytesAt b 8 4 ≠ k) → t.boot.phase = 7 ∧ t.boot.failcode = 6)) ∧
      (s.boot.phase = 2 → s.env.mask % 4 = 3 → s.boot.pairs < 8 →
        t.boot.hbmok = s.boot.hbmok ||| 3 * 2 ^ ([0, 8, 2, 10, 4, 12, 6, 14].getD s.boot.pairs 0) ∧
        t.boot.pairs = s.boot.pairs + 1 ∧ t.boot.phase = if s.boot.pairs = 7 then 3 else 2) ∧
      (s.boot.phase = 2 → s.env.mask % 4 ≠ 3 → t.boot.phase = 7 ∧ t.boot.failcode = 4) ∧
      (s.boot.phase = 3 → s.boot.clusters < 24 →
        let cl := s.boot.clusters / 2 + 12 * (s.boot.clusters % 2)
        t.boot.clusters = s.boot.clusters + 1 ∧ (t.boot.phase = if s.boot.clusters = 23 then 4 else 3) ∧
        t.boot.clustok =
          if s.env.flag = true ∧ s.env.mask % 65536 ≠ 0 then s.boot.clustok ||| 2 ^ cl else s.boot.clustok) ∧
      (s.boot.phase = 4 → t.boot.sets = s.boot.sets + 1 ∧ t.boot.phase = if s.boot.sets = 5 then 5 else 4) ∧
      (s.boot.phase = 5 → s.boot.loaded = true → t = s) ∧
      (s.boot.phase = 5 → s.boot.loaded = false →
        t.boot = { s.boot with loaded := true, agentEntry := s.env.addr } ∧
        (∀ a, memByte t a = if s.env.addr ≤ a ∧ a < s.env.addr + s.boot.agentCode.length then
          s.boot.agentCode.getD (a - s.env.addr) 0 else memByte s a) ∧
        (∀ core, core < 384 → coreLive s core = true → s.boot.agentCode ≠ [] →
          sfind t.groups (gkey core fwSlot) = some (newGroup fwSlot 0 0 (0, s.env.addr, 256)))))

/-- R48, R50, R46, R42: the ownership mailbox. A fetch draws a nonce; a submit that fails a check reports it, spends the
nonce and changes nothing else; one that passes records the release and raises the epoch, and is then carried out: owner keys
gone, OWNED clear, a warm reset; a reserved OP ends with STATUS 6; provisioning sets OWNED. A lock request in PHASE 5 with
acceptable features sets the lock and PHASE 6, any other is refused with FEAERR. The release is carried out by a second event
(log 11); the hash and signature functions are the published ones (log 36). -/
def Obligations.OwnershipAndFeatureLock : Prop :=
  ∀ (s : State),
    (s.owner.go = true → s.owner.op = 1 → s.env.bytes.length = 32 → exec .fetchNonce s =
      .next { s with owner := { s.owner with nonce := s.env.bytes, fetched := true, go := false, status := 0 } }) ∧
    (s.owner.go = true → s.owner.op = 2 → s.owner.released = false →
      (∀ c, releaseFails s = some c → ∃ t, exec .submitRelease s = .next t ∧
        t = { s with owner := { s.owner with nonce := List.replicate 32 0, fetched := false, go := false, status := c } }) ∧
      (releaseFails s = none → ∃ t, exec .submitRelease s = .next t ∧ t.owner.released = true ∧
        t.owner.epoch = s.owner.epoch + 1 ∧ t.owner.nonce = List.replicate 32 0)) ∧
    (s.owner.go = true → s.owner.op = 2 → s.owner.released = true →
      ∃ t, exec .submitRelease s = .next t ∧ t.owner.keys = [] ∧ t.boot.owned = false ∧ t.boot.phase = 0 ∧
        t.owner.epoch = s.owner.epoch ∧ t.ctxs = [] ∧ t.clusters = [] ∧ t.boot.perst = false) ∧
    (s.boot.owned = false → ∀ c, releaseFails s = some c → c = 4) ∧
    (s.boot.owned = true → s.owner.fetched = false → releaseFails s = some 2) ∧
    (s.owner.go = true → s.owner.op ≠ 1 → s.owner.op ≠ 2 → exec .ownershipReservedOp s =
      .next { s with owner := { s.owner with go := false, status := 6 } }) ∧
    (s.boot.power = true → s.boot.owned = false → s.env.blobs ≠ [] → ∃ t, exec .ownerKeyProvisioning s = .next t ∧
      t.boot.owned = true ∧ t.owner.keys.length = min 4 s.env.blobs.length) ∧
    (endpointUp s = true → s.boot.phase = 5 → s.boot.featlock = false →
      (lockOk s = true → featureOn s 7 = true → exec .featureLock s =
        .next { s with boot := { s.boot with featlock := true, feaerr := false, phase := 6 } }) ∧
      (lockOk s = false → exec .featureLock s = .next { s with boot := { s.boot with feaerr := true } }))

/-- R6, R14, R25, R54, R90, R151, R152, R495: writes of the host's registers in PHASE 5 and 6. Writable fields take the bits
written, reserved and read-only fields ignore them, a clear bit clears its count, an offset with no register ignores the
write; a request register is frozen while its GO is 1. R15, R16, R139: the apertures. A disabled aperture, or one of an ASID
with no live context, reads all ones and drops writes; a live one reads the bytes that its translation leads to and writes
them; an access whose translation faults, or whose range is held, reads all ones or is dropped, and an event is posted; one to a
peer whose port is in recovery or has a full window waits, one that no live port leads to fails (R27).
Writes of parts of a register and the ASID in an aperture's event are the model's reading (log 35, log 48). -/
def Obligations.RegistersAndAperturesAct : Prop :=
  (∀ (s : State), endpointUp s = true → s.boot.phase = 5 ∨ s.boot.phase = 6 →
    (∀ i, s.env.addr = 0x40000 + 8 * i → i < 8 → s.env.bytes.length = 8 → s.mailbox.req.length = 8 →
      (s.mailbox.go = true → exec .registerWrite s = .next s) ∧
      (s.mailbox.go = false →
        let r := setAt s.mailbox.req i (BitVec.ofNat 64 (ofLeBytes s.env.bytes))
        exec .registerWrite s = .next { s with mailbox := { s.mailbox with req := r } })) ∧
    (s.env.addr = 0x40040 → s.env.bytes.length = 4 → s.mailbox.go = false → s.mailbox.op < 256 →
      (ofLeBytes s.env.bytes).testBit 31 = true →
      ∃ t, exec .registerWrite s = .next t ∧ t.mailbox.go = true ∧ t.mailbox.op = ofLeBytes s.env.bytes % 256 ∧
        t.mailbox.copy = s.mailbox.req ∧ t.mailbox.outcome = none ∧ { t with mailbox := s.mailbox } = s) ∧
    (∀ n, s.env.addr = 0x110 + 4 * n → n < 4 → s.env.bytes.length = 4 → s.featacc.length = 4 → s.boot.featlock = false →
      exec .registerWrite s =
        .next { s with featacc := setAt s.featacc n (BitVec.ofNat 32 (ofLeBytes s.env.bytes)) }) ∧
    (s.env.bytes.length = 4 → s.env.addr ∈ [0x0, 0x4, 0xC, 0x124, 0x30010, 0x40048, 0x60000] →
      exec .registerWrite s = .next s) ∧
    (∀ n, s.env.index = n → n < 16 → s.boot.apercfg.length = 16 → s.env.value < 2 ^ 64 →
      let x : W64 := BitVec.ofNat 64 (s.env.value % 2 ^ 57 + s.env.value / 2 ^ 63 * 2 ^ 63)
      exec .apercfgWrite s = .next { s with boot := { s.boot with apercfg := setAt s.boot.apercfg n x } }) ∧
    (s.env.value < 2 ^ 64 → s.evring.cons < 2 ^ 64 →
      exec .eventConsumerWrite s = .next { s with evring := { s.evring with cons := s.env.value } }) ∧
    exec .eventLostClear s = .next { s with evring := { s.evring with ovf := false, lost := 0 } } ∧
    exec .ceCountClear s = .next { s with boot := { s.boot with ceCount := 0 } } ∧
    (s.env.value < 2 ^ 32 → s.irons = [] → s.boot.ironPeriod < 1024 → 
      let b := { s.boot with ironEn := s.env.value.testBit 31, ironPeriod := s.env.value % 1024 }
      exec .ironctlWrite s = .next { s with boot := b })) ∧
  (∀ (s : State), endpointUp s = true → s.boot.phase = 5 ∨ s.boot.phase = 6 → s.env.index < 16 →
    let c := (s.boot.apercfg.getD s.env.index 0).toNat
    let asid := c % 2 ^ 16
    let va := (c % 2 ^ 57 / 2 ^ 16 * 2 ^ 16 + s.env.addr) % 2 ^ 57
    let n := s.env.size
    let ones := some (0 :: List.replicate n 0xFF)
    (c.testBit 63 = false ∨ liveCtx s asid = false →
      exec .hostApertureRead s = .next { s with completion := ones } ∧ exec .hostApertureWrite s = .next s) ∧
    (c.testBit 63 = true → liveCtx s asid = true → 0 < n → va % 128 + n ≤ 128 →
      (∀ l t, hostLeaf asid va .read s = (.leaf l, t) →
        let d := ctrlReadLine t l.ck (leafPa l va)
        let bad := d.2 &&& sectorsTouched (byteMask (leafPa l va % 128) n) != 0
        exec .hostApertureRead s =
          .next { t with completion := some ((if bad then 2 else 0) :: (d.1.drop (leafPa l va % 128)).take n) }) ∧
      (∀ t, hostLeaf asid va .read s = (.fault, t) → exec .hostApertureRead s =
        .next { aperFault (s.env.index + 32 * s.env.addr) 0 asid va t with completion := ones }) ∧
      (∀ t, hostLeaf asid va .read s = (.wait, t) → exec .hostApertureRead s =
        .next { t with completion := none, hostReads := t.hostReads ++ [s.env] }) ∧
      (∀ t, hostLeaf asid va .read s = (.lost, t) → exec .hostApertureRead s = .next { t with completion := ones })) ∧
    (c.testBit 63 = true → liveCtx s asid = true → (heldBy s asid va).isSome = true → 0 < n → va % 128 + n ≤ 128 →
      exec .hostApertureRead s =
        .next { aperFault (s.env.index + 32 * s.env.addr) 0 asid va s with completion := ones }) ∧
    (c.testBit 63 = true → liveCtx s asid = true → s.retries = [] → frozen s asid va = false →
      s.env.bytes ≠ [] → va % 128 + s.env.bytes.length ≤ 128 → frozen s asid (va + s.env.bytes.length - 1) = false →
      (∀ l t, hostLeaf asid va .write s = (.leaf l, t) → exec .hostApertureWrite s =
        .next (noteWrite (leafPa l va) s.env.bytes.length (ctrlWrite t l.ck (leafPa l va) s.env.bytes))) ∧
      (∀ t, hostLeaf asid va .write s = (.fault, t) → exec .hostApertureWrite s =
        .next (aperFault (s.env.index + 32 * s.env.addr) 1 asid va t)) ∧
      (∀ t, hostLeaf asid va .write s = (.wait, t) → exec .hostApertureWrite s =
        .next { t with retries := t.retries ++ [(s.env.index + 32 * s.env.addr, asid, va, s.env.bytes)] }) ∧
      (∀ t, hostLeaf asid va .write s = (.lost, t) → exec .hostApertureWrite s = .next t))) ∧
  (∀ (s : State) (asid va : Nat) (a : Access) (l : Leaf) (t : State), heldBy s asid va = none →
    translate s asid va a = (.ok l, t) →
    (hostLeaf asid va a s).1 = match reach t (leafPa l va) with
      | .ready => .leaf l
      | .linkDown _ => .lost
      | _ => .wait)

/-- R12, R18 to R22, R24 to R26: what a port does. A flit that fails its CRC or its length, one after a gap, and one whose
queue is full, is answered with a NAK that names the first sequence not accepted; a reserved field also counts as a protocol
error; a flit at the expected sequence is taken, and every 64th acknowledged. An acknowledgement inside the window takes the
flits up to its sequence out of it, one outside changes nothing. A NAK inside the window asks for a resend from its sequence,
one outside is counted, as is one that names a sequence after the one whose resend is due; the timer acknowledges again; a
resend counts, and after 16 of one sequence the port enters recovery, and on the seam the requester's context is killed; a
port that cannot go on at its width enters recovery; recovery ends up, or with the port failed; LINKCTLn starts training,
takes the port down, or clears the counts. R30, R31, R89: a checkpoint stream's start answers STATUS 8 without feature 7, 5
for a malformed word, 4 while one runs, and otherwise begins the stream; an abort answers once no flit is left to send; the
end posts the event with result and count. The readings of log 32 hold here. -/
def Obligations.PortsAndCheckpointStreamsAct : Prop :=
  (∀ (s : State), s.env.port < 18 →
    let n := s.env.port
    let p := portOf s n
    let With (t : State) (q : Port) : Prop := portOf t n = q ∧ (∀ k, k ≠ n → portOf t k = portOf s k) ∧ { t with ports := s.ports } = s
    let h := bytesAt s.env.bytes 0 8
    let reserved := 6 ≤ field h 36 4 ∨ field h 32 2 ≠ 0 ∨ field h 0 16 ≠ 0
    let last := (p.rxSeq + 4095) % 4096
    let send (bs : List Byte) (q : Port) : Port := { q with wire := q.wire ++ [bs], sinceAck := 0, ackedRx := (q.rxSeq + 4095) % 4096 }
    let naked (q : Port) : Port :=
      { send (flitForm q.rxSeq last 4 3 q.peerid []) q with discarding := true, nakRx := some q.rxSeq }
    let idle (q : Port) : Port := send (flitForm 0 ((q.rxSeq + 4095) % 4096) 0 3 q.peerid []) q
    let place (x : Nat) := firstBelow p.window.length fun j => (p.window[j]?.map fun f => f.seq) == some x
    let ack := field h 40 12
    let pure := flitSound s.env.bytes = true ∧ ¬ reserved ∧ field h 16 6 ≤ 30
    (p.state = 2 →
      (flitSound s.env.bytes = false → ∃ t, exec .flitReceive s = .next t ∧ With t (naked { p with crcBad := true })) ∧
      (flitSound s.env.bytes = true → reserved → ∃ t, exec .flitReceive s = .next t ∧
        With t (naked { p with proterr := min (p.proterr + 1) 0xFFFF })) ∧
      (flitSound s.env.bytes = true → ¬ reserved → 30 < field h 16 6 →
        ∃ t, exec .flitReceive s = .next t ∧ With t (naked p)) ∧
      (pure → place ack = none → field h 36 4 ∈ [0, 4] → exec .flitReceive s = .next s) ∧
      (pure → ∀ k, place ack = some k →
        let acked := resumePeers (fillWindow n 1024 ((p.window.take (k + 1)).foldl (fun t f => landFlit f t)
          (modPort n (fun _ => { p with window := p.window.drop (k + 1), consec := 0 }) s)))
        (field h 36 4 ∈ [0, 4] → exec .flitReceive s = .next acked) ∧
        (field h 36 4 ∈ [0, 4] → s.ckpt.busy = false → s.ckpt.parts = [] → p.outq = [] → s.parked = [] → s.wgs = [] →
          s.sw = [] → s.retries = [] → s.hostReads = [] →
          ∃ t, exec .flitReceive s = .next t ∧ With t { p with window := p.window.drop (k + 1), consec := 0 }) ∧
        (field h 36 4 ∈ [1, 2, 3, 5] → field h 52 12 = (portOf acked n).rxSeq → s.env.flag = true →
          exec .flitReceive s = .next (modPort n naked acked)) ∧
        (field h 36 4 ∈ [1, 2, 3, 5] → (portOf acked n).discarding = true → field h 52 12 ≠ (portOf acked n).rxSeq →
          exec .flitReceive s = .next acked)) ∧
      (pure → place ack = none → field h 36 4 ∈ [1, 2, 3, 5] →
        let seq := field h 52 12
        let got : Port := { p with
          rxq := p.rxq ++ [⟨field h 36 4, field h 34 2, field h 22 10, (s.env.bytes.drop 8).take (8 * field h 16 6)⟩]
          rxSeq := (p.rxSeq + 1) % 4096, discarding := false, nakRx := none, crcBad := false, sinceAck := p.sinceAck + 1 }
        (seq = p.rxSeq → s.env.flag = true → ∃ t, exec .flitReceive s = .next t ∧ With t (naked p)) ∧
        (seq = p.rxSeq → s.env.flag = false → exec .flitReceive s =
          .next (modPort n (fun _ => if p.sinceAck < 63 then got else idle got)
            (if p.crcBad then countCorrected 1 s else s))) ∧
        (seq ≠ p.rxSeq → p.discarding = true ∨ 2048 ≤ (seq + 4096 - p.rxSeq) % 4096 → exec .flitReceive s = .next s) ∧
        (seq ≠ p.rxSeq → p.discarding = false → (seq + 4096 - p.rxSeq) % 4096 < 2048 →
          ∃ t, exec .flitReceive s = .next t ∧ With t (naked p))) ∧
      (∃ t, exec .nakReceive s = .next t ∧ With t (match place s.env.index, p.resend.bind place with
        | none, _ => { p with nakign := min (p.nakign + 1) 0xFFFF }
        | some _, none => { p with resend := some s.env.index }
        | some k, some j => if j < k then { p with nakign := min (p.nakign + 1) 0xFFFF }
          else { p with resend := some s.env.index })) ∧
      (∀ seq, let tries := if p.stuck = seq then p.consec else 0
        let q : Port := if 16 ≤ tries then { p with resend := none, state := 3 }
          else resendFrom seq { p with resend := none, replays := min (p.replays + 1) 0xFFFF, stuck := seq, consec := tries + 1 }
        (p.resend = some seq → ∃ t, exec .resendAfterBackoff s = .next t ∧ With t q) ∧
        (p.window.head?.map (fun f => f.seq) = some seq → ∃ t, exec .replayTimeout s = .next t ∧ With t q))) ∧
    (p.state = 2 → ∃ t, exec .ackTimer s = .next t ∧ With t (idle p)) ∧
    (p.state ≠ 2 → exec .ackTimer s = .next s) ∧
    (let m := s.env.mask % 256
     let half := m % 16 = 15 ∨ m / 16 = 15
     let part := m ≠ 255
     let upper := m ≠ 255 ∧ m % 16 ≠ 15
     let whole := if p.half = false then m = 255 else if p.upper = true then m / 16 = 15 else m % 16 = 15
     (p.state = 2 → whole → exec .laneLossOfLock s = .next s) ∧
     (p.state = 2 → ¬ whole → ∃ t, exec .laneLossOfLock s = .next t ∧ With t { p with state := 3 }) ∧
     (p.state = 1 → ¬ half → ∃ t, exec .laneLossOfLock s = .next t ∧ With t { p with state := 4 }) ∧
     (p.state = 1 → ¬ half → ∃ t, exec .linkTrainingComplete s = .next t ∧ With t { p with state := 4 }) ∧
     (p.state = 1 → half →
       let dev := s.env.value % 1024
       let up : Port := { Port.reset with
         state := 2, enable := true, backoff := p.backoff, half := decide part, upper := decide upper, peerid := dev }
       ∃ t u, exec .linkTrainingComplete s = .next t ∧ t = resumePeers u ∧ portOf u n = up ∧
         nsHas (sget [] u.routes dev) n = true) ∧
     (p.state = 3 → ¬ half → exec .portRecoveryComplete s = .next s) ∧
     (p.state = 3 → half →
       let q : Port := { p with half := decide part, upper := decide upper, state := 2, resend := none, consec := 0 }
       exec .portRecoveryComplete s = .next (resumePeers (fillWindow n 1024 (modPort n (fun _ =>
         match p.window with | f :: _ => resendFrom f.seq q | [] => q) s))))) ∧
    (p.state = 3 → exec .portRecoveryTimeout s = .next (losePort n 4 s)) ∧
    (s.boot.phase = 5 ∨ s.boot.phase = 6 →
      (s.env.value.testBit 31 = true → s.env.value.testBit 30 = false → p.state = 0 ∨ p.state = 4 →
        s.boot.featlock = false ∨ featureOn s 7 = true → ∃ t, exec .linkEnable s = .next t ∧
        With t { Port.reset with state := 1, enable := true, backoff := s.env.value % 2 ^ 16 }) ∧
      (s.env.value.testBit 31 = false → s.env.value.testBit 30 = false →
        (p.state = 0 → ∃ t, exec .linkDisable s = .next t ∧
          With t { p with enable := false, backoff := s.env.value % 2 ^ 16 }) ∧
        (p.state ≠ 0 → ∃ u, exec .linkDisable s = .next (losePort n 0 u) ∧
          With u { p with enable := false, backoff := s.env.value % 2 ^ 16 })) ∧
      (s.env.value.testBit 31 = true → s.env.value.testBit 30 = true → p.state = 2 →
        ∃ t, exec .linkCountersClear s = .next t ∧ With t { p with
          enable := true, backoff := s.env.value % 2 ^ 16, replays := 0, proterr := 0, nakign := 0 }))) ∧
  (∀ (s : State) (seq : Nat) (x : Flit) (r : FlitReq), s.env.port = 18 ∨ s.env.port = 19 →
    let n := s.env.port
    (portOf s n).resend = some seq → (portOf s n).stuck = seq → 16 ≤ (portOf s n).consec →
    ((portOf s n).window.find? fun f => f.seq == seq) = some x → x.req = some r →
    exec .resendAfterBackoff s = .next (killContext r.asid 7 r.core r.va r.pa (modPort n (fun p =>
      { p with window := p.window.filter fun f => f.seq != seq, resend := none, consec := 0 }) s))) ∧
  (∀ (s : State), asked s 0x0A = true → s.boot.phase = 6 → s.boot.wash = false →
    let w0 := (s.mailbox.copy.getD 0 0).toNat
    (w0.testBit 16 = false →
      let code := if featureOn s 7 = false then some 8 else if ckptBad s = true then some 5
        else if s.ckpt.busy = true then some 4 else none
      (∀ c, code = some c → ∃ t, exec .checkpointStreamStart s = .next t ∧ t.mailbox.outcome = some (c, 0) ∧
        { t with mailbox := s.mailbox } = s) ∧
      (code = none → ∃ t, exec .checkpointStreamStart s = .next t ∧ t.mailbox.outcome = some (0, 0) ∧ t.ckpt.busy = true ∧
        t.ckpt.fail = false ∧ t.ckpt.aborted = false ∧ t.ckpt.sent = 0 ∧ t.ckpt.devid = w0 % 1024)) ∧
    (w0.testBit 16 = true → featureOn s 7 = true → s.ckpt.busy = true → w0 % 2 ^ 16 < 1024 → w0 < 2 ^ 17 →
      ∃ t, exec .checkpointStreamAbort s = .next t ∧ t.ckpt.aborted = true ∧ t.ckpt.parts = [] ∧
        (flitsLeft s = false → t.mailbox.outcome = some (0, 0)) ∧ (flitsLeft s = true → t.mailbox = s.mailbox)) ∧
    (s.ckpt.busy = true → s.ckpt.aborted = false → s.ckpt.fail = false → s.ckpt.parts = [] → flitsLeft s = false →
      exec .checkpointStreamEnd s = .next (postEvent 0x05 0 (leBytes 2 s.ckpt.devid ++ leBytes 1 0 ++ leBytes 5 0 ++
        leBytes 8 s.ckpt.sent ++ leBytes 8 (s.refclk - s.ckpt.since)) { s with ckpt := { s.ckpt with busy := false } })))

/-- R55 to R64: requests that the mailbox serves in PHASE 6. A request that a check refuses is answered with the first code
that applies and changes nothing else; otherwise contexts, queues, signals and the event ring are made or go as asked, and
the completion writes STATUS and RESULT, clears GO and raises vector 0. R57, R172: the completion of a decided request,
counters written to REQ0 to REQ3 where the request asked for them. A poisoned page-table entry that a check's walk meets is
noted, to cost the context at the end of the step (R130). The readings of log 34 hold here; vectors are counted (log
38). -/
def Obligations.MailboxRequestsAct : Prop :=
  (∀ (s : State), s.mailbox.go = true → s.mailbox.outcome = none → s.boot.phase = 6 → s.boot.wash = false →
    let op := s.mailbox.op
    let w (i : Nat) := (s.mailbox.copy.getD i 0).toNat
    let a := w 0 % 2 ^ 16
    let answered (t : State) (status result : Nat) : State :=
      { t with mailbox := { t.mailbox with outcome := some (status, result) } }
    (op = 0x01 → s.boot.owned = true → 0 < a → a < 0xFFFF → (w 0).testBit 18 = false ∨ featureOn s 9 = true →
      (ctxBad s = true → exec .createContext s = .next (answered s 5 0)) ∧
      (ctxBad s = false → ∀ c, ctxOf s a = some c →
        exec .createContext s = .next (answered s (if c.killed = true then 6 else 2) 0)) ∧
      (ctxBad s = false → ctxOf s a = none → s.ctxs.length < 1024 → ∃ t, exec .createContext s = .next t ∧
        t.mailbox.outcome = some (0, s.ctxs.length + 1) ∧ { t with mailbox := s.mailbox, ctxs := s.ctxs } = s ∧
        (∀ b, b ≠ a → ctxOf t b = ctxOf s b) ∧ ∃ c, ctxOf t a = some c ∧ c.drain = w 0 / 2 ^ 32 ∧ c.root = w 1 ∧
          c.scring = w 2 ∧ c.sclog = w 3 % 32 ∧ c.wdog = w 3 / 2 ^ 32 ∧ c.scctl = w 4 ∧ c.resarr = w 5 ∧ c.slice = w 6 ∧
          c.scvec = w 7 ∧ c.rstok = (w 0).testBit 18 ∧ c.prioMax = w 0 / 2 ^ 16 % 4 ∧ c.killed = false)) ∧
    (op = 0x02 → 0 < w 0 → w 0 < 0xFFFF → (∀ i, 0 < i → i < 8 → w i = 0) →
      (ctxOf s a = none → exec .destroyContext s = .next (answered s 6 0)) ∧
      ((ctxOf s a).isSome = true → exec .destroyContext s = .next (answered (endContext a s) 0 0) ∧
        ctxOf (endContext a s) a = none ∧ ∀ e ∈ (endContext a s).queues, e.2.asid ≠ a)) ∧
    (op = 0x03 → 0 < w 0 / 2 ^ 32 % 2 ^ 16 → w 0 / 2 ^ 32 % 2 ^ 16 < 0xFFFF → queueBad s = false →
      liveCtx s (w 0 / 2 ^ 32 % 2 ^ 16) = true →
      let qn := w 0 % 4096
      let v := noteWalks (w 0 / 2 ^ 32 % 2 ^ 16) (w 2 :: (List.range ((64 * 2 ^ (w 0 / 2 ^ 48 % 32) + 65535) / 65536)).map
        fun k => w 1 + 65536 * k) s
      ((sfind s.queues qn).isSome = true → exec .createQueue s = .next (answered v 7 0)) ∧
      (sfind s.queues qn = none → ∀ u,
        agentWrite (queueWho v qn (newQueue v qn) 0) (newQueue v qn).asid (w 2) (List.replicate 128 0) v = (.ok, u) →
        ∃ t, exec .createQueue s = .next t ∧ t = answered { u with queues := sset u.queues qn (newQueue v qn) } 0 0 ∧
          ∃ q, sfind t.queues qn = some q ∧ q.ring = w 1 ∧ q.qctl = w 2 ∧ q.qvec = w 3 ∧ q.ridx = 0 ∧ q.qstate = 0)) ∧
    (op = 0x04 → w 0 % 2 ^ 63 < 4096 → (∀ i, 0 < i → i < 8 → w i = 0) → liveQueue s (w 0 % 4096) = true →
      (∀ q, sfind s.queues (w 0 % 4096) = some q →
        let v : State := { s with troubles := (lookupLeaf s q.asid q.qctl).2.troubles }
        ((w 0).testBit 63 = true → exec .destroyQueue s = .next (answered (removeQueue (w 0 % 4096) s) 0 0)) ∧
        ((w 0).testBit 63 = false → exec .destroyQueue s =
          .next (if unread s (w 0 % 4096) = true then answered v 10 0 else answered (removeQueue (w 0 % 4096) v) 0 0))) ∧
      ((w 0).testBit 63 = true ∨ unread s (w 0 % 4096) = false →
        (∀ q, sfind s.queues (w 0 % 4096) = some q → q.out = [] → sfind (removeQueue (w 0 % 4096) s).queues (w 0 % 4096) = none))) ∧
    (op = 0x08 → w 0 < 4096 → (∀ i, 0 < i → i < 8 → w i = 0) → liveQueue s (w 0) = true → qctlMapped s (w 0) = true →
      ∀ q u x, sfind s.queues (w 0) = some q → agentNat (queueWho s (w 0) q 0) q.asid q.qctl 8 s = (.ok, u, x) →
        exec .resetQueue s = .next (answered (clearQueue (w 0) x u) 0 0)) ∧
    (op = 0x05 → 0 < a → a < 0xFFFF → w 0 < 2 ^ 17 → w 1 < 2 ^ 57 → w 1 % 8 = 0 → (∀ i, 1 < i → i < 8 → w i = 0) →
      (w 0).testBit 16 = false ∨ featureOn s 8 = true → ∀ c, ctxOf s a = some c → c.killed = false → inHbm s a (w 1) = true →
      (c.signals.any (fun g => g.1 == w 1) = true → exec .registerSignal s = .next (answered s 4 0)) ∧
      (c.signals.any (fun g => g.1 == w 1) = false → c.signals.length < 8192 → ∃ t, exec .registerSignal s = .next t ∧
        t.mailbox.outcome = some (0, 0) ∧ { t with mailbox := s.mailbox, ctxs := s.ctxs } = s ∧
        ctxOf t a = some { c with signals := c.signals ++ [(w 1, (w 0).testBit 16)] } ∧ ∀ b, b ≠ a → ctxOf t b = ctxOf s b)) ∧
    (op = 0x06 → 0 < w 0 → w 0 < 0xFFFF → w 1 < 2 ^ 57 → w 1 % 8 = 0 → (∀ i, 1 < i → i < 8 → w i = 0) →
      ∀ c, ctxOf s a = some c → c.killed = false → c.signals.any (fun g => g.1 == w 1) = true →
        ∃ t, exec .unregisterSignal s = .next t ∧ t.mailbox.outcome = some (0, 0) ∧
          ctxOf t a = some { c with signals := c.signals.filter fun g => g.1 != w 1 } ∧ ∀ b, b ≠ a → ctxOf t b = ctxOf s b) ∧
    (op = 0x07 → 6 ≤ w 0 → w 0 ≤ 16 → w 1 % (64 * 2 ^ w 0) = 0 → w 1 % 4096 = 0 → w 1 + 64 * 2 ^ w 0 ≤ 2 ^ 50 → w 2 < 2048 →
      (∀ i, 2 < i → i < 8 → w i = 0) → ∃ t, exec .setEventRing s = .next t ∧ t.mailbox.outcome = some (0, 0) ∧
        t.evring.set = true ∧ t.evring.log = w 0 ∧ t.evring.base = 2 ^ 50 + w 1 ∧ t.evring.vec = w 2 ∧ t.evring.prod = 0 ∧
        t.evring.cons = 0 ∧ { t with mailbox := s.mailbox, evring := s.evring } = s) ∧
    (op = 0x09 → w 4 + 131072 ≤ 2 ^ 50 → (∀ i, 4 < i → i < 8 → w i = 0) → exec .readAttestationQuote s = .next
      (answered (ctrlWrite s 0 (2 ^ 50 + w 4) (quoteOf s ((List.range 4).flatMap fun i => leBytes 8 (w i)))) 0 0)) ∧
    (op = 0x15 → 0 < w 0 → w 0 < 0xFFFF → (∀ i, 0 < i → i < 8 → w i = 0) → liveCtx s a = true →
      exec .readCounters s = .next (answered s 0 0)) ∧
    (op = 0 ∨ (0x0B ≤ op ∧ op ≤ 0x0F) ∨ 0x16 ≤ op → exec .mailboxReservedOp s = .next (answered s 1 0))) ∧
  (∀ (s : State) (asid va : Nat) (c : Ctx), ctxOf s asid = some c →
    (∀ l, (walk s asid va 4 c.root []).1 = .ok l → noteWalks asid [va] s = s) ∧
    (∀ x, (walk s asid va 4 c.root []).1 = .error x →
      noteWalks asid [va] s = if x.kind = 0 then addTrouble (.badWalk asid va x.entry) s else s)) ∧
  (∀ (s : State) (status result : Nat), s.mailbox.go = true → s.mailbox.outcome = some (status, result) →
    ∃ t, exec .mailboxRequestComplete s = .next t ∧ t.mailbox.go = false ∧ t.mailbox.status = status ∧
      t.mailbox.result = result % 2 ^ 16 ∧ t.mailbox.outcome = none ∧ sget 0 t.msix 0 = sget 0 s.msix 0 + 1 ∧
      t.msixPend = (if vectorMasked s 0 = true then nsAdd s.msixPend 0 else s.msixPend) ∧
      { t with mailbox := s.mailbox, msix := s.msix, msixPend := s.msixPend } = s ∧
      (s.mailbox.op ≠ 0x15 ∨ status ≠ 0 → t.mailbox.req = s.mailbox.req) ∧
      (∀ c, s.mailbox.op = 0x15 → status = 0 → ctxOf s ((s.mailbox.copy.getD 0 0).toNat % 2 ^ 16) = some c →
        t.mailbox.req.take 4 = [c.hintDrops, c.faults, c.sidecars, c.migrated].map (BitVec.ofNat 64)))

/-- R172 to R174, R178, R184: the range requests. A hold writes back and invalidates the range and joins the list; a release
frees what waited; an invalidation drops translations and lines; retry and fail act on the range's faults; a migration
freezes its page, copies it, cuts over and thaws, in four events, or is refused with STATUS 5, and is abandoned where its
context has been killed or no port leads to the peer it copies to. A migration's four parts are
four events (log 11), with the readings of log 29 and log 34. -/
def Obligations.RangesAndMigration : Prop :=
  ∀ (s : State), s.mailbox.go = true → s.mailbox.outcome = none → s.boot.phase = 6 → s.boot.wash = false →
    let op := s.mailbox.op
    let w (i : Nat) := (s.mailbox.copy.getD i 0).toNat
    let a := w 0 % 2 ^ 16
    let answered (t : State) (status : Nat) : State := { t with mailbox := { t.mailbox with outcome := some (status, 0) } }
    let ranged := 0 < a ∧ a < 0xFFFF ∧ w 1 < 2 ^ 57 ∧ w 2 < 2 ^ 57 ∧ w 1 % 65536 = 0 ∧ w 2 % 65536 = 0 ∧ w 2 ≠ 0 ∧
      (∀ i, 2 < i → i < 8 → w i = 0) ∧ liveCtx s a = true
    (ranged → w 0 < 2 ^ 16 →
      (op = 0x10 → 8 ≤ s.holds.length → exec .rangeHold s = .next (answered s 4)) ∧
      (op = 0x10 → s.holds.length < 8 → exec .rangeHold s = .next (answered (holdRange ⟨a, w 1, w 2⟩ s) 0)) ∧
      (op = 0x11 → ∀ k, firstBelow s.holds.length (fun k => s.holds[k]? == some ⟨a, w 1, w 2⟩) = some k →
        exec .rangeRelease s = .next (answered (releaseRange k s) 0)) ∧
      (op = 0x11 → (∀ h ∈ s.holds, h ≠ ⟨a, w 1, w 2⟩) → exec .rangeRelease s = .next (answered s 6)) ∧
      (op = 0x12 → exec .rangeInvalidate s = .next (answered (invalidateRange a (w 1) (w 2) s) 0))) ∧
    (ranged → w 0 < 2 ^ 17 → op = 0x14 →
      ((w 0).testBit 16 = false → exec .resolveFaultsRetry s = .next (answered (resolveRetry a (w 1) (w 2) s) 0)) ∧
      ((w 0).testBit 16 = true → exec .resolveFaultsFail s = .next (answered (resolveFail a (w 1) (w 2) s) 0))) ∧
    (op = 0x13 → s.migration = none → 0 < a → a < 0xFFFF → w 0 < 2 ^ 19 → w 1 < 2 ^ 57 → w 2 < 2 ^ 52 →
      (∀ i, 2 < i → i < 8 → w i = 0) → liveCtx s a = true → w 0 / 2 ^ 16 = 0 ∨ featureOn s 5 = true →
      targetOf (w 2) ≠ .peer ∨ featureOn s 7 = true →
      (∀ l, pageLeaf s a (w 1) = some l →
        let m : Migration := ⟨a, w 1, l.bits, w 2, w 0 / 2 ^ 16, 1, none, []⟩
        (migrateBad s a (w 1) (w 2) (w 0 / 2 ^ 16) l = true → exec .migratePage s = .next (answered (migrateEvent m 1 0 s) 5)) ∧
        (migrateBad s a (w 1) (w 2) (w 0 / 2 ^ 16) l = false → ∃ t, exec .migratePage s = .next t ∧ t = freeze m s)) ∧
      (pageLeaf s a (w 1) = none → exec .migratePage s = .next (answered (noteWalks a [w 1] s) 5))) ∧
    (∀ m l, op = 0x13 → s.migration = some m → liveCtx s m.asid = true → m.phase = 1 →
      pageLeaf s m.asid m.va = some l →
        (physReach s (pageBlocks m l) = .ready → exec .migratePage s = .next (setPhase 2 (copyPage m l s))) ∧
        (∀ h, physReach s (pageBlocks m l) = .held h → exec .migratePage s = .next s) ∧
        (∀ pa, physReach s (pageBlocks m l) = .linkDown pa →
          exec .migratePage s = .next (abandonMove m 6 (transferFails m.asid 0 m.va pa s)))) ∧
    (∀ m c u, op = 0x13 → s.migration = some m → liveCtx s m.asid = true → m.phase = 2 → ctxOf s m.asid = some c →
      cutOver m c.root s = some u → exec .migratePage s = .next (setPhase 3 u)) ∧
    (∀ m, op = 0x13 → s.migration = some m → liveCtx s m.asid = false →
      exec .migratePage s = .next (abandonMove m 6 s)) ∧
    (∀ m, op = 0x13 → s.migration = some m → liveCtx s m.asid = true → m.phase = 3 →
      exec .migratePage s = .next (answered (thaw m s) 0))

/-- R65 to R68, R74 to R80, R91, R92: packets. A slotted queue's agent reads the head packet once WIDX covers it; WIDX out of
range, a slot that faults and a packet that breaks a rule put the queue in error. A launch posts its record, a copy enters a
copy engine, a wait-signal packet waits or acquires, a set-signal packet does its operation, a barrier-and packet waits for
its signals, a marker writes its time; each is then processed. A packet with BARRIER waits for all earlier ones; one whose
signal is no longer registered puts the queue in error with code 4 (R62). The order of
checks and the codes are DEDUCED (log 27), the core of a copy is the model's choice (log 47). -/
def Obligations.PacketsAreProcessed : Prop :=
  ∀ (s : State) (q : Queue),
    let qn := s.env.queue
    sfind s.queues qn = some q → q.slotted = true → queueLive s qn q = true →
    (q.head = none →
      (∀ w u, agentNat (queueWho s qn q 0) q.asid q.qctl 8 s = (.ok, u, w) →
        (w < q.ridx ∨ q.ridx + 2 ^ q.qlog < w → exec .packetPickup s = .next (queueError qn 1 0 u)) ∧
        (q.ridx < w → w ≤ q.ridx + 2 ^ q.qlog → ∀ v, v = modQueue u qn (fun q => { q with widx := w }) →
          ∀ q', sfind v.queues qn = some q' → ∀ bs x,
            (agentRead (queueWho v qn q' 0) q'.asid (q'.ring + 64 * (q'.ridx % 2 ^ q'.qlog)) 64 v = (.fault, x, bs) →
              exec .packetPickup s = .next (queueError qn 11 0 x)) ∧
            (agentRead (queueWho v qn q' 0) q'.asid (q'.ring + 64 * (q'.ridx % 2 ^ q'.qlog)) 64 v = (.ok, x, bs) →
              let ws := (List.range 8).map fun i => bytesAt bs (8 * i) 8
              (∀ code, pktCheck x q'.asid ws = some code →
                exec .packetPickup s = .next (queueError qn code (pktTag ws) x)) ∧
              (pktCheck x q'.asid ws = none → exec .packetPickup s =
                .next (modQueue x qn fun q => { q with head := some ⟨ws, false, 0, 0, false⟩ })))))) ∧
    (∀ h, q.head = some h →
      let w (i : Nat) := h.words.getD i 0
      let kind := w 0 / 2 ^ 56 % 256
      let tag := w 0 / 2 ^ 16 % 2 ^ 16
      let who := queueWho s qn q tag
      let ev : Option Instr := match kind with
        | 1 => some .launchPacket | 2 => some .copyPacket | 3 => some .waitSignalPacket | 4 => some .setSignalPacket
        | 5 => some .barrierAndPacket | 6 => some .markerPacket | _ => none
      let complete (u : State) : State := packetIrq qn ((w 0).testBit 54) (processed qn u)
      (h.waiting = true → ∀ i, ev = some i → exec .headWaitSatisfied s = exec i s) ∧
      (signalGone s q h = true → ∀ i, ev = some i → exec i s = .next (queueError qn 4 tag s)) ∧
      ((∀ va ∈ pktSignals h.words, isSignal s q.asid va = true) → signalGone s q h = false) ∧
      (signalGone s q h = false → (w 0).testBit 55 = true → q.out ≠ [] → ∀ i, ev = some i → exec i s = .next (beginWait qn s)) ∧
      (signalGone s q h = false → (w 0).testBit 55 = false ∨ q.out = [] →
        (kind = 1 → ∀ rn b u v, firstBelow 4096 (fun r => (sfind s.board r).isNone) = some rn →
          agentRead who q.asid (w 1) 256 s = (.ok, u, b) → descBad b = false →
          descRefused (descOf b) h.words (((ctxOf s q.asid).map fun c => c.drain).getD 0) = false →
          copyBanks who q.asid rn (bankAddrs (descOf b) (w 4)) u = (.ok, v) →
          ∃ x r, exec .launchPacket s = .next (processed qn x) ∧ sfind x.board rn = some r ∧ r.asid = q.asid ∧ r.queue = qn ∧
            r.tag = tag ∧ r.st = 1 ∧ r.ticket = 0 ∧ r.done = 0 ∧ r.posted = s.refclk ∧ r.csig = w 5 ∧ r.cval = w 6 ∧
            r.gx = w 2 % 2 ^ 32 ∧ r.gy = w 2 / 2 ^ 32 ∧ r.gz = w 3 ∧ r.desc = descOf b ∧
            (∀ k, k ≠ rn → sfind x.board k = sfind v.board k) ∧
            memBytes x (boardAddr rn) (recBytes r).length = recBytes r) ∧
        (kind = 2 → dmaRoom s 1 (copyCore s q.cluster s.env.core) = true →
          let core := copyCore s q.cluster s.env.core
          ∃ x e, exec .copyPacket s = .next (processed qn x) ∧ dmaOf x 1 core = dmaOf s 1 core ++ [e] ∧
            e.packet = some (qn, q.ridx) ∧ e.pos = 0 ∧ e.patch = [] ∧ e.cmd.asid = q.asid) ∧
        (kind = 3 → ∀ u,
          let cond : WaX := match w 0 / 2 ^ 51 % 8 with | 0 => .eq | 1 => .ne | 2 => .lt | _ => .ge
          (signalTest who q.asid (w 1) cond (w 2) s = (true, u) → exec .waitSignalPacket s = .next (complete u)) ∧
          (signalTest who q.asid (w 1) cond (w 2) s = (false, u) → exec .waitSignalPacket s = .next (beginWait qn u))) ∧
        (kind = 4 → ∀ u,
          signalOp who q.asid (w 1) (w 0 / 2 ^ 45 % 4) (w 2) [] s = (.ok, u) → exec .setSignalPacket s = .next (complete u)) ∧
        (kind = 5 → ∀ m u, observeDeps who q.asid (pktDeps h.words) h.observed s = (m, u) →
          let v := modQueue u qn fun q => { q with head := q.head.map fun h => { h with observed := m } }
          (m ≠ 31 → exec .barrierAndPacket s = .next (beginWait qn v)) ∧
          (∀ x, m = 31 → signalOp who q.asid (w 6) (w 0 / 2 ^ 45 % 4) (w 7) [] v = (.ok, x) →
            exec .barrierAndPacket s = .next (complete x))) ∧
        (kind = 6 →
          let mark (u : State) : State := modQueue u qn fun q => { q with markTag := tag }
          (w 1 = 0 → exec .markerPacket s = .next (complete (mark s))) ∧
          (w 1 ≠ 0 → ∀ u, agentWrite who q.asid (w 1) (leBytes 8 s.refclk) s = (.ok, u) →
            exec .markerPacket s = .next (complete (mark u))))))

/-- R69 to R74, R493: slots and waits. A scan puts a non-empty unslotted queue into the order, and slots are granted in order
while the cluster holds fewer than 31 and the device fewer than 128; a queue idle for 10 ms gives its slot up; a head that
waits longer than 1 ms is evicted, one that waits longer than the watchdog interval is reported once, a wait-signal packet
past its TIMEOUT is an error; the agent's retries write what was unwritten and take the queue up again. What one scan or
retry serves goes in the order of log 46. -/
def Obligations.QueueSlotsAndWaits : Prop :=
  ∀ (s : State),
    let qn := s.env.queue
    let cl := s.env.core
    (∀ k q w u, s.queues = [(k, q)] → q.cluster = cl → q.slotted = false → q.order = none → q.head = none →
      queueLive s k q = true → readWidx k s = (some w, u) → q.ridx < w → exec .queueScan s =
        .next (grantSlots cl 31 (modQueue u k fun q => { q with order := some (nextOrder u), moved := false }))) ∧
    (∀ n k u, slotsHeld u (fun q => q.cluster == cl) < 31 → slotsHeld u (fun _ => true) < 128 → firstInOrder u cl = some k →
      grantSlots cl (n + 1) u =
        grantSlots cl n (changeQueue k (fun q => { q with slotted := true, order := none, qstate := 1 }) u)) ∧
    (∀ n u, 31 ≤ slotsHeld u (fun q => q.cluster == cl) ∨ 128 ≤ slotsHeld u (fun _ => true) ∨ firstInOrder u cl = none →
      grantSlots cl n u = u) ∧
    (∀ q, sfind s.queues qn = some q → q.slotted = true →
      (q.head = none → q.widx ≤ q.ridx → 1000000 ≤ s.refclk - q.emptySince → exec .slotIdleRelease s =
        .next (changeQueue qn (fun q => { q with slotted := false, qstate := 0 }) s)) ∧
      (∀ h, q.head = some h →
        let held := (h.words.getD 0 0).testBit 55 = true ∧ q.out ≠ []
        let kind := (h.words.getD 0 0) / 2 ^ 56 % 256
        let deps := if kind = 5 then (pktDeps h.words).filter fun d => d.2 != 0 && !h.observed.testBit d.1 else []
        (h.waiting = false ∨ (¬ held ∧ kind ≠ 3 ∧ deps = []) → exec .queueEviction s = .next s ∧
          exec .suspectedWaitCycle s = .next s ∧ exec .waitSignalTimeout s = .next s) ∧
        (h.waiting = true → held ∨ kind = 3 ∨ deps ≠ [] →
        (100000 < s.refclk - h.since → exec .queueEviction s =
          .next (changeQueue qn (fun q => { q with slotted := false, qstate := 2 }) s)) ∧
        (∀ c, ctxOf s q.asid = some c → h.reported = false →
          100000 * (if c.wdog = 0 then 4000 else c.wdog) < s.refclk - h.since →
          ∃ sig, exec .suspectedWaitCycle s = .next (postEvent 0x02 q.asid
              (leBytes 2 qn ++ leBytes 6 0 ++ leBytes 8 sig ++ leBytes 8 h.since)
              (modQueue s qn fun q => { q with head := some { h with reported := true } })) ∧
            sig = (if held then 0 else if kind = 3 then h.words.getD 1 0 else ((deps.head?).map fun d => d.2).getD 0)) ∧
        (kind = 3 → 0 < h.words.getD 3 0 → 100 * h.words.getD 3 0 ≤ s.refclk - h.since →
          exec .waitSignalTimeout s = .next (queueError qn 10 ((h.words.getD 0 0) / 2 ^ 16 % 2 ^ 16) s))))) ∧
    (∃ t u, exec .agentAccessRetry s = .next t ∧
      u = ((s.queues.filter fun e => e.2.cluster == cl).map fun e => e.1).foldl retryQueue s ∧
      (u.board = [] → t = serveCalls (fun gk _ => clusterOf (keyCore gk) == cl) u)) ∧
    (∀ k q c, sfind s.queues k = some q → ctxOf s q.asid = some c → c.killed = false → q.out = [] → q.unwritten = false →
      q.slotted = true → (∀ e ∈ s.queues, e.1 = k → e.2 = q) →
      retryQueue s k = if q.head.isSome then processHead k s else pickUp k s)

/-- R81, R82, R98 to R101, R104 to R106: claims and release. An agent claims from the first record it can place: it reserves,
takes the ticket, names the workgroup by it and sets its slice; a ticket received past the last gives the reservation up; a
gang is reserved as a rectangle, one of 8 rows after its mirror has answered; a record with work left that fails for 1 ms
while it is first holds its agent; where a record goes while its hold is asked for, what was reserved is given up; a reserved
workgroup or gang is released as a whole. Where a reservation lies is the model's function (log 47). -/
def Obligations.ClaimsAndRelease : Prop :=
  ∀ (s : State) (rn : Nat) (r : LaunchRec),
    let core := s.env.core
    let named (u t : State) (k : Nat) : Prop := ∀ w, sfind u.wgs k = some w → ∃ w', sfind t.wgs k = some w' ∧
      w'.ticket = r.ticket ∧ w'.index = r.ticket * gangSize r + w.brow * gangCols r + w.bcol
    (scanOrder s = [(rn, r)] → heldRecord s core = none → savesOf s rn = [] → r.st = 1 →
      (gangSize r = 1 → coreLive s core = true → ∀ wk u, reserve core r.desc r.dynscr (wgId s rn r 0 0) s = some (wk, u) →
        sfind u.board rn = some r →
        (r.ticket < r.total → ∃ t, exec .workgroupClaim s = .next t ∧ named u t wk ∧
          sfind t.board rn = some { r with ticket := r.ticket + 1 }) ∧
        (r.total ≤ r.ticket → exec .workgroupClaim s =
          .next (notFirst core (some rn) (voidTicket rn (abandon [wk] (takeTicket rn u)))))) ∧
      (1 < gangSize r → leadCore s (clusterOf core) = some core → coreLive s core = true →
        ∀ o ks u, firstOrigin (clusterOf core) rn 0 r none s = some (o, ks, u) → sfind u.board rn = some r →
        (gangRows r ≤ 4 → r.ticket < r.total → ks.Nodup → ∃ t, exec .gangClaim s = .next t ∧ (∀ k ∈ ks, named u t k) ∧
          sfind t.board rn = some { r with ticket := r.ticket + 1 }) ∧
        (4 < gangRows r → clusterOf core < 4 → sfind s.claims (clusterOf core) = none → ∃ t, exec .gangClaim s = .next t ∧
          sfind t.claims (clusterOf core) = some ⟨rn, gangCols r, o.2, 0, none⟩))) ∧
    (∀ h, sfind s.claims core = some h → sfind s.board h.record = some r →
      (h.answer = 0 →
        (∀ ks u, reserveAt core h.record r h.entry true (0, h.col) s = some (ks, u) → exec .gangHoldRequest s =
          .next { u with claims := sset u.claims core { h with answer := 1 } }) ∧
        (reserveAt core h.record r h.entry true (0, h.col) s = none → exec .gangHoldRequest s =
          .next { s with claims := sset s.claims core { h with answer := 2 } })) ∧
      (h.answer = 1 → ∀ u, nameGang h.record h.entry (pendingMembers s core h.record)
          { s with claims := sdel s.claims core } = .placed u →
        exec .gangHoldAnswer s = .next (noteSuccess (agentCore u core) h.record u)) ∧
      (h.answer = 2 → exec .gangHoldAnswer s = .next (refused core h r s))) ∧
    (∀ h, sfind s.claims core = some h → sfind s.board h.record = none → exec .gangHoldAnswer s =
      .next { abandon (pendingMembers s core h.record) s with claims := sdel s.claims core }) ∧
    (∀ rest, scanOrder s = (rn, r) :: rest → sfind s.board rn = some r → savesOf s rn = [] → untaken r = false →
      exec .headOfLineHold s = .next s) ∧
    (∀ f t rest, scanOrder s = (rn, r) :: rest → sfind s.board rn = some r → savesOf s rn ≠ [] ∨ untaken r = true →
      failOf s core rn = some f → f.since = some t → 100000 ≤ s.refclk - t →
      ∃ u, exec .headOfLineHold s = .next u ∧ f.core = core ∧ f.record = rn ∧ failOf u core rn = some { f with hold := true } ∧
        { u with fails := s.fails } = s) ∧
    (let ks := releaseSet s (wkey core s.env.slot)
     ks ≠ [] → (∀ k ∈ ks, releasable s k = true) →
       exec .groupRelease s = .next (ks.foldl ironStop (ks.foldl (fun s k => releaseWg k s) s)))

/-- R83, R110 to R116, R121, R135, R149: slices, stops, drains, retirement. At a slice's end without contention, or without
room in the save pool (which is reported), the slice goes on; with both a stop is requested; the request's arrival stops the
gang, and the drain counts from it; a drained gang is saved; a workgroup whose groups and commands are done retires,
and the last of a launch completes it. R147 to R151: ironing. A turn that is due begins a pass of the next core, at most
twice put off for a gang; the pass starts once the core is empty; a pass that holds empties the table of provisional
workgroups, one that fails names every suspect and fences the core. The readings of log 28 hold here. -/
def Obligations.SlicesStopsAndIroning : Prop :=
  (∀ (s : State) (w : Wg),
    let core := s.env.core
    let wk := wkey core s.env.slot
    sfind s.wgs wk = some w → w.firmware = false →
    (w.released = true → w.stopping = false → drainFor s wk = none → w.sliceEnd ≤ s.refclk + 100 * w.drain →
      let iron := (ironOf s core).phase = 1
      (contended s core w = false → ¬ iron → exec .sliceContentionTest s = .next (nextSlice wk w s)) ∧
      (contended s core w = true ∨ iron → poolTakes s wk = true → ∃ t, exec .sliceContentionTest s = .next t ∧
        t.drains = s.drains ++ [⟨keyCore wk, keyNum wk, none, 100 * w.drain, decide iron⟩] ∧ { t with drains := s.drains } = s) ∧
      (contended s core w = true ∨ iron → poolTakes s wk = false →
        exec .sliceContentionTest s = .next (nextSlice wk w (poolFull wk w s)))) ∧
    (∀ c, gangOf s wk = [wk] → ctxOf s w.asid = some c → ∃ w', sfind (nextSlice wk w s).wgs wk = some w' ∧
      w' = { w with sliceEnd := w.sliceEnd + 100 * c.slice }) ∧
    (∀ d, drainFor s wk = some d → exec .stopRequest s = .next (markStop (gangOf s wk) { s with
      drains := s.drains.map fun x => if x = d then { x with since := some (d.since.getD s.refclk) } else x })) ∧
    (gangOf s wk = [wk] → mayRetire s wk = false →
      exec .drainComplete s = .next (completeDrain wk s)) ∧
    (gangOf s wk = [wk] → mayRetire s wk = true → wgBuffers s wk = false → w.sbuf = [] → w.sw = false → w.bonded = false →
      ∃ t u, exec .workgroupRetire s = .next t ∧ u = freeWg wk s ∧
        (∀ rr, sfind u.board w.record = some rr →
          t = addDone (keyCore wk) w.record (noteProv (keyCore wk) rr u)) ∧
        (sfind u.board w.record = none → t = u)) ∧
    (∀ u c rn rr, sfind u.board rn = some rr →
      (rr.done + 1 ≠ rr.total → addDone c rn u = modRec u rn fun x => { x with done := x.done + 1 }) ∧
      (rr.done + 1 = rr.total →
        addDone c rn u = completeLaunch c rn (modRec u rn fun x => { x with done := x.done + 1, st := 3 })))) ∧
  (∀ (s : State),
    (∀ core, turnCore s s.env.core (clusterSt s s.env.core).turn = some core → s.boot.ironEn = true →
      (clusterSt s s.env.core).turnAt ≤ s.refclk → ∃ u,
        u = modCluster s s.env.core (fun c =>
          { c with turn := (core % 16 + 1) % 16, turnAt := s.refclk + 6250 * max 10 s.boot.ironPeriod }) ∧
        (holdsGang s core = true → (ironOf s core).skips < 2 →
          exec .ironingTurn s = .next (modIron core (fun x => { x with skips := x.skips + 1 }) u)) ∧
        (holdsGang s core = false ∨ 2 ≤ (ironOf s core).skips →
          exec .ironingTurn s = .next (startIron core (stopLease core u)))) ∧
    ((ironOf s s.env.core).phase = 1 → wgsOn s s.env.core = [] → leaseOf s s.env.core = none →
      ∃ t, exec .ironingScanStart s = .next t ∧ ironOf t s.env.core = { ironOf s s.env.core with phase := 2 } ∧
        { t with irons := s.irons } = s) ∧
    ((ironOf s s.env.core).phase = 2 →
      (s.env.flag = true → s.boot.ironEn = true → s.irons.all (fun e => decide (e.2 ≠ IronSt.reset)) = true →
        ∃ t, exec .ironingScanComplete s = .next t ∧ { t with irons := s.irons } = s ∧
          ironOf t s.env.core = { ironOf s s.env.core with
            phase := 0, late := none, lastPass := s.refclk, table := (ironOf s s.env.core).waiting, waiting := [] }) ∧
      (s.env.flag = false →
        let x := ironOf s s.env.core
        exec .ironingScanComplete s = .next (clearTables (fenceCore s.env.core
          (postSuspects s.env.core s.env.value (x.table ++ x.waiting) x.lastPass
            (modIron s.env.core (fun _ => { IronSt.reset with lastPass := x.lastPass }) s)))))) ∧
    (∀ core, core < 384 → s.boot.coresok.length = 12 →
      ((fenceCore core s).boot.coresok.getD (core / 32) 0).testBit (core % 32) = false))

/-- R129 to R132, R136, R142, R145, R146: an uncorrectable error, by the structure it strikes. A sector of HBM or of a
scratchpad is poisoned; what can be fetched again is, and is counted; a register file, control state, a store buffer and the
parts of a matrix engine cost the workgroup or gang, with their causes; a page-table entry and a failed transfer cost the
context; a dirty sector or tag is lost; the firmware region is device-fatal outside the save pool. Poison that is consumed
rolls a restartable, uncommitted workgroup back, and kills the context of any other with cause 0. R125 to R128, R139, R143,
R144, R153, R164, R170: the end of a kill, of a frame's wash and of a slice's wash, the eviction of a line, the walk of an
address, and the hang of a group: each posts its event or leaves what its rule says. Addresses and causes follow log 39, log
25 and log 45. -/
def Obligations.ErrorsAreContained : Prop :=
  (∀ (s : State),
    let e := s.env
    let wk := wkey e.core e.slot
    let key := lineKey e.asid e.addr
    (∃ t, exec .uncorrectableError s = .next t ∧
      (e.kind = 0 → targetOf e.addr = .hbm → nsHas t.poison (e.addr / 32) = true ∧
        (∀ k, k ≠ e.addr / 32 → nsHas t.poison k = nsHas s.poison k) ∧ { t with poison := s.poison } = s) ∧
      (∀ ln, e.kind = 1 → e.flag = true → sfind (clusterSt s e.core).l2 key = some ln →
        t = markBad e.core e.asid e.addr (2 ^ (e.index % 4)) s) ∧
      (∀ ln, e.kind = 1 → e.flag = false → sfind (clusterSt s e.core).l2 key = some ln →
        t = if (sectorsTouched ln.dirty).testBit e.index then dirtyLost e.core e.asid e.addr (e.index % 4) s
          else countCorrected 1 (evictLine s e.core key)) ∧
      (∀ ln, e.kind = 2 → sfind (clusterSt s e.core).l2 key = some ln →
        t = if ln.dirty = 0 then countCorrected 1 (dropL2 s e.core key)
          else tagLost e.core key e.mask s) ∧
      (e.kind = 3 → t.boot.ceCount = min (s.boot.ceCount + 1) (2 ^ 31 - 1) ∧ sfind (coreSt t e.core).l1 key = none) ∧
      (e.kind = 4 → nsHas (coreSt t e.core).spPoison (e.addr / 32) = true ∧ t.mem = s.mem) ∧
      (∀ w cause, ((e.kind = 5 ∧ cause = 1) ∨ (e.kind = 6 ∧ cause = 0) ∨ (e.kind = 7 ∧ cause = 2)) → sfind s.wgs wk = some w →
        w.firmware = false →
        t = if w.restartable && !w.committed && decide (w.attempt < 2) then rollback wk cause 0 s
          else if w.restartable && !w.committed then killContext w.asid 1 (keyCore wk) 0 0 s
          else killContext w.asid 0 (keyCore wk) 0 0 s) ∧
      (e.kind = 8 → (leaseOf s e.core).isSome = true → t = consumeGang 3 e.core s) ∧
      (e.kind = 9 → t = countCorrected 1 (dropUnit (unitOf e.addr) e.asid e.addr s)) ∧
      (e.kind = 10 → t = killContext e.asid 4 e.core 0 e.addr s) ∧
      (e.kind = 11 → recordAt s e.addr = none → ¬ (poolBase ≤ e.addr ∧ e.addr < poolBase + poolSize) →
        t = deviceFatal 2 e.addr s) ∧
      (∀ k, e.kind = 12 + k → k < 3 → t = deviceFatal k e.addr s) ∧
      (e.kind = 15 → t = killContext e.asid 7 e.core 0 0 s)) ∧
    (∀ w, sfind s.wgs wk = some w → w.firmware = false → w.restartable = false → nsHas s.poison (e.value / 32) = true →
      exec .poisonConsumed s = .next (killContext w.asid 0 (keyCore wk) (e.addr / 32 * 32) (e.value / 32 * 32) s)) ∧
    (∀ w, sfind s.wgs wk = some w → w.firmware = false → w.restartable = true → w.committed = false → w.attempt < 2 →
      nsHas s.poison (e.value / 32) = true → exec .poisonConsumed s = .next (rollback wk 0 (e.addr / 32 * 32) s)) ∧
    (∀ cause pa, (deviceFatal cause pa s).boot.fatal = true ∧ (deviceFatal cause pa s).boot.phase = 7 ∧
      (deviceFatal cause pa s).boot.failcode = 0) ∧
    (∀ c pa, s.kills = [] → s.boot.fatals = [(c, pa)] →
      postFatals s = postEvent 0x1F 0 (leBytes 8 c ++ leBytes 8 pa) { s with boot := { s.boot with fatals := [] } }) ∧
    (s.kills ≠ [] → postFatals s = s)) ∧
  (∀ (s : State),
    let e := s.env
    let gk := gkey e.core e.slot
    let key := lineKey e.asid e.addr
    let f := e.index
    (∀ k, s.kills.find? (fun k => k.asid == e.asid) = some k → exec .killComplete s = .next
      (postFatals (postEvent 0x11 k.asid (leBytes 2 k.cause ++ leBytes 2 k.place ++ leBytes 4 0 ++ leBytes 8 k.va ++
        leBytes 8 k.pa ++ leBytes 4 k.frames) { s with kills := s.kills.filter fun x => x != k }))) ∧
    (∀ a, sfind s.quarantined f = some a → nsHas s.retired f = false →
      (e.flag = true → ∃ t u, exec .frameWashComplete s = .next t ∧ t = postEvent 0x13 a (leBytes 8 (f * 65536) ++ leBytes 8 0) u ∧
        sfind u.quarantined f = none ∧ (∀ k, k ≠ f → sfind u.quarantined k = sfind s.quarantined k) ∧
        (∀ pa, f * 65536 ≤ pa → pa < (f + 1) * 65536 → memByte u pa = 0) ∧
        (∀ pa, (pa < f * 65536 ∨ (f + 1) * 65536 ≤ pa) → memByte u pa = memByte s pa)) ∧
      (e.flag = false → ∃ u, nsHas u.retired f = true ∧ { u with retired := s.retired } = s ∧
        exec .frameWashComplete s = .next (postEvent 0x13 a (leBytes 8 (f * 65536) ++ leBytes 8 1) u))) ∧
    (nsHas (clusterSt s e.core).washing e.slot = true → ∃ t u, exec .l2SliceWashComplete s = .next t ∧ t = resumeDrains
        (replayWhere (fun _ p => p.place == .held (washHold e.core e.slot)) u) ∧
      nsHas (clusterSt u e.core).washing e.slot = false ∧ ∀ a, a < 65536 → nsHas u.residency (residKey e.core e.slot a) = false) ∧
    (∀ ln, sfind (clusterSt s e.core).l2 key = some ln → e.flag = false →
      ∃ t, exec .l2Eviction s = .next t ∧ t = evictLine s e.core key ∧ sfind (clusterSt t e.core).l2 key = none) ∧
    (∀ a : Access, a = (match e.kind with | 0 => .read | 1 => .write | 2 => .atomic | 3 => .fetch | _ => .wait) →
      (∀ l t, translate s e.asid (e.addr % 2 ^ 57) a = (.ok l, t) → exec .pageWalk s = .next t) ∧
      (∀ x t, translate s e.asid (e.addr % 2 ^ 57) a = (.error x, t) → (ctxOf s e.asid).isSome = true → exec .pageWalk s =
        .next (reportFault ⟨e.core, e.index, e.slot, 0, 0⟩ e.asid (e.addr % 2 ^ 57) a x t))) ∧
    (∀ g w c, sfind s.groups gk = some g → sfind s.wgs (wgOf gk g) = some w → ctxOf s w.asid = some c →
      let at' := (laneOf g (oldestLane g)).pc
      let va := (at'.addr - BitVec.ofNat 57 (8 * at'.ofs)).toNat
      let hang := killContext w.asid 6 (keyCore gk) 0 0 (postEvent 0x20 w.asid
        (leBytes 2 (keyCore gk) ++ leBytes 1 (keyNum gk) ++ leBytes 1 (waitKind s gk g w.asid) ++ leBytes 4 (g.recovery / 100)
          ++ leBytes 8 va ++ leBytes 8 w.index ++ leBytes 2 (tagOf s w.record) ++ leBytes 2 (queueOf s w.record)) s)
      (100000 * (if c.wdog = 0 then 4000 else c.wdog) ≤ g.watchdog → exec .watchdogHang s = .next hang) ∧
      (200000000 ≤ g.recovery → exec .remotePendingLimit s = .next hang)))

/-- R108, R165, R176, R219, R220, R436: operations complete. A due operation has its effect, its results enter its registers,
its flag counts one less and what it held goes on; a lane's wait whose condition held ends; a multicast window that closes
serves its requests; refused accesses and commands are sent again in order, those that an engine still has no room for
counting a NAK more. R250, R251, R257, R261, R262, R286, R289, R290, R455, R458, R463: the engines. A matrix operation runs
row by row from its queue's head, and a row lands in the accumulators; a token that arrives sound and with room is accepted,
with no room it is counted as a NAK and its sender's channel stands until the resend, and one whose parity fails costs the
gang; a copy or link command moves its segments in order and, when the last is done, leaves its queue with its operation
ready; a sweep engine takes its notices, by which a waiting element rises and a stalled partition moves again, learns of a
decision, whereupon it writes the completion word and answers its pulls, and reads a stalled watch again. The moments of
completion are events (log 12, log 13); what is released goes in the order of log 46; a token without room follows log 43. -/
def Obligations.OperationsAndEnginesComplete : Prop :=
  (∀ (s : State),
    let gk := gkey s.env.core s.env.slot
    (∀ u, u = (if ∃ c ∈ (swOf s (keyCore gk)).pulls, c.group = gk ∧ c.op = s.env.index then
        settleSweep (keyCore gk) (takeNotices (keyCore gk) s) else s) →
      ∀ g o w, sfind u.groups gk = some g → findOp u gk s.env.index = some o → sfind u.wgs (wgOf gk g) = some w →
        exec .flagOperationComplete s = .next (if opDue u gk g o = true then
          releaseHeld (afterOp gk o (completeOp gk s.env.index (opEffect gk w o u))) else u)) ∧
    (∀ g o, sfind s.groups gk = some g → g.ops = [o] → o.clobbered = [] → inState g .exited = 0 → s.parked = [] →
      inState g .faultParked = 0 → o.id = s.env.index →
      ∃ g', sfind (completeOp gk s.env.index s).groups gk = some g' ∧ g'.ops = [] ∧ g'.lanes = g.lanes ∧ g'.preds = g.preds ∧
        (∀ k x, o.results = [(k, x)] → k < 65536 → sget 0 g'.vreg k = x ∧ (∀ j, j ≠ k → sget 0 g'.vreg j = sget 0 g.vreg j) ∧
          g'.sreg = g.sreg) ∧
        (completeOp gk s.env.index s).mem = s.mem) ∧
    (∀ w, s.waits.find? (fun w => w.group == gk && w.op == s.env.index && w.lane == s.env.lane && w.sat.isSome) = some w →
      ∃ t u, exec .waitaConditionMet s = .next t ∧ t = endWait w s ∧
        u = { s with waits := s.waits.filter fun v => v != w } ∧
        (∀ x ag v, w.sat = some x → w.acq = false → v = serveOp w.group w.op (resultKeys w.d (if w.w64 then 2 else 1) w.lane x) u →
          agOf v w.group = some ag → waitPoison s w = false → t = releaseHeld v)) ∧
    (∀ e, sfind (clusterSt s s.env.core).merges s.env.index = some e → ∃ t u, exec .multicastWindowClose s = .next t ∧
      sfind (clusterSt u s.env.core).merges s.env.index = none ∧ t = e.reqs.foldl (fun s r => serveMcast r.1 r.2 s) u) ∧
    exec .overflowNakResend s = .next (resumeDrains (replayWhere (fun _ p => p.group == gk && p.place == .nak) s)) ∧
    ((∀ p ∈ s.parked, p.group = gk → p.place ≠ .nak) → exec .overflowNakResend s = .next (resumeDrains s)) ∧
    (∀ p a, s.parked = [p] → p.group = gk → p.place = .nak → agOf s gk = some a →
      let r := tryAccess { a with clause := p.clause } p.op p.acc p.lanes { s with parked := [{ p with lanes := [] }] }
      r.left = [] → r.eaten = none → r.st.parked = [{ p with lanes := [] }] →
        exec .overflowNakResend s = .next (resumeDrains (serveOp gk p.op r.results { r.st with parked := [] }))) ∧
    (∀ u id rs o, u.parked = [] → u.waits = [] → findOp u gk id = some o → o.flag ≠ 15 → serveOp gk id rs u =
      settle gk (modOp gk id (fun o => { o with results := o.results ++ rs, lanes := 0, ready := true }) u)) ∧
    exec .engineNakResend s = .next (flushWindow gk s.env.kind s) ∧
    (∀ g, sfind s.groups gk = some g →
      let e := s.env.kind
      let core := keyCore gk
      (windowOf g e = [] → exec .engineNakResend s = .next s) ∧
      (∀ w rest, windowOf g e = w :: rest → pathHeld g e w.cmd.op = true → exec .engineNakResend s = .next s) ∧
      (∀ w rest, windowOf g e = w :: rest → pathHeld g e w.cmd.op = false → engRoom s core e = false →
        ∃ t, exec .engineNakResend s = .next t ∧
          sfind t.groups gk = some { g with
            window := g.window.map fun x => if x.cmd.op = w.cmd.op then { x with naked := true } else x } ∧
          (∀ k, k ≠ gk → sfind t.groups k = sfind s.groups k) ∧ { t with groups := s.groups, cores := s.cores } = s ∧
          (coreSt t core).naks = if e = 3 then (coreSt s core).naks else min ((coreSt s core).naks + 1) 0xFFFF) ∧
      (∀ w, g.window = [w] → w.engine = e → pathHeld g e w.cmd.op = false → engRoom s core e = true → e = 1 →
        ∃ t, exec .engineNakResend s = .next t ∧ dmaOf t 1 core = dmaOf s 1 core ++ [⟨w.cmd, none, 0, [], false⟩] ∧
          (w.cmd.group = gk → sfind t.groups gk = some { g with
            window := []
            ops := g.ops.map fun o => if o.id = w.cmd.op then { o with kind := .engine 1 1 } else o })))) ∧
  (∀ (s : State),
    let core := s.env.core
    exec .matrixOperationComplete s = .next (runHead core s) ∧
    (∀ m, headMember s core = some m → m.w.stopping = false →
      (∀ w64 d lanes, m.ent.cmd.cmd = .msmld w64 d lanes → runHead core s =
        modOp m.ent.cmd.group m.ent.cmd.op (fun o => { o with results := o.results ++ msmRead s m w64 d lanes }) (popHead s m)) ∧
      (∀ w64 lanes, m.ent.cmd.cmd = .msmst w64 lanes → runHead core s = popHead (msmWrite m w64 lanes s) m) ∧
      (∀ b ar br ag fl k (sl : Slot) (ri : RowIn), m.ent.cmd.cmd = .mma b ar br ag fl → m.core = core →
        stepsLeft s core = k + 1 → otherShape s core = none → loadStep core s = s → (mxOf s core).rx = [] →
        stepReady s core = some (m, sl, ri) →
        wrongShape m (ri.fromWest ++ ri.fromNorth) = false →
        operandPoisoned s m m.recA m.block.a m.block.asrc [m.ent.row] (m.lo m.cfg.bi) (m.hi m.cfg.bi) = false →
        runHead core s = runEngine core k (countRow m (emitRow m ri (memberSums s m ri.a sl.strip ri.north)
          (dropChannel core 1 1 ri.fromWest.length (dropChannel core 0 2 ri.fromNorth.length s)))))) ∧
    (∀ x, otherShape s core = some x → shapeStep core s =
      killContext x.ent.cmd.asid 10 x.core 0 0 (modMx s x.core fun y => { y with stopped := true })) ∧
    (∀ (m : Member) row codes j, j < codes.length →
      let f := m.fmt
      let a := accAddr m.w m.block f row j
      let old := accVal f (ofLeBytes (localBytes s m.core .ms a (accSize f)))
      let new := if m.block.acc then accCode f (arrayRound f (fpAdd false old (accVal f (codes.getD j 0)))) else codes.getD j 0
      localBytes (landRow m row codes s) m.core .ms a (accSize f) = leBytes (accSize f) new) ∧
    (∀ from' t0 rest, linkEnd s core (s.env.port % 2) = some from' → from' ≠ core →
      nextToken (mxOf s from') core (s.env.port % 2) s.env.kind = some (t0, rest) →
      let tok : Token := { t0 with
        header := (t0.header ^^^ s.env.mask) % 65536
        payload := t0.payload.mapIdx fun i b => b ^^^ s.env.bytes.getD i 0 }
      let bad := tokenSound tok = false ∨ 6 ≤ tok.header % 8 ∨ tok.header % 8 = 3
      (bad → exec .operandTokenReceive s = .next (consumeGang 3 core (modMx s from' fun x => { x with tx := rest }))) ∧
      (¬ bad → (channel (mxOf s core) (s.env.port % 2) s.env.kind).length < 16 → ∃ t, exec .operandTokenReceive s = .next t ∧
        mxOf t core = { mxOf s core with rx := (mxOf s core).rx ++ [tok] } ∧
        mxOf t from' = { mxOf s from' with tx := rest } ∧ (∀ c, c ≠ core → c ≠ from' → mxOf t c = mxOf s c)) ∧
      (¬ bad → 16 ≤ (channel (mxOf s core) (s.env.port % 2) s.env.kind).length → ∃ t, exec .operandTokenReceive s = .next t ∧
        mxOf t from' =
          { mxOf s from' with resend := (mxOf s from').resend ++ [(core, s.env.port % 2, s.env.kind)] } ∧
        (∀ c, c ≠ from' → mxOf t c = mxOf s c) ∧
        coreSt t from' = { coreSt s from' with naks := min ((coreSt s from').naks + 1) 0xFFFF })) ∧
    (∃ t, exec .operandTokenResend s = .next t ∧ mxOf t core = { mxOf s core with resend := [] } ∧
      { t with mx := s.mx } = s) ∧
    (∀ x, dmaOf s 1 core = [x] → x.aside = false → dmaStopping s x = false → x.patch = [] →
      let y : DmaEnt := { x with pos := x.pos + 1 }
      (x.pos = cmdSegs x.cmd.cmd → unacked s (dmaName 1 x) = true →
        exec .copyCommandComplete s = .next (finishCopies (fun _ _ => true) s)) ∧
      (x.pos = cmdSegs x.cmd.cmd → unacked s (dmaName 1 x) = false → (cmdWord x.cmd.cmd).1 = 0 → exec .copyCommandComplete s =
        .next (finishCopies (fun _ _ => true) (finishDma 1 core y (modDma s 1 core x y)))) ∧
      (∀ u, s.env.size = 1 → x.pos + 1 < cmdSegs x.cmd.cmd → runSeg (engOf 1 x) x.cmd.cmd x.pos s = (.ok, u) →
        exec .copyCommandComplete s = .next (finishCopies (fun _ _ => true) (modDma u 1 core x y)))) ∧
    (∀ x, dmaOf s 3 core = [x] → s.env.index = 0 → x.aside = false → dmaStopping s x = false → x.patch = [] →
      let y : DmaEnt := { x with pos := x.pos + 1 }
      (x.pos = cmdSegs x.cmd.cmd → unacked s (dmaName 3 x) = true → exec .linkTransferComplete s = .next s) ∧
      (x.pos = cmdSegs x.cmd.cmd → unacked s (dmaName 3 x) = false → (cmdWord x.cmd.cmd).1 = 0 →
        exec .linkTransferComplete s = .next (finishDma 3 core y (modDma s 3 core x y))) ∧
      (∀ u, s.env.size = 1 → x.pos + 1 < cmdSegs x.cmd.cmd → runSeg (engOf 3 x) x.cmd.cmd x.pos s = (.ok, u) →
        exec .linkTransferComplete s = .next (modDma u 3 core x y))) ∧
    (∀ e k x u, dmaOf u e k = [x] → x.packet = none → e = 1 ∨ e = 3 → dmaOf (finishDma e k x u) e k = [] ∧
      finishDma e k x u = modOp x.cmd.group x.cmd.op (fun o => { o with ready := true, lanes := 0 }) (putDma u e k [])) ∧
    exec .remoteWakeNotify s = .next (settleSweep core (takeNotices core s)) ∧
    ((swOf s core).notices = [] ∨ (swOf s core).starting.isSome = true →
      exec .remoteWakeNotify s = .next (settleSweep core s)) ∧
    (∀ n d b u v w, (swOf s core).notices = [n] → (swOf s core).starting = none → (swOf s core).decl = some d →
      let y := d.first + b
      n.wake.dom = domOf d → n.wake.part = d.part → (swOf s core).run = 1 ∨ (swOf s core).run = 2 → b < d.count → d.count ≤ 64 →
      swRmw (swEng s core) .atomic (d.wplane % 2 ^ 57) 8 (fun _ => some 0) s = (.ok, u, 2 ^ b) →
      runDecided u core d = false → inBatch (swOf u core) y = false → mapBit u core d false y = true →
      readCtx (swEng u core) d y u = (.ok, v, w) → w / 2 ^ 21 % 8 = 3 →
        let z := modSw (unstallIf core true (rise core d y v)) core fun x => { x with notices := [] }
        exec .remoteWakeNotify s = .next (settleSweep core (wakeStep4 (ackCore z core n) n.wake z))) ∧
    (∀ (u : State) d n, mapBit (rise core d n u) core d false n = false ∧ (rise core d n u).mem = u.mem) ∧
    (∀ (u : State) d, (swOf u core).decl = some d →
      ((swOf u core).run ≠ 2 → unstallIf core true u = u) ∧
      ((swOf u core).run = 2 → runDecided u core d = false →
        unstallIf core true u = newSweep core (addStat core (domOf d) 0 (-1) 0 (.stat (-1) 0) u).1) ∧
      newSweep core u = rereadWatch core (modSw u core fun x =>
        { x with run := 1, sweep := min (x.sweep + 1) (2 ^ 32 - 1), p := d.first, satisfied := [] }) ∧
      (let z := modSw u core fun x => { x with satisfied := [] }
       ((∀ n, d.first ≤ n → n < d.first + d.count → mapBit z core d false n = false ∨ mapBit z core d true n = false) →
         rereadWatch core u = z) ∧
       (∀ v w t b, d.count = 1 → mapBit z core d false d.first = true → mapBit z core d true d.first = true →
         (swOf u core).patch = [] → readCtx (swEng z core) d d.first z = (.ok, v, w) → (swOf v core).patch = [] →
         slotDone (swEng v core) d (w / 2 ^ 13 % 256) v = (.ok, t, b) →
           rereadWatch core u = if b = true then modSw t core fun x => { x with satisfied := nsAdd x.satisfied d.first } else t))) ∧
    ((swOf s core).told = false → exec .sweepDecisionNotify s = .next s) ∧
    ((swOf s core).told = true → ∃ t, exec .sweepDecisionNotify s = .next t ∧
      t = modSw (learn core s) core (fun x => { x with told := false }) ∧ (swOf t core).told = false) ∧
    (∀ d u v, (swOf s core).told = true → (swOf s core).decl = some d → (swOf s core).run = 1 ∨ (swOf s core).run = 2 →
      (swOf s core).dec = 0 → swRmw (swEng s core) .atomic d.dstat 8 (fun _ => none) s = (.ok, u, v) →
      let u1 := acquireScope u core (swEng u core).asid 4
      (v.testBit 63 = false →
        exec .sweepDecisionNotify s = .next (modSw u1 core fun x => { x with told := false })) ∧
      (v.testBit 63 = true →
        let dec := if v % 2 ^ 16 = d.pcount then 1 else 2
        let u2 := modSw u1 core fun x => { x with dec := dec }
        ∀ t old, swOf u1 core = swOf s core → swRmw (swEng u2 core) .write (swOf s core).waddr 8
            (fun _ => some (dec * 2 ^ 62 + (swOf s core).cval)) (releaseScope u2 core (swEng u2 core).asid 4) = (.ok, t, old) →
          swOf t core = swOf u2 core → exec .sweepDecisionNotify s = .next (modSw (answerPulls core
            (modSw t core fun x => { x with run := 3, told := false })) core fun x => { x with told := false }))) ∧
    ((swOf s core).run ≠ 2 ∨ swStopping s core = true → exec .stalledWatchReread s = .next s) ∧
    ((swOf s core).run = 2 → swStopping s core = false → exec .stalledWatchReread s = .next (settleSweep core
      (unstallIf core (!(swOf (rereadWatch core s) core).satisfied.isEmpty) (rereadWatch core s)))))

/-- R34, R109, R157, R158, R238, R241, R268, R269, R312: what the events of a single register, a clock and a bank do. A droop
stretches each edge of the clock until it ends (by half a period, log 37); the loop moves k by a step between 6 and 16, down
on a hot die (R52), and the budgets by at most 8 within CAP; a governor window counts what a ready step was held, restarts the
step count and takes the budget; LPC1 written in a handler moves a lane outside TMASK and consumes the staged half; RNGVAL
sets a lane's generator, never to 0; the clear bits of MXSTALL and ENGNAK clear their counts; a bank that ends its switch
takes its mode, empty. R86, R102, R213, R214, R220, R228, R231: selections and the host's part of system calls. A quarter with
no run picks, in quarter 0 the firmware slot where it is ready (R210), else the ready group that waits longest, the lowest
slot among equals, whose first program counter that does not wait begins a run of the lanes there, their ages cleared and the
other lanes' raised; a header that is none takes exception 4; a memory fault that is due is taken. The host's writes of a
resume word and of CONS reach memory and the calls they concern are served. The order of checks at a selection is DEDUCED (log
16); values are supplied by the environment (log 4). -/
def Obligations.RegistersSelectionsAndResumption : Prop :=
  (∀ (s : State),
    let e := s.env
    let gk := gkey e.core e.slot
    let x : W32 := BitVec.ofNat 32 e.value
    (∃ t, exec .droopDetect s = .next t ∧
      clusterSt t e.core = { clusterSt s e.core with
        droop := true, stretches := (clusterSt s e.core).stretches + if (clusterSt s e.core).droop = true then 0 else 1 } ∧
      { t with clusters := s.clusters } = s) ∧
    (∃ t, exec .droopEnd s = .next t ∧ clusterSt t e.core = { clusterSt s e.core with droop := false } ∧
      { t with clusters := s.clusters } = s) ∧
    (∀ n cl, cl < 24 → s.evring.owed = false →
      let c := clusterSt s cl
      (elapse n s).refclk = s.refclk + n ∧
      (c.droop = false → clusterSt (elapse n s) cl = { c with cycles16 := c.cycles16 + 33 * c.k * n }) ∧
      (c.droop = true → clusterSt (elapse n s) cl = { c with
        cycles16 := c.cycles16 + 22 * c.k * n
        stretches := c.stretches + ((c.cycles16 + 22 * c.k * n) / 16 - c.cycles16 / 16) })) ∧
    (let k := (clusterSt s e.core).k
     ∃ t, exec .voltageFrequencyLoop s = .next t ∧ (clusterSt t e.core).stretches = 0 ∧
      (600 ≤ (clusterSt t e.core).vcore ∧ (clusterSt t e.core).vcore ≤ 900) ∧
      (6 ≤ k → k ≤ 16 → 6 ≤ (clusterSt t e.core).k ∧ (clusterSt t e.core).k ≤ 16) ∧
      (let hot := ∃ x ∈ s.sensors, x.1 / 64 = e.core / 12 ∧ 100 ≤ x.2
       (e.flag = false → ¬ hot → (clusterSt s e.core).stretches = 0 → (clusterSt t e.core).k = min 16 (k + 1)) ∧
       (e.flag = true ∨ hot → (clusterSt t e.core).k = max 6 (min (k - 1) e.value))) ∧
      (∀ i, i < 16 → let x := mxOf s (16 * e.core + i)
        mxOf t (16 * e.core + i) = if x.ramp ≠ none then x
          else if e.kind = 1 then { x with budget := max 8 (x.budget - min e.size 8) }
          else { x with budget := min (capOf x.cap) (x.budget + min e.size 8) })) ∧
    ((mxOf s e.core).queue = [] → (mxOf s e.core).rx = [] → ∃ t, exec .governorWindow s = .next t ∧
      mxOf t e.core = { mxOf s e.core with steps := 0, limit := (mxOf s e.core).budget } ∧ { t with mx := s.mx } = s) ∧
    (let u := runEngine e.core ((mxOf s e.core).limit - (mxOf s e.core).steps) s
     let x := mxOf u e.core
     ∃ t, exec .governorWindow s = .next t ∧ (∀ c, c ≠ e.core → mxOf t c = mxOf u c) ∧ { t with mx := u.mx } = u ∧
      (x.limit ≤ x.steps → stepReady u e.core ≠ none → mxOf t e.core =
        { x with stall := min (x.stall + min e.size (64 - x.steps)) (2 ^ 31 - 1), steps := 0, limit := x.budget }) ∧
      (x.steps < x.limit ∨ stepReady u e.core = none → mxOf t e.core = { x with steps := 0, limit := x.budget })) ∧
    (∀ g y, sfind s.groups gk = some g → g.trap.inh = true → g.trap.staged = some y → g.trap.lpcsel < 32 → g.lanes.length = 32 →
      g.trap.tmask.getLsbD g.trap.lpcsel = false → (laneOf g g.trap.lpcsel).st = .inactive →
      ∃ t g', exec .lpc1Write s = .next t ∧ sfind t.groups gk = some g' ∧ g'.trap = { g.trap with staged := none } ∧
        (laneOf g' g.trap.lpcsel).pc.addr.toNat = (y.toNat + x.toNat % 2 ^ 25 * 2 ^ 32) % 2 ^ 57 ∧
        (∀ l, l ≠ g.trap.lpcsel → laneOf g' l = laneOf g l) ∧ { g' with trap := g.trap, lanes := g.lanes } = g) ∧
    (∀ g, sfind s.groups gk = some g → g.trap.rngsel < 32 → g.lanes.length = 32 → ∃ t g', exec .rngvalWrite s = .next t ∧
      sfind t.groups gk = some g' ∧ laneOf g' g.trap.rngsel = { laneOf g g.trap.rngsel with gen := if x = 0 then 1 else x } ∧
      (∀ l, l ≠ g.trap.rngsel → laneOf g' l = laneOf g l) ∧ { g' with lanes := g.lanes } = g) ∧
    (∃ t, exec .mxstallClear s = .next t ∧ mxOf t e.core = { mxOf s e.core with stall := 0 } ∧ { t with mx := s.mx } = s) ∧
    (∃ t, exec .engnakClear s = .next t ∧ coreSt t e.core = { coreSt s e.core with naks := 0, backoff := x.toNat % 4096 } ∧
      { t with cores := s.cores } = s) ∧
    exec .bankmodeWrite s = .next (writeBankMode e.core x s) ∧
    (∀ old, sfind (coreSt s e.core).bankFrom e.index = some old →
      let c := coreSt s e.core
      ∃ u, sfind (coreSt u e.core).bankFrom e.index = none ∧ (coreSt u e.core).bankMode = c.bankMode ∧
        (coreSt u e.core).l1 = (c.l1.filter fun x => x.2.1 != e.index) ∧
        (c.bankMode.getD e.index 0 = 1 → ∀ a, bankBase e.index ≤ a → a < bankBase e.index + 32768 →
          sget 0 (coreSt u e.core).sp a = 0) ∧
        (c.bankMode.getD e.index 0 ≠ 1 → (coreSt u e.core).sp = c.sp) ∧
        (∀ a, (a < bankBase e.index ∨ bankBase e.index + 32768 ≤ a) →
          sget 0 (coreSt u e.core).sp a = sget 0 c.sp a) ∧
        { u with cores := s.cores } = s ∧
        (let v := if nsHas c.owedFifo e.index then switchBank e.core 0 u e.index else u
         exec .bankSwitchComplete s = .next (if c.owed then giveBack e.core v else v)))) ∧
  (∀ (s : State),
    let core := s.env.core
    let q := s.env.slot % 4
    let u : State := { s with tick := s.tick + 1 }
    let users (v t : State) : Prop :=
      let all := quarterGroups v core q
      let ready := all.filter fun k => (attempt k v).1
      let rest := (all.filter fun k => !(attempt k v).1).foldl (fun v k => (attempt k v).2) v
      (ready = [] → t = passOver [] all rest) ∧
      (∀ k ∈ ready, all.Pairwise (· < ·) →
        (∀ j ∈ ready, waitAgeOf v j < waitAgeOf v k ∨ (waitAgeOf v j = waitAgeOf v k ∧ k ≤ j)) →
        t = modGroup (attempt k (passOver ready all rest)).2 k fun g => { g with waitAge := 0 })
    ((sfind s.runs (rkey core q)).isSome = true → exec .quarterSelection s = .next u) ∧
    (sfind s.runs (rkey core q) = none →
      (q ≠ 0 → ∃ t, exec .quarterSelection s = .next t ∧ users u t) ∧
      (q = 0 → ∀ b v, attempt (gkey core fwSlot) u = (b, v) → ∃ t, exec .quarterSelection s = .next t ∧
        (b = true → t = v) ∧ (b = false → users v t))) ∧
    (∀ slot g u, q ≠ 0 → sfind s.runs (rkey core q) = none → quarterGroups s core q = [gkey core slot] →
      sfind s.groups (gkey core slot) = some g → attempt (gkey core slot) { s with tick := s.tick + 1 } = (true, u) →
      exec .quarterSelection s = .next (modGroup
        (attempt (gkey core slot) (passOver [gkey core slot] [gkey core slot] { s with tick := s.tick + 1 })).2
        (gkey core slot) fun g => { g with waitAge := 0 })) ∧
    (∀ (u : State) gk ag g pc h ws v, sfind u.groups gk = some g → agOf u gk = some ag → selectable u gk g = true →
      orphaned g = false → considerPcs ag g (pickOrder g) u = (some (pc, .run h ws), v) → dueFail ag g (pickOrder g) v = none →
      attempt gk u = (true, beginRun ag.gk pc h ws v)) ∧
    (∀ (u : State) gk g pc h ws k, sfind u.groups gk = some g → nextWord (litmapOf h) ws.length (pc.ofs - 1) = some k →
      ∃ r g', sfind (beginRun gk pc h ws u).runs (rkey (keyCore gk) (keyNum gk % 4)) = some r ∧
        r.lanes = lanesAt g pc ∧ r.words = ws ∧ r.widx = k ∧ r.cycle = 0 ∧ r.pend = [] ∧ r.exc = none ∧
        sfind (beginRun gk pc h ws u).groups gk = some g' ∧ g'.watchdog = 0 ∧
        (∀ l, l < 32 → l < g.lanes.length → (laneOf g' l).age =
          if (lanesAt g pc).getLsbD l then 0 else if (laneOf g l).st = .unblocked then min ((laneOf g l).age + 1) 65535
            else (laneOf g l).age) ∧
        (let w := g.watchdog
         let r := g.recovery
         { g' with lanes := g.lanes, watchdog := w, recovery := r, yielded := g.yielded, waitAge := g.waitAge } = g)) ∧
    (∀ g w, sfind s.groups (gkey core s.env.slot) = some g → sfind s.wgs (wgOf (gkey core s.env.slot) g) = some w →
      exec .resumeWordWrite s = .next (serveCalls (fun k _ => k == gkey core s.env.slot) (hostWriteVa 16 w.asid
        (resumeWordOf s (gkey core s.env.slot) w g) (leBytes 8 s.env.value) s))) ∧
    (∀ c, ctxOf s s.env.asid = some c → exec .syscallConsWrite s = .next (serveCalls (fun _ w => w.asid == s.env.asid)
      (hostWriteVa 16 s.env.asid c.scctl (leBytes 8 s.env.value) s))))
end

