-- ==== Sys2Proof/Laws/Encoding.lean ====
section
/-! SUPPORT. The fields of a packed word (R324, R336, R337), and an operand field's two directions (R329). -/

namespace Sys2Proof.Laws

/-- Equality of bit vectors whose bits below the width agree. -/
theorem ext_bits {n : Nat} {a b : BitVec n} (h : ∀ i, i < n → a.getLsbD i = b.getLsbD i) : a = b :=
  BitVec.eq_of_getLsbD_eq (fun i hi => h i hi)

section
variable (op : BitVec 8) (h : Hdr) (d a b c : BitVec 11) (x : BitVec 3)

theorem op_packWord : opOf (packWord op h d a b c x) = op := by
  apply ext_bits; intro i hi
  simp only [opOf, packWord, BitVec.getLsbD_extractLsb', BitVec.getLsbD_append]
  repeat rw [if_neg (by omega)]
  rw [show 56 + i - 3 - 11 - 11 - 11 - 11 - 4 - 4 - 1 = i by omega]
  simp [hi]

theorem d_packWord : dOf (packWord op h d a b c x) = d := by
  apply ext_bits; intro i hi
  simp only [dOf, packWord, BitVec.getLsbD_extractLsb', BitVec.getLsbD_append]
  repeat rw [if_neg (by omega)]
  rw [if_pos (by omega), show 36 + i - 3 - 11 - 11 - 11 = i by omega]
  simp [hi]

theorem a_packWord : aOf (packWord op h d a b c x) = a := by
  apply ext_bits; intro i hi
  simp only [aOf, packWord, BitVec.getLsbD_extractLsb', BitVec.getLsbD_append]
  repeat rw [if_neg (by omega)]
  rw [if_pos (by omega), show 25 + i - 3 - 11 - 11 = i by omega]
  simp [hi]

theorem b_packWord : bOf (packWord op h d a b c x) = b := by
  apply ext_bits; intro i hi
  simp only [bOf, packWord, BitVec.getLsbD_extractLsb', BitVec.getLsbD_append]
  repeat rw [if_neg (by omega)]
  rw [if_pos (by omega), show 14 + i - 3 - 11 = i by omega]
  simp [hi]

theorem c_packWord : cOf (packWord op h d a b c x) = c := by
  apply ext_bits; intro i hi
  simp only [cOf, packWord, BitVec.getLsbD_extractLsb', BitVec.getLsbD_append]
  repeat rw [if_neg (by omega)]
  rw [if_pos (by omega), show 3 + i - 3 = i by omega]
  simp [hi]

theorem x_packWord : xOf (packWord op h d a b c x) = x := by
  apply ext_bits; intro i hi
  simp only [xOf, packWord, BitVec.getLsbD_extractLsb', BitVec.getLsbD_append]
  rw [if_pos (by omega)]
  simp [hi]

theorem hdr_packWord : hdrOf (packWord op h d a b c x) = h := by
  have e1 : (packWord op h d a b c x).getLsbD 55 = h.sw := by
    simp only [packWord, BitVec.getLsbD_append, BitVec.getLsbD_ofBool]
    simp
  have e2 : (packWord op h d a b c x).extractLsb' 51 4 = h.f := by
    apply ext_bits; intro i hi
    simp only [packWord, BitVec.getLsbD_extractLsb', BitVec.getLsbD_append]
    repeat rw [if_neg (by omega)]
    rw [if_pos (by omega), show 51 + i - 3 - 11 - 11 - 11 - 11 - 4 = i by omega]
    simp [hi]
  have e3 : (packWord op h d a b c x).extractLsb' 47 4 = h.g := by
    apply ext_bits; intro i hi
    simp only [packWord, BitVec.getLsbD_extractLsb', BitVec.getLsbD_append]
    repeat rw [if_neg (by omega)]
    rw [if_pos (by omega), show 47 + i - 3 - 11 - 11 - 11 - 11 = i by omega]
    simp [hi]
  simp only [hdrOf, e1, e2, e3]

end

theorem ofBool_getLsbD (w : W64) (n : Nat) : BitVec.ofBool (w.getLsbD n) = w.extractLsb' n 1 := by
  apply ext_bits; intro i hi
  obtain rfl : i = 0 := by omega
  simp

/-- A word is its fields. -/
theorem packWord_split (w : W64) : packWord (opOf w) (hdrOf w) (dOf w) (aOf w) (bOf w) (cOf w) (xOf w) = w := by
  simp only [opOf, hdrOf, dOf, aOf, bOf, cOf, xOf, packWord, ofBool_getLsbD]
  iterate 8 rw [BitVec.extractLsb'_append_extractLsb'_eq_extractLsb' (by decide)]
  exact BitVec.extractLsb'_eq_self

theorem packI22_split (w : W64) : packI22 (opOf w) (hdrOf w) (dOf w) (aOf w) (w.extractLsb' 3 22) (xOf w) = w := by
  simp only [opOf, hdrOf, dOf, aOf, xOf, packI22, ofBool_getLsbD]
  iterate 7 rw [BitVec.extractLsb'_append_extractLsb'_eq_extractLsb' (by decide)]
  exact BitVec.extractLsb'_eq_self

theorem packI20_split (w : W64) :
    packI20 (opOf w) (hdrOf w) (dOf w) (aOf w) (w.extractLsb' 5 20) (w.extractLsb' 3 2) (xOf w) = w := by
  simp only [opOf, hdrOf, dOf, aOf, xOf, packI20, ofBool_getLsbD]
  iterate 8 rw [BitVec.extractLsb'_append_extractLsb'_eq_extractLsb' (by decide)]
  exact BitVec.extractLsb'_eq_self

theorem op_packI22 (op : BitVec 8) (h : Hdr) (d a : BitVec 11) (m : BitVec 22) (x : BitVec 3) : opOf (packI22 op h d a m x) = op := by
  apply ext_bits; intro i hi
  simp only [opOf, packI22, BitVec.getLsbD_extractLsb', BitVec.getLsbD_append]
  repeat rw [if_neg (by omega)]
  rw [show 56 + i - 3 - 22 - 11 - 11 - 4 - 4 - 1 = i by omega]
  simp [hi]

theorem d_packI22 (op : BitVec 8) (h : Hdr) (d a : BitVec 11) (m : BitVec 22) (x : BitVec 3) : dOf (packI22 op h d a m x) = d := by
  apply ext_bits; intro i hi
  simp only [dOf, packI22, BitVec.getLsbD_extractLsb', BitVec.getLsbD_append]
  repeat rw [if_neg (by omega)]
  rw [if_pos (by omega)]
  rw [show 36 + i - 3 - 22 - 11 = i by omega]
  simp [hi]

theorem a_packI22 (op : BitVec 8) (h : Hdr) (d a : BitVec 11) (m : BitVec 22) (x : BitVec 3) : aOf (packI22 op h d a m x) = a := by
  apply ext_bits; intro i hi
  simp only [aOf, packI22, BitVec.getLsbD_extractLsb', BitVec.getLsbD_append]
  repeat rw [if_neg (by omega)]
  rw [if_pos (by omega)]
  rw [show 25 + i - 3 - 22 = i by omega]
  simp [hi]

theorem x_packI22 (op : BitVec 8) (h : Hdr) (d a : BitVec 11) (m : BitVec 22) (x : BitVec 3) : xOf (packI22 op h d a m x) = x := by
  apply ext_bits; intro i hi
  simp only [xOf, packI22, BitVec.getLsbD_extractLsb', BitVec.getLsbD_append]
  rw [if_pos (by omega)]
  simp [hi]

theorem hdr_packI22 (op : BitVec 8) (h : Hdr) (d a : BitVec 11) (m : BitVec 22) (x : BitVec 3) : hdrOf (packI22 op h d a m x) = h := by
  have e1 : (packI22 op h d a m x).getLsbD 55 = h.sw := by
    simp only [packI22, BitVec.getLsbD_append, BitVec.getLsbD_ofBool]
    simp
  have e2 : (packI22 op h d a m x).extractLsb' 51 4 = h.f := by
    apply ext_bits; intro i hi
    simp only [packI22, BitVec.getLsbD_extractLsb', BitVec.getLsbD_append]
    repeat rw [if_neg (by omega)]
    rw [if_pos (by omega), show 51 + i - 3 - 22 - 11 - 11 - 4 = i by omega]
    simp [hi]
  have e3 : (packI22 op h d a m x).extractLsb' 47 4 = h.g := by
    apply ext_bits; intro i hi
    simp only [packI22, BitVec.getLsbD_extractLsb', BitVec.getLsbD_append]
    repeat rw [if_neg (by omega)]
    rw [if_pos (by omega), show 47 + i - 3 - 22 - 11 - 11 = i by omega]
    simp [hi]
  simp only [hdrOf, e1, e2, e3]

theorem op_packI20 (op : BitVec 8) (h : Hdr) (d a : BitVec 11) (q : BitVec 20) (r : BitVec 2) (x : BitVec 3) : opOf (packI20 op h d a q r x) = op := by
  apply ext_bits; intro i hi
  simp only [opOf, packI20, BitVec.getLsbD_extractLsb', BitVec.getLsbD_append]
  repeat rw [if_neg (by omega)]
  rw [show 56 + i - 3 - 2 - 20 - 11 - 11 - 4 - 4 - 1 = i by omega]
  simp [hi]

theorem d_packI20 (op : BitVec 8) (h : Hdr) (d a : BitVec 11) (q : BitVec 20) (r : BitVec 2) (x : BitVec 3) : dOf (packI20 op h d a q r x) = d := by
  apply ext_bits; intro i hi
  simp only [dOf, packI20, BitVec.getLsbD_extractLsb', BitVec.getLsbD_append]
  repeat rw [if_neg (by omega)]
  rw [if_pos (by omega)]
  rw [show 36 + i - 3 - 2 - 20 - 11 = i by omega]
  simp [hi]

theorem a_packI20 (op : BitVec 8) (h : Hdr) (d a : BitVec 11) (q : BitVec 20) (r : BitVec 2) (x : BitVec 3) : aOf (packI20 op h d a q r x) = a := by
  apply ext_bits; intro i hi
  simp only [aOf, packI20, BitVec.getLsbD_extractLsb', BitVec.getLsbD_append]
  repeat rw [if_neg (by omega)]
  rw [if_pos (by omega)]
  rw [show 25 + i - 3 - 2 - 20 = i by omega]
  simp [hi]

theorem x_packI20 (op : BitVec 8) (h : Hdr) (d a : BitVec 11) (q : BitVec 20) (r : BitVec 2) (x : BitVec 3) : xOf (packI20 op h d a q r x) = x := by
  apply ext_bits; intro i hi
  simp only [xOf, packI20, BitVec.getLsbD_extractLsb', BitVec.getLsbD_append]
  rw [if_pos (by omega)]
  simp [hi]

theorem hdr_packI20 (op : BitVec 8) (h : Hdr) (d a : BitVec 11) (q : BitVec 20) (r : BitVec 2) (x : BitVec 3) : hdrOf (packI20 op h d a q r x) = h := by
  have e1 : (packI20 op h d a q r x).getLsbD 55 = h.sw := by
    simp only [packI20, BitVec.getLsbD_append, BitVec.getLsbD_ofBool]
    simp
  have e2 : (packI20 op h d a q r x).extractLsb' 51 4 = h.f := by
    apply ext_bits; intro i hi
    simp only [packI20, BitVec.getLsbD_extractLsb', BitVec.getLsbD_append]
    repeat rw [if_neg (by omega)]
    rw [if_pos (by omega), show 51 + i - 3 - 2 - 20 - 11 - 11 - 4 = i by omega]
    simp [hi]
  have e3 : (packI20 op h d a q r x).extractLsb' 47 4 = h.g := by
    apply ext_bits; intro i hi
    simp only [packI20, BitVec.getLsbD_extractLsb', BitVec.getLsbD_append]
    repeat rw [if_neg (by omega)]
    rw [if_pos (by omega), show 47 + i - 3 - 2 - 20 - 11 - 11 = i by omega]
    simp [hi]
  simp only [hdrOf, e1, e2, e3]

theorem m_packI22 (op : BitVec 8) (h : Hdr) (d a : BitVec 11) (m : BitVec 22) (x : BitVec 3) :
    (packI22 op h d a m x).extractLsb' 3 22 = m := by
  apply ext_bits; intro i hi
  simp only [packI22, BitVec.getLsbD_extractLsb', BitVec.getLsbD_append]
  rw [if_neg (by omega), if_pos (by omega), show 3 + i - 3 = i by omega]
  simp [hi]

theorem q_packI20 (op : BitVec 8) (h : Hdr) (d a : BitVec 11) (q : BitVec 20) (r : BitVec 2) (x : BitVec 3) :
    (packI20 op h d a q r x).extractLsb' 5 20 = q := by
  apply ext_bits; intro i hi
  simp only [packI20, BitVec.getLsbD_extractLsb', BitVec.getLsbD_append]
  rw [if_neg (by omega), if_neg (by omega), if_pos (by omega), show 5 + i - 3 - 2 = i by omega]
  simp [hi]

theorem r_packI20 (op : BitVec 8) (h : Hdr) (d a : BitVec 11) (q : BitVec 20) (r : BitVec 2) (x : BitVec 3) :
    (packI20 op h d a q r x).extractLsb' 3 2 = r := by
  apply ext_bits; intro i hi
  simp only [packI20, BitVec.getLsbD_extractLsb', BitVec.getLsbD_append]
  rw [if_neg (by omega), if_pos (by omega), show 3 + i - 3 = i by omega]
  simp [hi]

/-! ### Operand fields -/

/-- The field of a well-formed operand reads as that operand (R329). -/
theorem ofBits_toBits (o : Opnd) (ho : o.wf = true) : Opnd.ofBits o.toBits = o := by
  cases o with
  | v n => revert n; decide +kernel
  | s n => revert n; decide +kernel
  | k b i => revert b i; decide +kernel
  | sp c => revert c; decide +kernel
  | imm i => revert i; decide +kernel
  | lit k hi => revert k hi; decide +kernel
  | p n => revert n; decide +kernel
  | z => decide
  | bad w => revert w; decide +kernel

/-- Every pattern is the field of the operand it reads as, which is well formed (R329). -/
theorem toBits_ofBits (w : BitVec 11) : (Opnd.ofBits w).toBits = w ∧ (Opnd.ofBits w).wf = true := by
  revert w; decide +kernel


/-! ### Words by shape -/

theorem op_r4Word (op : BitVec 8) (h : Hdr) (x : BitVec 3) (o : R4) : opOf (r4Word op h x o) = op := op_packWord ..
theorem x_r4Word (op : BitVec 8) (h : Hdr) (x : BitVec 3) (o : R4) : xOf (r4Word op h x o) = x := x_packWord ..
theorem hdr_r4Word (op : BitVec 8) (h : Hdr) (x : BitVec 3) (o : R4) : hdrOf (r4Word op h x o) = h := hdr_packWord ..
theorem r4Of_r4Word (op : BitVec 8) (h : Hdr) (x : BitVec 3) (o : R4) (ho : o.wf = true) : r4Of (r4Word op h x o) = o := by
  simp only [R4.wf, Bool.and_eq_true] at ho
  obtain ⟨⟨⟨hd, ha⟩, hb⟩, hc⟩ := ho
  simp only [r4Of, r4Word, d_packWord, a_packWord, b_packWord, c_packWord, ofBits_toBits _ hd, ofBits_toBits _ ha, ofBits_toBits _ hb, ofBits_toBits _ hc]

theorem op_rmWord (op : BitVec 8) (h : Hdr) (x : BitVec 3) (o : RM) : opOf (rmWord op h x o) = op := op_packWord ..
theorem x_rmWord (op : BitVec 8) (h : Hdr) (x : BitVec 3) (o : RM) : xOf (rmWord op h x o) = x := x_packWord ..
theorem hdr_rmWord (op : BitVec 8) (h : Hdr) (x : BitVec 3) (o : RM) : hdrOf (rmWord op h x o) = h := hdr_packWord ..
theorem rmOf_rmWord (op : BitVec 8) (h : Hdr) (x : BitVec 3) (o : RM) (ho : o.wf = true) : rmOf (rmWord op h x o) = o := by
  simp only [RM.wf, Bool.and_eq_true] at ho
  obtain ⟨⟨hd, ha⟩, hb⟩ := ho
  simp only [rmOf, rmWord, d_packWord, a_packWord, b_packWord, c_packWord, ofBits_toBits _ hd, ofBits_toBits _ ha, ofBits_toBits _ hb]

theorem op_cvWord (op : BitVec 8) (h : Hdr) (x : BitVec 3) (o : CV) : opOf (cvWord op h x o) = op := op_packWord ..
theorem x_cvWord (op : BitVec 8) (h : Hdr) (x : BitVec 3) (o : CV) : xOf (cvWord op h x o) = x := x_packWord ..
theorem hdr_cvWord (op : BitVec 8) (h : Hdr) (x : BitVec 3) (o : CV) : hdrOf (cvWord op h x o) = h := hdr_packWord ..
theorem cvOf_cvWord (op : BitVec 8) (h : Hdr) (x : BitVec 3) (o : CV) (ho : o.wf = true) : cvOf (cvWord op h x o) = o := by
  simp only [CV.wf, Bool.and_eq_true] at ho
  obtain ⟨hd, ha⟩ := ho
  simp only [cvOf, cvWord, d_packWord, a_packWord, b_packWord, c_packWord, ofBits_toBits _ hd, ofBits_toBits _ ha]

theorem op_i22Word (op : BitVec 8) (h : Hdr) (x : BitVec 3) (o : I22) : opOf (i22Word op h x o) = op := op_packI22 ..
theorem x_i22Word (op : BitVec 8) (h : Hdr) (x : BitVec 3) (o : I22) : xOf (i22Word op h x o) = x := x_packI22 ..
theorem hdr_i22Word (op : BitVec 8) (h : Hdr) (x : BitVec 3) (o : I22) : hdrOf (i22Word op h x o) = h := hdr_packI22 ..
theorem i22Of_i22Word (op : BitVec 8) (h : Hdr) (x : BitVec 3) (o : I22) (ho : o.wf = true) : i22Of (i22Word op h x o) = o := by
  simp only [I22.wf, Bool.and_eq_true] at ho
  obtain ⟨hd, ha⟩ := ho
  simp only [i22Of, i22Word, d_packI22, a_packI22, m_packI22, ofBits_toBits _ hd, ofBits_toBits _ ha]

theorem op_i20Word (op : BitVec 8) (h : Hdr) (x : BitVec 3) (o : I20) : opOf (i20Word op h x o) = op := op_packI20 ..
theorem x_i20Word (op : BitVec 8) (h : Hdr) (x : BitVec 3) (o : I20) : xOf (i20Word op h x o) = x := x_packI20 ..
theorem hdr_i20Word (op : BitVec 8) (h : Hdr) (x : BitVec 3) (o : I20) : hdrOf (i20Word op h x o) = h := hdr_packI20 ..
theorem i20Of_i20Word (op : BitVec 8) (h : Hdr) (x : BitVec 3) (o : I20) (ho : o.wf = true) : i20Of (i20Word op h x o) = o := by
  simp only [I20.wf, Bool.and_eq_true] at ho
  obtain ⟨hd, ha⟩ := ho
  simp only [i20Of, i20Word, d_packI20, a_packI20, q_packI20, r_packI20, ofBits_toBits _ hd, ofBits_toBits _ ha]

end Sys2Proof.Laws
end

