-- ==== Sys2Proof/Laws/Sparse.lean ====
section
/-! SUPPORT. Maps as sorted lists: what is found after a change, and that changes keep the canonical form. -/

namespace Sys2Proof.Laws

open Machine

variable {α : Type}

/-! ### Lookup after a change -/

@[simp] theorem sfind_nil (k : Nat) : sfind ([] : List (Nat × α)) k = none := rfl

theorem sfind_cons (j : Nat) (x : α) (m : List (Nat × α)) (k : Nat) :
    sfind ((j, x) :: m) k = if k = j then some x else sfind m k := rfl

theorem sfind_sset (m : List (Nat × α)) (k : Nat) (y : α) (j : Nat) :
    sfind (sset m k y) j = if j = k then some y else sfind m j := by
  induction m with
  | nil => rfl
  | cons e m ih =>
    obtain ⟨i, x⟩ := e
    simp only [sset]
    split
    · simp [sfind_cons]
    · split
      · subst_vars; simp only [sfind_cons]; split <;> rfl
      · simp only [sfind_cons, ih]; grind

@[simp] theorem sfind_sset_self (m : List (Nat × α)) (k : Nat) (y : α) : sfind (sset m k y) k = some y := by
  simp [sfind_sset]

theorem sfind_sset_ne (m : List (Nat × α)) {k j : Nat} (y : α) (h : j ≠ k) : sfind (sset m k y) j = sfind m j := by
  simp [sfind_sset, h]

theorem sfind_sdel (m : List (Nat × α)) (k j : Nat) : sfind (sdel m k) j = if j = k then none else sfind m j := by
  induction m with
  | nil => simp [sdel]
  | cons e m ih =>
    obtain ⟨i, x⟩ := e
    simp only [sdel]
    split
    · subst_vars; simp only [ih, sfind_cons]; grind
    · simp only [sfind_cons, ih]; grind

theorem sfind_smod (m : List (Nat × α)) (k : Nat) (f : α → α) (j : Nat) :
    sfind (smod m k f) j = if j = k then (sfind m k).map f else sfind m j := by
  unfold smod
  split <;> rename_i h
  · rw [h]; split
    · subst_vars; simpa using h
    · rfl
  · rw [h, sfind_sset]; rfl

@[simp] theorem sfind_smod_self (m : List (Nat × α)) (k : Nat) (f : α → α) :
    sfind (smod m k f) k = (sfind m k).map f := by simp [sfind_smod]

theorem sfind_smod_ne (m : List (Nat × α)) {k j : Nat} (f : α → α) (h : j ≠ k) : sfind (smod m k f) j = sfind m j := by
  simp [sfind_smod, h]

theorem sget_sput [DecidableEq α] (d : α) (m : List (Nat × α)) (k : Nat) (y : α) (j : Nat) :
    sget d (sput d m k y) j = if j = k then y else sget d m j := by
  unfold sget sput
  split
  · rw [sfind_sdel]; split <;> simp_all
  · rw [sfind_sset]; split <;> simp

@[simp] theorem sget_sput_self [DecidableEq α] (d : α) (m : List (Nat × α)) (k : Nat) (y : α) :
    sget d (sput d m k y) k = y := by simp [sget_sput]

theorem sget_sput_ne [DecidableEq α] (d : α) (m : List (Nat × α)) {k j : Nat} (y : α) (h : j ≠ k) :
    sget d (sput d m k y) j = sget d m j := by simp [sget_sput, h]

/-! ### The canonical form -/

theorem sortedFrom_mono {m : List (Nat × α)} {b c : Nat} (h : sortedFrom c m = true) (hb : b ≤ c) : sortedFrom b m = true := by
  cases m with
  | nil => rfl
  | cons e m =>
    obtain ⟨j, x⟩ := e
    simp only [sortedFrom, Bool.and_eq_true, decide_eq_true_eq] at h ⊢
    exact ⟨by omega, h.2⟩

theorem sortedFrom_sset {m : List (Nat × α)} {b k : Nat} {y : α} (h : sortedFrom b m = true) (hk : b ≤ k) :
    sortedFrom b (sset m k y) = true := by
  induction m generalizing b with
  | nil => simp [sset, sortedFrom, hk]
  | cons e m ih =>
    obtain ⟨j, x⟩ := e
    simp only [sortedFrom, Bool.and_eq_true, decide_eq_true_eq] at h
    simp only [sset]
    split
    · simp only [sortedFrom, Bool.and_eq_true, decide_eq_true_eq]; exact ⟨hk, by omega, h.2⟩
    · split
      · subst_vars; simp only [sortedFrom, Bool.and_eq_true, decide_eq_true_eq]; exact ⟨hk, h.2⟩
      · simp only [sortedFrom, Bool.and_eq_true, decide_eq_true_eq]; exact ⟨h.1, ih h.2 (by omega)⟩

theorem sortedFrom_sdel {m : List (Nat × α)} {b k : Nat} (h : sortedFrom b m = true) : sortedFrom b (sdel m k) = true := by
  induction m generalizing b with
  | nil => rfl
  | cons e m ih =>
    obtain ⟨j, x⟩ := e
    simp only [sortedFrom, Bool.and_eq_true, decide_eq_true_eq] at h
    simp only [sdel]
    split
    · exact ih (sortedFrom_mono h.2 (by omega))
    · simp only [sortedFrom, Bool.and_eq_true, decide_eq_true_eq]; exact ⟨h.1, ih h.2⟩

theorem all_sset {m : List (Nat × α)} {k : Nat} {y : α} {p : Nat × α → Bool} (h : m.all p = true) (hy : p (k, y) = true) :
    (sset m k y).all p = true := by
  induction m with
  | nil => simp [sset, hy]
  | cons e m ih =>
    obtain ⟨j, x⟩ := e
    simp only [List.all_cons, Bool.and_eq_true] at h
    simp only [sset]
    split
    · simp [hy, h.1, h.2]
    · split
      · simp [hy, h.2]
      · simp [h.1, ih h.2]

theorem all_sdel {m : List (Nat × α)} {k : Nat} {p : Nat × α → Bool} (h : m.all p = true) : (sdel m k).all p = true := by
  induction m with
  | nil => rfl
  | cons e m ih =>
    obtain ⟨j, x⟩ := e
    simp only [List.all_cons, Bool.and_eq_true] at h
    simp only [sdel]
    split
    · exact ih h.2
    · simp [h.1, ih h.2]

/-- Setting a key keeps the canonical form of a map with a default. -/
theorem swf_sput [DecidableEq α] {d : α} {m : List (Nat × α)} (k : Nat) (y : α) (h : swf d m = true) :
    swf d (sput d m k y) = true := by
  simp only [swf, Bool.and_eq_true] at h ⊢
  unfold sput
  split
  · exact ⟨sortedFrom_sdel h.1, all_sdel h.2⟩
  · exact ⟨sortedFrom_sset h.1 (Nat.zero_le _), all_sset h.2 (by simpa)⟩

/-- What a filter keeps of a canonical map is canonical. -/
theorem sortedFrom_filter {m : List (Nat × α)} {b : Nat} (p : Nat × α → Bool) (h : sortedFrom b m = true) :
    sortedFrom b (m.filter p) = true := by
  induction m generalizing b with
  | nil => rfl
  | cons e m ih =>
    obtain ⟨j, x⟩ := e
    simp only [sortedFrom, Bool.and_eq_true, decide_eq_true_eq] at h
    simp only [List.filter_cons]
    split
    · simp only [sortedFrom, Bool.and_eq_true, decide_eq_true_eq]; exact ⟨h.1, ih h.2⟩
    · exact ih (sortedFrom_mono h.2 (by omega))

theorem swf_filter [DecidableEq α] {d : α} {m : List (Nat × α)} (p : Nat × α → Bool) (h : swf d m = true) :
    swf d (m.filter p) = true := by
  simp only [swf, Bool.and_eq_true] at h ⊢
  refine ⟨sortedFrom_filter p h.1, ?_⟩
  rw [List.all_eq_true] at h ⊢
  exact fun e he => h.2 e (List.mem_filter.mp he).1

end Sys2Proof.Laws
end

