-- ==== Sys2Proof/Laws/State.lean ====
section
/-! SUPPORT. What each update of one field of the state leaves of every field: true by definition, for simp. -/

namespace Sys2Proof.Laws

set_option Elab.async false

open Machine

/-! ### modGroup -/

section
variable (s : State) (k : Nat) (f : Group → Group)

@[simp] theorem modGroup_tick : (modGroup s k f).tick = s.tick := rfl
@[simp] theorem modGroup_focus : (modGroup s k f).focus = s.focus := rfl
@[simp] theorem modGroup_env : (modGroup s k f).env = s.env := rfl
@[simp] theorem modGroup_agenda : (modGroup s k f).agenda = s.agenda := rfl
@[simp] theorem modGroup_completion : (modGroup s k f).completion = s.completion := rfl
@[simp] theorem modGroup_refclk : (modGroup s k f).refclk = s.refclk := rfl
@[simp] theorem modGroup_boot : (modGroup s k f).boot = s.boot := rfl
@[simp] theorem modGroup_owner : (modGroup s k f).owner = s.owner := rfl
@[simp] theorem modGroup_ports : (modGroup s k f).ports = s.ports := rfl
@[simp] theorem modGroup_routes : (modGroup s k f).routes = s.routes := rfl
@[simp] theorem modGroup_ckpt : (modGroup s k f).ckpt = s.ckpt := rfl
@[simp] theorem modGroup_featacc : (modGroup s k f).featacc = s.featacc := rfl
@[simp] theorem modGroup_mailbox : (modGroup s k f).mailbox = s.mailbox := rfl
@[simp] theorem modGroup_ctxs : (modGroup s k f).ctxs = s.ctxs := rfl
@[simp] theorem modGroup_queues : (modGroup s k f).queues = s.queues := rfl
@[simp] theorem modGroup_board : (modGroup s k f).board = s.board := rfl
@[simp] theorem modGroup_evring : (modGroup s k f).evring = s.evring := rfl
@[simp] theorem modGroup_msix : (modGroup s k f).msix = s.msix := rfl
@[simp] theorem modGroup_msixTab : (modGroup s k f).msixTab = s.msixTab := rfl
@[simp] theorem modGroup_msixPend : (modGroup s k f).msixPend = s.msixPend := rfl
@[simp] theorem modGroup_saves : (modGroup s k f).saves = s.saves := rfl
@[simp] theorem modGroup_images : (modGroup s k f).images = s.images := rfl
@[simp] theorem modGroup_leases : (modGroup s k f).leases = s.leases := rfl
@[simp] theorem modGroup_drains : (modGroup s k f).drains = s.drains := rfl
@[simp] theorem modGroup_kills : (modGroup s k f).kills = s.kills := rfl
@[simp] theorem modGroup_irons : (modGroup s k f).irons = s.irons := rfl
@[simp] theorem modGroup_fails : (modGroup s k f).fails = s.fails := rfl
@[simp] theorem modGroup_claims : (modGroup s k f).claims = s.claims := rfl
@[simp] theorem modGroup_mem : (modGroup s k f).mem = s.mem := rfl
@[simp] theorem modGroup_poison : (modGroup s k f).poison = s.poison := rfl
@[simp] theorem modGroup_quarantined : (modGroup s k f).quarantined = s.quarantined := rfl
@[simp] theorem modGroup_retired : (modGroup s k f).retired = s.retired := rfl
@[simp] theorem modGroup_sidecar : (modGroup s k f).sidecar = s.sidecar := rfl
@[simp] theorem modGroup_reported : (modGroup s k f).reported = s.reported := rfl
@[simp] theorem modGroup_residency : (modGroup s k f).residency = s.residency := rfl
@[simp] theorem modGroup_units : (modGroup s k f).units = s.units := rfl
@[simp] theorem modGroup_holds : (modGroup s k f).holds = s.holds := rfl
@[simp] theorem modGroup_migration : (modGroup s k f).migration = s.migration := rfl
@[simp] theorem modGroup_parked : (modGroup s k f).parked = s.parked := rfl
@[simp] theorem modGroup_waits : (modGroup s k f).waits = s.waits := rfl
@[simp] theorem modGroup_clusters : (modGroup s k f).clusters = s.clusters := rfl
@[simp] theorem modGroup_cores : (modGroup s k f).cores = s.cores := rfl
@[simp] theorem modGroup_wgs : (modGroup s k f).wgs = s.wgs := rfl
@[simp] theorem modGroup_groups : (modGroup s k f).groups = smod s.groups k f := rfl
@[simp] theorem modGroup_runs : (modGroup s k f).runs = s.runs := rfl
@[simp] theorem modGroup_mx : (modGroup s k f).mx = s.mx := rfl
@[simp] theorem modGroup_cp : (modGroup s k f).cp = s.cp := rfl
@[simp] theorem modGroup_lk : (modGroup s k f).lk = s.lk := rfl
@[simp] theorem modGroup_sw : (modGroup s k f).sw = s.sw := rfl
@[simp] theorem modGroup_sensors : (modGroup s k f).sensors = s.sensors := rfl
@[simp] theorem modGroup_troubles : (modGroup s k f).troubles = s.troubles := rfl
@[simp] theorem modGroup_retries : (modGroup s k f).retries = s.retries := rfl
@[simp] theorem modGroup_hostReads : (modGroup s k f).hostReads = s.hostReads := rfl
@[simp] theorem modGroup_nextOp : (modGroup s k f).nextOp = s.nextOp := rfl

end

/-! ### modWg -/

section
variable (s : State) (k : Nat) (f : Wg → Wg)

@[simp] theorem modWg_tick : (modWg s k f).tick = s.tick := rfl
@[simp] theorem modWg_focus : (modWg s k f).focus = s.focus := rfl
@[simp] theorem modWg_env : (modWg s k f).env = s.env := rfl
@[simp] theorem modWg_agenda : (modWg s k f).agenda = s.agenda := rfl
@[simp] theorem modWg_completion : (modWg s k f).completion = s.completion := rfl
@[simp] theorem modWg_refclk : (modWg s k f).refclk = s.refclk := rfl
@[simp] theorem modWg_boot : (modWg s k f).boot = s.boot := rfl
@[simp] theorem modWg_owner : (modWg s k f).owner = s.owner := rfl
@[simp] theorem modWg_ports : (modWg s k f).ports = s.ports := rfl
@[simp] theorem modWg_routes : (modWg s k f).routes = s.routes := rfl
@[simp] theorem modWg_ckpt : (modWg s k f).ckpt = s.ckpt := rfl
@[simp] theorem modWg_featacc : (modWg s k f).featacc = s.featacc := rfl
@[simp] theorem modWg_mailbox : (modWg s k f).mailbox = s.mailbox := rfl
@[simp] theorem modWg_ctxs : (modWg s k f).ctxs = s.ctxs := rfl
@[simp] theorem modWg_queues : (modWg s k f).queues = s.queues := rfl
@[simp] theorem modWg_board : (modWg s k f).board = s.board := rfl
@[simp] theorem modWg_evring : (modWg s k f).evring = s.evring := rfl
@[simp] theorem modWg_msix : (modWg s k f).msix = s.msix := rfl
@[simp] theorem modWg_msixTab : (modWg s k f).msixTab = s.msixTab := rfl
@[simp] theorem modWg_msixPend : (modWg s k f).msixPend = s.msixPend := rfl
@[simp] theorem modWg_saves : (modWg s k f).saves = s.saves := rfl
@[simp] theorem modWg_images : (modWg s k f).images = s.images := rfl
@[simp] theorem modWg_leases : (modWg s k f).leases = s.leases := rfl
@[simp] theorem modWg_drains : (modWg s k f).drains = s.drains := rfl
@[simp] theorem modWg_kills : (modWg s k f).kills = s.kills := rfl
@[simp] theorem modWg_irons : (modWg s k f).irons = s.irons := rfl
@[simp] theorem modWg_fails : (modWg s k f).fails = s.fails := rfl
@[simp] theorem modWg_claims : (modWg s k f).claims = s.claims := rfl
@[simp] theorem modWg_mem : (modWg s k f).mem = s.mem := rfl
@[simp] theorem modWg_poison : (modWg s k f).poison = s.poison := rfl
@[simp] theorem modWg_quarantined : (modWg s k f).quarantined = s.quarantined := rfl
@[simp] theorem modWg_retired : (modWg s k f).retired = s.retired := rfl
@[simp] theorem modWg_sidecar : (modWg s k f).sidecar = s.sidecar := rfl
@[simp] theorem modWg_reported : (modWg s k f).reported = s.reported := rfl
@[simp] theorem modWg_residency : (modWg s k f).residency = s.residency := rfl
@[simp] theorem modWg_units : (modWg s k f).units = s.units := rfl
@[simp] theorem modWg_holds : (modWg s k f).holds = s.holds := rfl
@[simp] theorem modWg_migration : (modWg s k f).migration = s.migration := rfl
@[simp] theorem modWg_parked : (modWg s k f).parked = s.parked := rfl
@[simp] theorem modWg_waits : (modWg s k f).waits = s.waits := rfl
@[simp] theorem modWg_clusters : (modWg s k f).clusters = s.clusters := rfl
@[simp] theorem modWg_cores : (modWg s k f).cores = s.cores := rfl
@[simp] theorem modWg_wgs : (modWg s k f).wgs = smod s.wgs k f := rfl
@[simp] theorem modWg_groups : (modWg s k f).groups = s.groups := rfl
@[simp] theorem modWg_runs : (modWg s k f).runs = s.runs := rfl
@[simp] theorem modWg_mx : (modWg s k f).mx = s.mx := rfl
@[simp] theorem modWg_cp : (modWg s k f).cp = s.cp := rfl
@[simp] theorem modWg_lk : (modWg s k f).lk = s.lk := rfl
@[simp] theorem modWg_sw : (modWg s k f).sw = s.sw := rfl
@[simp] theorem modWg_sensors : (modWg s k f).sensors = s.sensors := rfl
@[simp] theorem modWg_troubles : (modWg s k f).troubles = s.troubles := rfl
@[simp] theorem modWg_retries : (modWg s k f).retries = s.retries := rfl
@[simp] theorem modWg_hostReads : (modWg s k f).hostReads = s.hostReads := rfl
@[simp] theorem modWg_nextOp : (modWg s k f).nextOp = s.nextOp := rfl

end

/-! ### modRun -/

section
variable (s : State) (k : Nat) (f : Run → Run)

@[simp] theorem modRun_tick : (modRun s k f).tick = s.tick := rfl
@[simp] theorem modRun_focus : (modRun s k f).focus = s.focus := rfl
@[simp] theorem modRun_env : (modRun s k f).env = s.env := rfl
@[simp] theorem modRun_agenda : (modRun s k f).agenda = s.agenda := rfl
@[simp] theorem modRun_completion : (modRun s k f).completion = s.completion := rfl
@[simp] theorem modRun_refclk : (modRun s k f).refclk = s.refclk := rfl
@[simp] theorem modRun_boot : (modRun s k f).boot = s.boot := rfl
@[simp] theorem modRun_owner : (modRun s k f).owner = s.owner := rfl
@[simp] theorem modRun_ports : (modRun s k f).ports = s.ports := rfl
@[simp] theorem modRun_routes : (modRun s k f).routes = s.routes := rfl
@[simp] theorem modRun_ckpt : (modRun s k f).ckpt = s.ckpt := rfl
@[simp] theorem modRun_featacc : (modRun s k f).featacc = s.featacc := rfl
@[simp] theorem modRun_mailbox : (modRun s k f).mailbox = s.mailbox := rfl
@[simp] theorem modRun_ctxs : (modRun s k f).ctxs = s.ctxs := rfl
@[simp] theorem modRun_queues : (modRun s k f).queues = s.queues := rfl
@[simp] theorem modRun_board : (modRun s k f).board = s.board := rfl
@[simp] theorem modRun_evring : (modRun s k f).evring = s.evring := rfl
@[simp] theorem modRun_msix : (modRun s k f).msix = s.msix := rfl
@[simp] theorem modRun_msixTab : (modRun s k f).msixTab = s.msixTab := rfl
@[simp] theorem modRun_msixPend : (modRun s k f).msixPend = s.msixPend := rfl
@[simp] theorem modRun_saves : (modRun s k f).saves = s.saves := rfl
@[simp] theorem modRun_images : (modRun s k f).images = s.images := rfl
@[simp] theorem modRun_leases : (modRun s k f).leases = s.leases := rfl
@[simp] theorem modRun_drains : (modRun s k f).drains = s.drains := rfl
@[simp] theorem modRun_kills : (modRun s k f).kills = s.kills := rfl
@[simp] theorem modRun_irons : (modRun s k f).irons = s.irons := rfl
@[simp] theorem modRun_fails : (modRun s k f).fails = s.fails := rfl
@[simp] theorem modRun_claims : (modRun s k f).claims = s.claims := rfl
@[simp] theorem modRun_mem : (modRun s k f).mem = s.mem := rfl
@[simp] theorem modRun_poison : (modRun s k f).poison = s.poison := rfl
@[simp] theorem modRun_quarantined : (modRun s k f).quarantined = s.quarantined := rfl
@[simp] theorem modRun_retired : (modRun s k f).retired = s.retired := rfl
@[simp] theorem modRun_sidecar : (modRun s k f).sidecar = s.sidecar := rfl
@[simp] theorem modRun_reported : (modRun s k f).reported = s.reported := rfl
@[simp] theorem modRun_residency : (modRun s k f).residency = s.residency := rfl
@[simp] theorem modRun_units : (modRun s k f).units = s.units := rfl
@[simp] theorem modRun_holds : (modRun s k f).holds = s.holds := rfl
@[simp] theorem modRun_migration : (modRun s k f).migration = s.migration := rfl
@[simp] theorem modRun_parked : (modRun s k f).parked = s.parked := rfl
@[simp] theorem modRun_waits : (modRun s k f).waits = s.waits := rfl
@[simp] theorem modRun_clusters : (modRun s k f).clusters = s.clusters := rfl
@[simp] theorem modRun_cores : (modRun s k f).cores = s.cores := rfl
@[simp] theorem modRun_wgs : (modRun s k f).wgs = s.wgs := rfl
@[simp] theorem modRun_groups : (modRun s k f).groups = s.groups := rfl
@[simp] theorem modRun_runs : (modRun s k f).runs = smod s.runs k f := rfl
@[simp] theorem modRun_mx : (modRun s k f).mx = s.mx := rfl
@[simp] theorem modRun_cp : (modRun s k f).cp = s.cp := rfl
@[simp] theorem modRun_lk : (modRun s k f).lk = s.lk := rfl
@[simp] theorem modRun_sw : (modRun s k f).sw = s.sw := rfl
@[simp] theorem modRun_sensors : (modRun s k f).sensors = s.sensors := rfl
@[simp] theorem modRun_troubles : (modRun s k f).troubles = s.troubles := rfl
@[simp] theorem modRun_retries : (modRun s k f).retries = s.retries := rfl
@[simp] theorem modRun_hostReads : (modRun s k f).hostReads = s.hostReads := rfl
@[simp] theorem modRun_nextOp : (modRun s k f).nextOp = s.nextOp := rfl

end

/-! ### modMx -/

section
variable (s : State) (k : Nat) (f : MxSt → MxSt)

@[simp] theorem modMx_tick : (modMx s k f).tick = s.tick := rfl
@[simp] theorem modMx_focus : (modMx s k f).focus = s.focus := rfl
@[simp] theorem modMx_env : (modMx s k f).env = s.env := rfl
@[simp] theorem modMx_agenda : (modMx s k f).agenda = s.agenda := rfl
@[simp] theorem modMx_completion : (modMx s k f).completion = s.completion := rfl
@[simp] theorem modMx_refclk : (modMx s k f).refclk = s.refclk := rfl
@[simp] theorem modMx_boot : (modMx s k f).boot = s.boot := rfl
@[simp] theorem modMx_owner : (modMx s k f).owner = s.owner := rfl
@[simp] theorem modMx_ports : (modMx s k f).ports = s.ports := rfl
@[simp] theorem modMx_routes : (modMx s k f).routes = s.routes := rfl
@[simp] theorem modMx_ckpt : (modMx s k f).ckpt = s.ckpt := rfl
@[simp] theorem modMx_featacc : (modMx s k f).featacc = s.featacc := rfl
@[simp] theorem modMx_mailbox : (modMx s k f).mailbox = s.mailbox := rfl
@[simp] theorem modMx_ctxs : (modMx s k f).ctxs = s.ctxs := rfl
@[simp] theorem modMx_queues : (modMx s k f).queues = s.queues := rfl
@[simp] theorem modMx_board : (modMx s k f).board = s.board := rfl
@[simp] theorem modMx_evring : (modMx s k f).evring = s.evring := rfl
@[simp] theorem modMx_msix : (modMx s k f).msix = s.msix := rfl
@[simp] theorem modMx_msixTab : (modMx s k f).msixTab = s.msixTab := rfl
@[simp] theorem modMx_msixPend : (modMx s k f).msixPend = s.msixPend := rfl
@[simp] theorem modMx_saves : (modMx s k f).saves = s.saves := rfl
@[simp] theorem modMx_images : (modMx s k f).images = s.images := rfl
@[simp] theorem modMx_leases : (modMx s k f).leases = s.leases := rfl
@[simp] theorem modMx_drains : (modMx s k f).drains = s.drains := rfl
@[simp] theorem modMx_kills : (modMx s k f).kills = s.kills := rfl
@[simp] theorem modMx_irons : (modMx s k f).irons = s.irons := rfl
@[simp] theorem modMx_fails : (modMx s k f).fails = s.fails := rfl
@[simp] theorem modMx_claims : (modMx s k f).claims = s.claims := rfl
@[simp] theorem modMx_mem : (modMx s k f).mem = s.mem := rfl
@[simp] theorem modMx_poison : (modMx s k f).poison = s.poison := rfl
@[simp] theorem modMx_quarantined : (modMx s k f).quarantined = s.quarantined := rfl
@[simp] theorem modMx_retired : (modMx s k f).retired = s.retired := rfl
@[simp] theorem modMx_sidecar : (modMx s k f).sidecar = s.sidecar := rfl
@[simp] theorem modMx_reported : (modMx s k f).reported = s.reported := rfl
@[simp] theorem modMx_residency : (modMx s k f).residency = s.residency := rfl
@[simp] theorem modMx_units : (modMx s k f).units = s.units := rfl
@[simp] theorem modMx_holds : (modMx s k f).holds = s.holds := rfl
@[simp] theorem modMx_migration : (modMx s k f).migration = s.migration := rfl
@[simp] theorem modMx_parked : (modMx s k f).parked = s.parked := rfl
@[simp] theorem modMx_waits : (modMx s k f).waits = s.waits := rfl
@[simp] theorem modMx_clusters : (modMx s k f).clusters = s.clusters := rfl
@[simp] theorem modMx_cores : (modMx s k f).cores = s.cores := rfl
@[simp] theorem modMx_wgs : (modMx s k f).wgs = s.wgs := rfl
@[simp] theorem modMx_groups : (modMx s k f).groups = s.groups := rfl
@[simp] theorem modMx_runs : (modMx s k f).runs = s.runs := rfl
@[simp] theorem modMx_mx : (modMx s k f).mx = sput MxSt.reset s.mx k (f (sget MxSt.reset s.mx k)) := rfl
@[simp] theorem modMx_cp : (modMx s k f).cp = s.cp := rfl
@[simp] theorem modMx_lk : (modMx s k f).lk = s.lk := rfl
@[simp] theorem modMx_sw : (modMx s k f).sw = s.sw := rfl
@[simp] theorem modMx_sensors : (modMx s k f).sensors = s.sensors := rfl
@[simp] theorem modMx_troubles : (modMx s k f).troubles = s.troubles := rfl
@[simp] theorem modMx_retries : (modMx s k f).retries = s.retries := rfl
@[simp] theorem modMx_hostReads : (modMx s k f).hostReads = s.hostReads := rfl
@[simp] theorem modMx_nextOp : (modMx s k f).nextOp = s.nextOp := rfl

end

/-! ### modSw -/

section
variable (s : State) (k : Nat) (f : SwSt → SwSt)

@[simp] theorem modSw_tick : (modSw s k f).tick = s.tick := rfl
@[simp] theorem modSw_focus : (modSw s k f).focus = s.focus := rfl
@[simp] theorem modSw_env : (modSw s k f).env = s.env := rfl
@[simp] theorem modSw_agenda : (modSw s k f).agenda = s.agenda := rfl
@[simp] theorem modSw_completion : (modSw s k f).completion = s.completion := rfl
@[simp] theorem modSw_refclk : (modSw s k f).refclk = s.refclk := rfl
@[simp] theorem modSw_boot : (modSw s k f).boot = s.boot := rfl
@[simp] theorem modSw_owner : (modSw s k f).owner = s.owner := rfl
@[simp] theorem modSw_ports : (modSw s k f).ports = s.ports := rfl
@[simp] theorem modSw_routes : (modSw s k f).routes = s.routes := rfl
@[simp] theorem modSw_ckpt : (modSw s k f).ckpt = s.ckpt := rfl
@[simp] theorem modSw_featacc : (modSw s k f).featacc = s.featacc := rfl
@[simp] theorem modSw_mailbox : (modSw s k f).mailbox = s.mailbox := rfl
@[simp] theorem modSw_ctxs : (modSw s k f).ctxs = s.ctxs := rfl
@[simp] theorem modSw_queues : (modSw s k f).queues = s.queues := rfl
@[simp] theorem modSw_board : (modSw s k f).board = s.board := rfl
@[simp] theorem modSw_evring : (modSw s k f).evring = s.evring := rfl
@[simp] theorem modSw_msix : (modSw s k f).msix = s.msix := rfl
@[simp] theorem modSw_msixTab : (modSw s k f).msixTab = s.msixTab := rfl
@[simp] theorem modSw_msixPend : (modSw s k f).msixPend = s.msixPend := rfl
@[simp] theorem modSw_saves : (modSw s k f).saves = s.saves := rfl
@[simp] theorem modSw_images : (modSw s k f).images = s.images := rfl
@[simp] theorem modSw_leases : (modSw s k f).leases = s.leases := rfl
@[simp] theorem modSw_drains : (modSw s k f).drains = s.drains := rfl
@[simp] theorem modSw_kills : (modSw s k f).kills = s.kills := rfl
@[simp] theorem modSw_irons : (modSw s k f).irons = s.irons := rfl
@[simp] theorem modSw_fails : (modSw s k f).fails = s.fails := rfl
@[simp] theorem modSw_claims : (modSw s k f).claims = s.claims := rfl
@[simp] theorem modSw_mem : (modSw s k f).mem = s.mem := rfl
@[simp] theorem modSw_poison : (modSw s k f).poison = s.poison := rfl
@[simp] theorem modSw_quarantined : (modSw s k f).quarantined = s.quarantined := rfl
@[simp] theorem modSw_retired : (modSw s k f).retired = s.retired := rfl
@[simp] theorem modSw_sidecar : (modSw s k f).sidecar = s.sidecar := rfl
@[simp] theorem modSw_reported : (modSw s k f).reported = s.reported := rfl
@[simp] theorem modSw_residency : (modSw s k f).residency = s.residency := rfl
@[simp] theorem modSw_units : (modSw s k f).units = s.units := rfl
@[simp] theorem modSw_holds : (modSw s k f).holds = s.holds := rfl
@[simp] theorem modSw_migration : (modSw s k f).migration = s.migration := rfl
@[simp] theorem modSw_parked : (modSw s k f).parked = s.parked := rfl
@[simp] theorem modSw_waits : (modSw s k f).waits = s.waits := rfl
@[simp] theorem modSw_clusters : (modSw s k f).clusters = s.clusters := rfl
@[simp] theorem modSw_cores : (modSw s k f).cores = s.cores := rfl
@[simp] theorem modSw_wgs : (modSw s k f).wgs = s.wgs := rfl
@[simp] theorem modSw_groups : (modSw s k f).groups = s.groups := rfl
@[simp] theorem modSw_runs : (modSw s k f).runs = s.runs := rfl
@[simp] theorem modSw_mx : (modSw s k f).mx = s.mx := rfl
@[simp] theorem modSw_cp : (modSw s k f).cp = s.cp := rfl
@[simp] theorem modSw_lk : (modSw s k f).lk = s.lk := rfl
@[simp] theorem modSw_sw : (modSw s k f).sw = sput SwSt.reset s.sw k (f (sget SwSt.reset s.sw k)) := rfl
@[simp] theorem modSw_sensors : (modSw s k f).sensors = s.sensors := rfl
@[simp] theorem modSw_troubles : (modSw s k f).troubles = s.troubles := rfl
@[simp] theorem modSw_retries : (modSw s k f).retries = s.retries := rfl
@[simp] theorem modSw_hostReads : (modSw s k f).hostReads = s.hostReads := rfl
@[simp] theorem modSw_nextOp : (modSw s k f).nextOp = s.nextOp := rfl

end

/-! ### modCtx -/

section
variable (s : State) (k : Nat) (f : Ctx → Ctx)

@[simp] theorem modCtx_tick : (modCtx s k f).tick = s.tick := rfl
@[simp] theorem modCtx_focus : (modCtx s k f).focus = s.focus := rfl
@[simp] theorem modCtx_env : (modCtx s k f).env = s.env := rfl
@[simp] theorem modCtx_agenda : (modCtx s k f).agenda = s.agenda := rfl
@[simp] theorem modCtx_completion : (modCtx s k f).completion = s.completion := rfl
@[simp] theorem modCtx_refclk : (modCtx s k f).refclk = s.refclk := rfl
@[simp] theorem modCtx_boot : (modCtx s k f).boot = s.boot := rfl
@[simp] theorem modCtx_owner : (modCtx s k f).owner = s.owner := rfl
@[simp] theorem modCtx_ports : (modCtx s k f).ports = s.ports := rfl
@[simp] theorem modCtx_routes : (modCtx s k f).routes = s.routes := rfl
@[simp] theorem modCtx_ckpt : (modCtx s k f).ckpt = s.ckpt := rfl
@[simp] theorem modCtx_featacc : (modCtx s k f).featacc = s.featacc := rfl
@[simp] theorem modCtx_mailbox : (modCtx s k f).mailbox = s.mailbox := rfl
@[simp] theorem modCtx_ctxs : (modCtx s k f).ctxs = smod s.ctxs k f := rfl
@[simp] theorem modCtx_queues : (modCtx s k f).queues = s.queues := rfl
@[simp] theorem modCtx_board : (modCtx s k f).board = s.board := rfl
@[simp] theorem modCtx_evring : (modCtx s k f).evring = s.evring := rfl
@[simp] theorem modCtx_msix : (modCtx s k f).msix = s.msix := rfl
@[simp] theorem modCtx_msixTab : (modCtx s k f).msixTab = s.msixTab := rfl
@[simp] theorem modCtx_msixPend : (modCtx s k f).msixPend = s.msixPend := rfl
@[simp] theorem modCtx_saves : (modCtx s k f).saves = s.saves := rfl
@[simp] theorem modCtx_images : (modCtx s k f).images = s.images := rfl
@[simp] theorem modCtx_leases : (modCtx s k f).leases = s.leases := rfl
@[simp] theorem modCtx_drains : (modCtx s k f).drains = s.drains := rfl
@[simp] theorem modCtx_kills : (modCtx s k f).kills = s.kills := rfl
@[simp] theorem modCtx_irons : (modCtx s k f).irons = s.irons := rfl
@[simp] theorem modCtx_fails : (modCtx s k f).fails = s.fails := rfl
@[simp] theorem modCtx_claims : (modCtx s k f).claims = s.claims := rfl
@[simp] theorem modCtx_mem : (modCtx s k f).mem = s.mem := rfl
@[simp] theorem modCtx_poison : (modCtx s k f).poison = s.poison := rfl
@[simp] theorem modCtx_quarantined : (modCtx s k f).quarantined = s.quarantined := rfl
@[simp] theorem modCtx_retired : (modCtx s k f).retired = s.retired := rfl
@[simp] theorem modCtx_sidecar : (modCtx s k f).sidecar = s.sidecar := rfl
@[simp] theorem modCtx_reported : (modCtx s k f).reported = s.reported := rfl
@[simp] theorem modCtx_residency : (modCtx s k f).residency = s.residency := rfl
@[simp] theorem modCtx_units : (modCtx s k f).units = s.units := rfl
@[simp] theorem modCtx_holds : (modCtx s k f).holds = s.holds := rfl
@[simp] theorem modCtx_migration : (modCtx s k f).migration = s.migration := rfl
@[simp] theorem modCtx_parked : (modCtx s k f).parked = s.parked := rfl
@[simp] theorem modCtx_waits : (modCtx s k f).waits = s.waits := rfl
@[simp] theorem modCtx_clusters : (modCtx s k f).clusters = s.clusters := rfl
@[simp] theorem modCtx_cores : (modCtx s k f).cores = s.cores := rfl
@[simp] theorem modCtx_wgs : (modCtx s k f).wgs = s.wgs := rfl
@[simp] theorem modCtx_groups : (modCtx s k f).groups = s.groups := rfl
@[simp] theorem modCtx_runs : (modCtx s k f).runs = s.runs := rfl
@[simp] theorem modCtx_mx : (modCtx s k f).mx = s.mx := rfl
@[simp] theorem modCtx_cp : (modCtx s k f).cp = s.cp := rfl
@[simp] theorem modCtx_lk : (modCtx s k f).lk = s.lk := rfl
@[simp] theorem modCtx_sw : (modCtx s k f).sw = s.sw := rfl
@[simp] theorem modCtx_sensors : (modCtx s k f).sensors = s.sensors := rfl
@[simp] theorem modCtx_troubles : (modCtx s k f).troubles = s.troubles := rfl
@[simp] theorem modCtx_retries : (modCtx s k f).retries = s.retries := rfl
@[simp] theorem modCtx_hostReads : (modCtx s k f).hostReads = s.hostReads := rfl
@[simp] theorem modCtx_nextOp : (modCtx s k f).nextOp = s.nextOp := rfl

end

/-! ### modQueue -/

section
variable (s : State) (k : Nat) (f : Queue → Queue)

@[simp] theorem modQueue_tick : (modQueue s k f).tick = s.tick := rfl
@[simp] theorem modQueue_focus : (modQueue s k f).focus = s.focus := rfl
@[simp] theorem modQueue_env : (modQueue s k f).env = s.env := rfl
@[simp] theorem modQueue_agenda : (modQueue s k f).agenda = s.agenda := rfl
@[simp] theorem modQueue_completion : (modQueue s k f).completion = s.completion := rfl
@[simp] theorem modQueue_refclk : (modQueue s k f).refclk = s.refclk := rfl
@[simp] theorem modQueue_boot : (modQueue s k f).boot = s.boot := rfl
@[simp] theorem modQueue_owner : (modQueue s k f).owner = s.owner := rfl
@[simp] theorem modQueue_ports : (modQueue s k f).ports = s.ports := rfl
@[simp] theorem modQueue_routes : (modQueue s k f).routes = s.routes := rfl
@[simp] theorem modQueue_ckpt : (modQueue s k f).ckpt = s.ckpt := rfl
@[simp] theorem modQueue_featacc : (modQueue s k f).featacc = s.featacc := rfl
@[simp] theorem modQueue_mailbox : (modQueue s k f).mailbox = s.mailbox := rfl
@[simp] theorem modQueue_ctxs : (modQueue s k f).ctxs = s.ctxs := rfl
@[simp] theorem modQueue_queues : (modQueue s k f).queues = smod s.queues k f := rfl
@[simp] theorem modQueue_board : (modQueue s k f).board = s.board := rfl
@[simp] theorem modQueue_evring : (modQueue s k f).evring = s.evring := rfl
@[simp] theorem modQueue_msix : (modQueue s k f).msix = s.msix := rfl
@[simp] theorem modQueue_msixTab : (modQueue s k f).msixTab = s.msixTab := rfl
@[simp] theorem modQueue_msixPend : (modQueue s k f).msixPend = s.msixPend := rfl
@[simp] theorem modQueue_saves : (modQueue s k f).saves = s.saves := rfl
@[simp] theorem modQueue_images : (modQueue s k f).images = s.images := rfl
@[simp] theorem modQueue_leases : (modQueue s k f).leases = s.leases := rfl
@[simp] theorem modQueue_drains : (modQueue s k f).drains = s.drains := rfl
@[simp] theorem modQueue_kills : (modQueue s k f).kills = s.kills := rfl
@[simp] theorem modQueue_irons : (modQueue s k f).irons = s.irons := rfl
@[simp] theorem modQueue_fails : (modQueue s k f).fails = s.fails := rfl
@[simp] theorem modQueue_claims : (modQueue s k f).claims = s.claims := rfl
@[simp] theorem modQueue_mem : (modQueue s k f).mem = s.mem := rfl
@[simp] theorem modQueue_poison : (modQueue s k f).poison = s.poison := rfl
@[simp] theorem modQueue_quarantined : (modQueue s k f).quarantined = s.quarantined := rfl
@[simp] theorem modQueue_retired : (modQueue s k f).retired = s.retired := rfl
@[simp] theorem modQueue_sidecar : (modQueue s k f).sidecar = s.sidecar := rfl
@[simp] theorem modQueue_reported : (modQueue s k f).reported = s.reported := rfl
@[simp] theorem modQueue_residency : (modQueue s k f).residency = s.residency := rfl
@[simp] theorem modQueue_units : (modQueue s k f).units = s.units := rfl
@[simp] theorem modQueue_holds : (modQueue s k f).holds = s.holds := rfl
@[simp] theorem modQueue_migration : (modQueue s k f).migration = s.migration := rfl
@[simp] theorem modQueue_parked : (modQueue s k f).parked = s.parked := rfl
@[simp] theorem modQueue_waits : (modQueue s k f).waits = s.waits := rfl
@[simp] theorem modQueue_clusters : (modQueue s k f).clusters = s.clusters := rfl
@[simp] theorem modQueue_cores : (modQueue s k f).cores = s.cores := rfl
@[simp] theorem modQueue_wgs : (modQueue s k f).wgs = s.wgs := rfl
@[simp] theorem modQueue_groups : (modQueue s k f).groups = s.groups := rfl
@[simp] theorem modQueue_runs : (modQueue s k f).runs = s.runs := rfl
@[simp] theorem modQueue_mx : (modQueue s k f).mx = s.mx := rfl
@[simp] theorem modQueue_cp : (modQueue s k f).cp = s.cp := rfl
@[simp] theorem modQueue_lk : (modQueue s k f).lk = s.lk := rfl
@[simp] theorem modQueue_sw : (modQueue s k f).sw = s.sw := rfl
@[simp] theorem modQueue_sensors : (modQueue s k f).sensors = s.sensors := rfl
@[simp] theorem modQueue_troubles : (modQueue s k f).troubles = s.troubles := rfl
@[simp] theorem modQueue_retries : (modQueue s k f).retries = s.retries := rfl
@[simp] theorem modQueue_hostReads : (modQueue s k f).hostReads = s.hostReads := rfl
@[simp] theorem modQueue_nextOp : (modQueue s k f).nextOp = s.nextOp := rfl

end

/-! ### modRec -/

section
variable (s : State) (k : Nat) (f : LaunchRec → LaunchRec)

@[simp] theorem modRec_tick : (modRec s k f).tick = s.tick := rfl
@[simp] theorem modRec_focus : (modRec s k f).focus = s.focus := rfl
@[simp] theorem modRec_env : (modRec s k f).env = s.env := rfl
@[simp] theorem modRec_agenda : (modRec s k f).agenda = s.agenda := rfl
@[simp] theorem modRec_completion : (modRec s k f).completion = s.completion := rfl
@[simp] theorem modRec_refclk : (modRec s k f).refclk = s.refclk := rfl
@[simp] theorem modRec_boot : (modRec s k f).boot = s.boot := rfl
@[simp] theorem modRec_owner : (modRec s k f).owner = s.owner := rfl
@[simp] theorem modRec_ports : (modRec s k f).ports = s.ports := rfl
@[simp] theorem modRec_routes : (modRec s k f).routes = s.routes := rfl
@[simp] theorem modRec_ckpt : (modRec s k f).ckpt = s.ckpt := rfl
@[simp] theorem modRec_featacc : (modRec s k f).featacc = s.featacc := rfl
@[simp] theorem modRec_mailbox : (modRec s k f).mailbox = s.mailbox := rfl
@[simp] theorem modRec_ctxs : (modRec s k f).ctxs = s.ctxs := rfl
@[simp] theorem modRec_queues : (modRec s k f).queues = s.queues := rfl
@[simp] theorem modRec_board : (modRec s k f).board = smod s.board k f := rfl
@[simp] theorem modRec_evring : (modRec s k f).evring = s.evring := rfl
@[simp] theorem modRec_msix : (modRec s k f).msix = s.msix := rfl
@[simp] theorem modRec_msixTab : (modRec s k f).msixTab = s.msixTab := rfl
@[simp] theorem modRec_msixPend : (modRec s k f).msixPend = s.msixPend := rfl
@[simp] theorem modRec_saves : (modRec s k f).saves = s.saves := rfl
@[simp] theorem modRec_images : (modRec s k f).images = s.images := rfl
@[simp] theorem modRec_leases : (modRec s k f).leases = s.leases := rfl
@[simp] theorem modRec_drains : (modRec s k f).drains = s.drains := rfl
@[simp] theorem modRec_kills : (modRec s k f).kills = s.kills := rfl
@[simp] theorem modRec_irons : (modRec s k f).irons = s.irons := rfl
@[simp] theorem modRec_fails : (modRec s k f).fails = s.fails := rfl
@[simp] theorem modRec_claims : (modRec s k f).claims = s.claims := rfl
@[simp] theorem modRec_mem : (modRec s k f).mem = boardImage (smod s.board k f) k s.mem := rfl
@[simp] theorem modRec_poison : (modRec s k f).poison = s.poison := rfl
@[simp] theorem modRec_quarantined : (modRec s k f).quarantined = s.quarantined := rfl
@[simp] theorem modRec_retired : (modRec s k f).retired = s.retired := rfl
@[simp] theorem modRec_sidecar : (modRec s k f).sidecar = s.sidecar := rfl
@[simp] theorem modRec_reported : (modRec s k f).reported = s.reported := rfl
@[simp] theorem modRec_residency : (modRec s k f).residency = s.residency := rfl
@[simp] theorem modRec_units : (modRec s k f).units = s.units := rfl
@[simp] theorem modRec_holds : (modRec s k f).holds = s.holds := rfl
@[simp] theorem modRec_migration : (modRec s k f).migration = s.migration := rfl
@[simp] theorem modRec_parked : (modRec s k f).parked = s.parked := rfl
@[simp] theorem modRec_waits : (modRec s k f).waits = s.waits := rfl
@[simp] theorem modRec_clusters : (modRec s k f).clusters = s.clusters := rfl
@[simp] theorem modRec_cores : (modRec s k f).cores = s.cores := rfl
@[simp] theorem modRec_wgs : (modRec s k f).wgs = s.wgs := rfl
@[simp] theorem modRec_groups : (modRec s k f).groups = s.groups := rfl
@[simp] theorem modRec_runs : (modRec s k f).runs = s.runs := rfl
@[simp] theorem modRec_mx : (modRec s k f).mx = s.mx := rfl
@[simp] theorem modRec_cp : (modRec s k f).cp = s.cp := rfl
@[simp] theorem modRec_lk : (modRec s k f).lk = s.lk := rfl
@[simp] theorem modRec_sw : (modRec s k f).sw = s.sw := rfl
@[simp] theorem modRec_sensors : (modRec s k f).sensors = s.sensors := rfl
@[simp] theorem modRec_troubles : (modRec s k f).troubles = s.troubles := rfl
@[simp] theorem modRec_retries : (modRec s k f).retries = s.retries := rfl
@[simp] theorem modRec_hostReads : (modRec s k f).hostReads = s.hostReads := rfl
@[simp] theorem modRec_nextOp : (modRec s k f).nextOp = s.nextOp := rfl

end

/-! ### modCore -/

section
variable (s : State) (k : Nat) (f : CoreSt → CoreSt)

@[simp] theorem modCore_tick : (modCore s k f).tick = s.tick := rfl
@[simp] theorem modCore_focus : (modCore s k f).focus = s.focus := rfl
@[simp] theorem modCore_env : (modCore s k f).env = s.env := rfl
@[simp] theorem modCore_agenda : (modCore s k f).agenda = s.agenda := rfl
@[simp] theorem modCore_completion : (modCore s k f).completion = s.completion := rfl
@[simp] theorem modCore_refclk : (modCore s k f).refclk = s.refclk := rfl
@[simp] theorem modCore_boot : (modCore s k f).boot = s.boot := rfl
@[simp] theorem modCore_owner : (modCore s k f).owner = s.owner := rfl
@[simp] theorem modCore_ports : (modCore s k f).ports = s.ports := rfl
@[simp] theorem modCore_routes : (modCore s k f).routes = s.routes := rfl
@[simp] theorem modCore_ckpt : (modCore s k f).ckpt = s.ckpt := rfl
@[simp] theorem modCore_featacc : (modCore s k f).featacc = s.featacc := rfl
@[simp] theorem modCore_mailbox : (modCore s k f).mailbox = s.mailbox := rfl
@[simp] theorem modCore_ctxs : (modCore s k f).ctxs = s.ctxs := rfl
@[simp] theorem modCore_queues : (modCore s k f).queues = s.queues := rfl
@[simp] theorem modCore_board : (modCore s k f).board = s.board := rfl
@[simp] theorem modCore_evring : (modCore s k f).evring = s.evring := rfl
@[simp] theorem modCore_msix : (modCore s k f).msix = s.msix := rfl
@[simp] theorem modCore_msixTab : (modCore s k f).msixTab = s.msixTab := rfl
@[simp] theorem modCore_msixPend : (modCore s k f).msixPend = s.msixPend := rfl
@[simp] theorem modCore_saves : (modCore s k f).saves = s.saves := rfl
@[simp] theorem modCore_images : (modCore s k f).images = s.images := rfl
@[simp] theorem modCore_leases : (modCore s k f).leases = s.leases := rfl
@[simp] theorem modCore_drains : (modCore s k f).drains = s.drains := rfl
@[simp] theorem modCore_kills : (modCore s k f).kills = s.kills := rfl
@[simp] theorem modCore_irons : (modCore s k f).irons = s.irons := rfl
@[simp] theorem modCore_fails : (modCore s k f).fails = s.fails := rfl
@[simp] theorem modCore_claims : (modCore s k f).claims = s.claims := rfl
@[simp] theorem modCore_mem : (modCore s k f).mem = s.mem := rfl
@[simp] theorem modCore_poison : (modCore s k f).poison = s.poison := rfl
@[simp] theorem modCore_quarantined : (modCore s k f).quarantined = s.quarantined := rfl
@[simp] theorem modCore_retired : (modCore s k f).retired = s.retired := rfl
@[simp] theorem modCore_sidecar : (modCore s k f).sidecar = s.sidecar := rfl
@[simp] theorem modCore_reported : (modCore s k f).reported = s.reported := rfl
@[simp] theorem modCore_residency : (modCore s k f).residency = s.residency := rfl
@[simp] theorem modCore_units : (modCore s k f).units = s.units := rfl
@[simp] theorem modCore_holds : (modCore s k f).holds = s.holds := rfl
@[simp] theorem modCore_migration : (modCore s k f).migration = s.migration := rfl
@[simp] theorem modCore_parked : (modCore s k f).parked = s.parked := rfl
@[simp] theorem modCore_waits : (modCore s k f).waits = s.waits := rfl
@[simp] theorem modCore_clusters : (modCore s k f).clusters = s.clusters := rfl
@[simp] theorem modCore_cores : (modCore s k f).cores = sput CoreSt.reset s.cores k (f (coreSt s k)) := rfl
@[simp] theorem modCore_wgs : (modCore s k f).wgs = s.wgs := rfl
@[simp] theorem modCore_groups : (modCore s k f).groups = s.groups := rfl
@[simp] theorem modCore_runs : (modCore s k f).runs = s.runs := rfl
@[simp] theorem modCore_mx : (modCore s k f).mx = s.mx := rfl
@[simp] theorem modCore_cp : (modCore s k f).cp = s.cp := rfl
@[simp] theorem modCore_lk : (modCore s k f).lk = s.lk := rfl
@[simp] theorem modCore_sw : (modCore s k f).sw = s.sw := rfl
@[simp] theorem modCore_sensors : (modCore s k f).sensors = s.sensors := rfl
@[simp] theorem modCore_troubles : (modCore s k f).troubles = s.troubles := rfl
@[simp] theorem modCore_retries : (modCore s k f).retries = s.retries := rfl
@[simp] theorem modCore_hostReads : (modCore s k f).hostReads = s.hostReads := rfl
@[simp] theorem modCore_nextOp : (modCore s k f).nextOp = s.nextOp := rfl

end

/-! ### modCluster -/

section
variable (s : State) (k : Nat) (f : ClusterSt → ClusterSt)

@[simp] theorem modCluster_tick : (modCluster s k f).tick = s.tick := rfl
@[simp] theorem modCluster_focus : (modCluster s k f).focus = s.focus := rfl
@[simp] theorem modCluster_env : (modCluster s k f).env = s.env := rfl
@[simp] theorem modCluster_agenda : (modCluster s k f).agenda = s.agenda := rfl
@[simp] theorem modCluster_completion : (modCluster s k f).completion = s.completion := rfl
@[simp] theorem modCluster_refclk : (modCluster s k f).refclk = s.refclk := rfl
@[simp] theorem modCluster_boot : (modCluster s k f).boot = s.boot := rfl
@[simp] theorem modCluster_owner : (modCluster s k f).owner = s.owner := rfl
@[simp] theorem modCluster_ports : (modCluster s k f).ports = s.ports := rfl
@[simp] theorem modCluster_routes : (modCluster s k f).routes = s.routes := rfl
@[simp] theorem modCluster_ckpt : (modCluster s k f).ckpt = s.ckpt := rfl
@[simp] theorem modCluster_featacc : (modCluster s k f).featacc = s.featacc := rfl
@[simp] theorem modCluster_mailbox : (modCluster s k f).mailbox = s.mailbox := rfl
@[simp] theorem modCluster_ctxs : (modCluster s k f).ctxs = s.ctxs := rfl
@[simp] theorem modCluster_queues : (modCluster s k f).queues = s.queues := rfl
@[simp] theorem modCluster_board : (modCluster s k f).board = s.board := rfl
@[simp] theorem modCluster_evring : (modCluster s k f).evring = s.evring := rfl
@[simp] theorem modCluster_msix : (modCluster s k f).msix = s.msix := rfl
@[simp] theorem modCluster_msixTab : (modCluster s k f).msixTab = s.msixTab := rfl
@[simp] theorem modCluster_msixPend : (modCluster s k f).msixPend = s.msixPend := rfl
@[simp] theorem modCluster_saves : (modCluster s k f).saves = s.saves := rfl
@[simp] theorem modCluster_images : (modCluster s k f).images = s.images := rfl
@[simp] theorem modCluster_leases : (modCluster s k f).leases = s.leases := rfl
@[simp] theorem modCluster_drains : (modCluster s k f).drains = s.drains := rfl
@[simp] theorem modCluster_kills : (modCluster s k f).kills = s.kills := rfl
@[simp] theorem modCluster_irons : (modCluster s k f).irons = s.irons := rfl
@[simp] theorem modCluster_fails : (modCluster s k f).fails = s.fails := rfl
@[simp] theorem modCluster_claims : (modCluster s k f).claims = s.claims := rfl
@[simp] theorem modCluster_mem : (modCluster s k f).mem = s.mem := rfl
@[simp] theorem modCluster_poison : (modCluster s k f).poison = s.poison := rfl
@[simp] theorem modCluster_quarantined : (modCluster s k f).quarantined = s.quarantined := rfl
@[simp] theorem modCluster_retired : (modCluster s k f).retired = s.retired := rfl
@[simp] theorem modCluster_sidecar : (modCluster s k f).sidecar = s.sidecar := rfl
@[simp] theorem modCluster_reported : (modCluster s k f).reported = s.reported := rfl
@[simp] theorem modCluster_residency : (modCluster s k f).residency = s.residency := rfl
@[simp] theorem modCluster_units : (modCluster s k f).units = s.units := rfl
@[simp] theorem modCluster_holds : (modCluster s k f).holds = s.holds := rfl
@[simp] theorem modCluster_migration : (modCluster s k f).migration = s.migration := rfl
@[simp] theorem modCluster_parked : (modCluster s k f).parked = s.parked := rfl
@[simp] theorem modCluster_waits : (modCluster s k f).waits = s.waits := rfl
@[simp] theorem modCluster_clusters : (modCluster s k f).clusters = sput ClusterSt.reset s.clusters k (f (clusterSt s k)) := rfl
@[simp] theorem modCluster_cores : (modCluster s k f).cores = s.cores := rfl
@[simp] theorem modCluster_wgs : (modCluster s k f).wgs = s.wgs := rfl
@[simp] theorem modCluster_groups : (modCluster s k f).groups = s.groups := rfl
@[simp] theorem modCluster_runs : (modCluster s k f).runs = s.runs := rfl
@[simp] theorem modCluster_mx : (modCluster s k f).mx = s.mx := rfl
@[simp] theorem modCluster_cp : (modCluster s k f).cp = s.cp := rfl
@[simp] theorem modCluster_lk : (modCluster s k f).lk = s.lk := rfl
@[simp] theorem modCluster_sw : (modCluster s k f).sw = s.sw := rfl
@[simp] theorem modCluster_sensors : (modCluster s k f).sensors = s.sensors := rfl
@[simp] theorem modCluster_troubles : (modCluster s k f).troubles = s.troubles := rfl
@[simp] theorem modCluster_retries : (modCluster s k f).retries = s.retries := rfl
@[simp] theorem modCluster_hostReads : (modCluster s k f).hostReads = s.hostReads := rfl
@[simp] theorem modCluster_nextOp : (modCluster s k f).nextOp = s.nextOp := rfl

end

/-! ### memPut -/

section
variable (s : State) (k : Nat) (bs : List Byte)

@[simp] theorem memPut_tick : (memPut s k bs).tick = s.tick := rfl
@[simp] theorem memPut_focus : (memPut s k bs).focus = s.focus := rfl
@[simp] theorem memPut_env : (memPut s k bs).env = s.env := rfl
@[simp] theorem memPut_agenda : (memPut s k bs).agenda = s.agenda := rfl
@[simp] theorem memPut_completion : (memPut s k bs).completion = s.completion := rfl
@[simp] theorem memPut_refclk : (memPut s k bs).refclk = s.refclk := rfl
@[simp] theorem memPut_boot : (memPut s k bs).boot = s.boot := rfl
@[simp] theorem memPut_owner : (memPut s k bs).owner = s.owner := rfl
@[simp] theorem memPut_ports : (memPut s k bs).ports = s.ports := rfl
@[simp] theorem memPut_routes : (memPut s k bs).routes = s.routes := rfl
@[simp] theorem memPut_ckpt : (memPut s k bs).ckpt = s.ckpt := rfl
@[simp] theorem memPut_featacc : (memPut s k bs).featacc = s.featacc := rfl
@[simp] theorem memPut_mailbox : (memPut s k bs).mailbox = s.mailbox := rfl
@[simp] theorem memPut_ctxs : (memPut s k bs).ctxs = s.ctxs := rfl
@[simp] theorem memPut_queues : (memPut s k bs).queues = s.queues := rfl
@[simp] theorem memPut_board : (memPut s k bs).board = s.board := rfl
@[simp] theorem memPut_evring : (memPut s k bs).evring = s.evring := rfl
@[simp] theorem memPut_msix : (memPut s k bs).msix = s.msix := rfl
@[simp] theorem memPut_msixTab : (memPut s k bs).msixTab = s.msixTab := rfl
@[simp] theorem memPut_msixPend : (memPut s k bs).msixPend = s.msixPend := rfl
@[simp] theorem memPut_saves : (memPut s k bs).saves = s.saves := rfl
@[simp] theorem memPut_images : (memPut s k bs).images = s.images := rfl
@[simp] theorem memPut_leases : (memPut s k bs).leases = s.leases := rfl
@[simp] theorem memPut_drains : (memPut s k bs).drains = s.drains := rfl
@[simp] theorem memPut_kills : (memPut s k bs).kills = s.kills := rfl
@[simp] theorem memPut_irons : (memPut s k bs).irons = s.irons := rfl
@[simp] theorem memPut_fails : (memPut s k bs).fails = s.fails := rfl
@[simp] theorem memPut_claims : (memPut s k bs).claims = s.claims := rfl
@[simp] theorem memPut_mem : (memPut s k bs).mem = putBytes s.mem k bs := rfl
@[simp] theorem memPut_poison : (memPut s k bs).poison = s.poison := rfl
@[simp] theorem memPut_quarantined : (memPut s k bs).quarantined = s.quarantined := rfl
@[simp] theorem memPut_retired : (memPut s k bs).retired = s.retired := rfl
@[simp] theorem memPut_sidecar : (memPut s k bs).sidecar = s.sidecar := rfl
@[simp] theorem memPut_reported : (memPut s k bs).reported = s.reported := rfl
@[simp] theorem memPut_residency : (memPut s k bs).residency = s.residency := rfl
@[simp] theorem memPut_units : (memPut s k bs).units = s.units := rfl
@[simp] theorem memPut_holds : (memPut s k bs).holds = s.holds := rfl
@[simp] theorem memPut_migration : (memPut s k bs).migration = s.migration := rfl
@[simp] theorem memPut_parked : (memPut s k bs).parked = s.parked := rfl
@[simp] theorem memPut_waits : (memPut s k bs).waits = s.waits := rfl
@[simp] theorem memPut_clusters : (memPut s k bs).clusters = s.clusters := rfl
@[simp] theorem memPut_cores : (memPut s k bs).cores = s.cores := rfl
@[simp] theorem memPut_wgs : (memPut s k bs).wgs = s.wgs := rfl
@[simp] theorem memPut_groups : (memPut s k bs).groups = s.groups := rfl
@[simp] theorem memPut_runs : (memPut s k bs).runs = s.runs := rfl
@[simp] theorem memPut_mx : (memPut s k bs).mx = s.mx := rfl
@[simp] theorem memPut_cp : (memPut s k bs).cp = s.cp := rfl
@[simp] theorem memPut_lk : (memPut s k bs).lk = s.lk := rfl
@[simp] theorem memPut_sw : (memPut s k bs).sw = s.sw := rfl
@[simp] theorem memPut_sensors : (memPut s k bs).sensors = s.sensors := rfl
@[simp] theorem memPut_troubles : (memPut s k bs).troubles = s.troubles := rfl
@[simp] theorem memPut_retries : (memPut s k bs).retries = s.retries := rfl
@[simp] theorem memPut_hostReads : (memPut s k bs).hostReads = s.hostReads := rfl
@[simp] theorem memPut_nextOp : (memPut s k bs).nextOp = s.nextOp := rfl

end

/-! ### raiseMsix -/

section
variable (s : State) (k : Nat)

@[simp] theorem raiseMsix_tick : (raiseMsix s k).tick = s.tick := rfl
@[simp] theorem raiseMsix_focus : (raiseMsix s k).focus = s.focus := rfl
@[simp] theorem raiseMsix_env : (raiseMsix s k).env = s.env := rfl
@[simp] theorem raiseMsix_agenda : (raiseMsix s k).agenda = s.agenda := rfl
@[simp] theorem raiseMsix_completion : (raiseMsix s k).completion = s.completion := rfl
@[simp] theorem raiseMsix_refclk : (raiseMsix s k).refclk = s.refclk := rfl
@[simp] theorem raiseMsix_boot : (raiseMsix s k).boot = s.boot := rfl
@[simp] theorem raiseMsix_owner : (raiseMsix s k).owner = s.owner := rfl
@[simp] theorem raiseMsix_ports : (raiseMsix s k).ports = s.ports := rfl
@[simp] theorem raiseMsix_routes : (raiseMsix s k).routes = s.routes := rfl
@[simp] theorem raiseMsix_ckpt : (raiseMsix s k).ckpt = s.ckpt := rfl
@[simp] theorem raiseMsix_featacc : (raiseMsix s k).featacc = s.featacc := rfl
@[simp] theorem raiseMsix_mailbox : (raiseMsix s k).mailbox = s.mailbox := rfl
@[simp] theorem raiseMsix_ctxs : (raiseMsix s k).ctxs = s.ctxs := rfl
@[simp] theorem raiseMsix_queues : (raiseMsix s k).queues = s.queues := rfl
@[simp] theorem raiseMsix_board : (raiseMsix s k).board = s.board := rfl
@[simp] theorem raiseMsix_evring : (raiseMsix s k).evring = s.evring := rfl
@[simp] theorem raiseMsix_msix : (raiseMsix s k).msix = sset s.msix k (sget 0 s.msix k + 1) := rfl
@[simp] theorem raiseMsix_msixTab : (raiseMsix s k).msixTab = s.msixTab := rfl
@[simp] theorem raiseMsix_msixPend : (raiseMsix s k).msixPend = if vectorMasked s k then nsAdd s.msixPend k else s.msixPend := rfl
@[simp] theorem raiseMsix_saves : (raiseMsix s k).saves = s.saves := rfl
@[simp] theorem raiseMsix_images : (raiseMsix s k).images = s.images := rfl
@[simp] theorem raiseMsix_leases : (raiseMsix s k).leases = s.leases := rfl
@[simp] theorem raiseMsix_drains : (raiseMsix s k).drains = s.drains := rfl
@[simp] theorem raiseMsix_kills : (raiseMsix s k).kills = s.kills := rfl
@[simp] theorem raiseMsix_irons : (raiseMsix s k).irons = s.irons := rfl
@[simp] theorem raiseMsix_fails : (raiseMsix s k).fails = s.fails := rfl
@[simp] theorem raiseMsix_claims : (raiseMsix s k).claims = s.claims := rfl
@[simp] theorem raiseMsix_mem : (raiseMsix s k).mem = s.mem := rfl
@[simp] theorem raiseMsix_poison : (raiseMsix s k).poison = s.poison := rfl
@[simp] theorem raiseMsix_quarantined : (raiseMsix s k).quarantined = s.quarantined := rfl
@[simp] theorem raiseMsix_retired : (raiseMsix s k).retired = s.retired := rfl
@[simp] theorem raiseMsix_sidecar : (raiseMsix s k).sidecar = s.sidecar := rfl
@[simp] theorem raiseMsix_reported : (raiseMsix s k).reported = s.reported := rfl
@[simp] theorem raiseMsix_residency : (raiseMsix s k).residency = s.residency := rfl
@[simp] theorem raiseMsix_units : (raiseMsix s k).units = s.units := rfl
@[simp] theorem raiseMsix_holds : (raiseMsix s k).holds = s.holds := rfl
@[simp] theorem raiseMsix_migration : (raiseMsix s k).migration = s.migration := rfl
@[simp] theorem raiseMsix_parked : (raiseMsix s k).parked = s.parked := rfl
@[simp] theorem raiseMsix_waits : (raiseMsix s k).waits = s.waits := rfl
@[simp] theorem raiseMsix_clusters : (raiseMsix s k).clusters = s.clusters := rfl
@[simp] theorem raiseMsix_cores : (raiseMsix s k).cores = s.cores := rfl
@[simp] theorem raiseMsix_wgs : (raiseMsix s k).wgs = s.wgs := rfl
@[simp] theorem raiseMsix_groups : (raiseMsix s k).groups = s.groups := rfl
@[simp] theorem raiseMsix_runs : (raiseMsix s k).runs = s.runs := rfl
@[simp] theorem raiseMsix_mx : (raiseMsix s k).mx = s.mx := rfl
@[simp] theorem raiseMsix_cp : (raiseMsix s k).cp = s.cp := rfl
@[simp] theorem raiseMsix_lk : (raiseMsix s k).lk = s.lk := rfl
@[simp] theorem raiseMsix_sw : (raiseMsix s k).sw = s.sw := rfl
@[simp] theorem raiseMsix_sensors : (raiseMsix s k).sensors = s.sensors := rfl
@[simp] theorem raiseMsix_troubles : (raiseMsix s k).troubles = s.troubles := rfl
@[simp] theorem raiseMsix_retries : (raiseMsix s k).retries = s.retries := rfl
@[simp] theorem raiseMsix_hostReads : (raiseMsix s k).hostReads = s.hostReads := rfl
@[simp] theorem raiseMsix_nextOp : (raiseMsix s k).nextOp = s.nextOp := rfl

end

/-! ### putRec -/

section
variable (s : State) (k : Nat) (x : LaunchRec)

@[simp] theorem putRec_tick : (putRec s k x).tick = s.tick := rfl
@[simp] theorem putRec_focus : (putRec s k x).focus = s.focus := rfl
@[simp] theorem putRec_env : (putRec s k x).env = s.env := rfl
@[simp] theorem putRec_agenda : (putRec s k x).agenda = s.agenda := rfl
@[simp] theorem putRec_completion : (putRec s k x).completion = s.completion := rfl
@[simp] theorem putRec_refclk : (putRec s k x).refclk = s.refclk := rfl
@[simp] theorem putRec_boot : (putRec s k x).boot = s.boot := rfl
@[simp] theorem putRec_owner : (putRec s k x).owner = s.owner := rfl
@[simp] theorem putRec_ports : (putRec s k x).ports = s.ports := rfl
@[simp] theorem putRec_routes : (putRec s k x).routes = s.routes := rfl
@[simp] theorem putRec_ckpt : (putRec s k x).ckpt = s.ckpt := rfl
@[simp] theorem putRec_featacc : (putRec s k x).featacc = s.featacc := rfl
@[simp] theorem putRec_mailbox : (putRec s k x).mailbox = s.mailbox := rfl
@[simp] theorem putRec_ctxs : (putRec s k x).ctxs = s.ctxs := rfl
@[simp] theorem putRec_queues : (putRec s k x).queues = s.queues := rfl
@[simp] theorem putRec_board : (putRec s k x).board = sset s.board k x := rfl
@[simp] theorem putRec_evring : (putRec s k x).evring = s.evring := rfl
@[simp] theorem putRec_msix : (putRec s k x).msix = s.msix := rfl
@[simp] theorem putRec_msixTab : (putRec s k x).msixTab = s.msixTab := rfl
@[simp] theorem putRec_msixPend : (putRec s k x).msixPend = s.msixPend := rfl
@[simp] theorem putRec_saves : (putRec s k x).saves = s.saves := rfl
@[simp] theorem putRec_images : (putRec s k x).images = s.images := rfl
@[simp] theorem putRec_leases : (putRec s k x).leases = s.leases := rfl
@[simp] theorem putRec_drains : (putRec s k x).drains = s.drains := rfl
@[simp] theorem putRec_kills : (putRec s k x).kills = s.kills := rfl
@[simp] theorem putRec_irons : (putRec s k x).irons = s.irons := rfl
@[simp] theorem putRec_fails : (putRec s k x).fails = s.fails := rfl
@[simp] theorem putRec_claims : (putRec s k x).claims = s.claims := rfl
@[simp] theorem putRec_mem : (putRec s k x).mem = boardImage (sset s.board k x) k s.mem := rfl
@[simp] theorem putRec_poison : (putRec s k x).poison = s.poison := rfl
@[simp] theorem putRec_quarantined : (putRec s k x).quarantined = s.quarantined := rfl
@[simp] theorem putRec_retired : (putRec s k x).retired = s.retired := rfl
@[simp] theorem putRec_sidecar : (putRec s k x).sidecar = s.sidecar := rfl
@[simp] theorem putRec_reported : (putRec s k x).reported = s.reported := rfl
@[simp] theorem putRec_residency : (putRec s k x).residency = s.residency := rfl
@[simp] theorem putRec_units : (putRec s k x).units = s.units := rfl
@[simp] theorem putRec_holds : (putRec s k x).holds = s.holds := rfl
@[simp] theorem putRec_migration : (putRec s k x).migration = s.migration := rfl
@[simp] theorem putRec_parked : (putRec s k x).parked = s.parked := rfl
@[simp] theorem putRec_waits : (putRec s k x).waits = s.waits := rfl
@[simp] theorem putRec_clusters : (putRec s k x).clusters = s.clusters := rfl
@[simp] theorem putRec_cores : (putRec s k x).cores = s.cores := rfl
@[simp] theorem putRec_wgs : (putRec s k x).wgs = s.wgs := rfl
@[simp] theorem putRec_groups : (putRec s k x).groups = s.groups := rfl
@[simp] theorem putRec_runs : (putRec s k x).runs = s.runs := rfl
@[simp] theorem putRec_mx : (putRec s k x).mx = s.mx := rfl
@[simp] theorem putRec_cp : (putRec s k x).cp = s.cp := rfl
@[simp] theorem putRec_lk : (putRec s k x).lk = s.lk := rfl
@[simp] theorem putRec_sw : (putRec s k x).sw = s.sw := rfl
@[simp] theorem putRec_sensors : (putRec s k x).sensors = s.sensors := rfl
@[simp] theorem putRec_troubles : (putRec s k x).troubles = s.troubles := rfl
@[simp] theorem putRec_retries : (putRec s k x).retries = s.retries := rfl
@[simp] theorem putRec_hostReads : (putRec s k x).hostReads = s.hostReads := rfl
@[simp] theorem putRec_nextOp : (putRec s k x).nextOp = s.nextOp := rfl

end

/-! ### freeRec -/

section
variable (s : State) (k : Nat)

@[simp] theorem freeRec_tick : (freeRec s k).tick = s.tick := rfl
@[simp] theorem freeRec_focus : (freeRec s k).focus = s.focus := rfl
@[simp] theorem freeRec_env : (freeRec s k).env = s.env := rfl
@[simp] theorem freeRec_agenda : (freeRec s k).agenda = s.agenda := rfl
@[simp] theorem freeRec_completion : (freeRec s k).completion = s.completion := rfl
@[simp] theorem freeRec_refclk : (freeRec s k).refclk = s.refclk := rfl
@[simp] theorem freeRec_boot : (freeRec s k).boot = s.boot := rfl
@[simp] theorem freeRec_owner : (freeRec s k).owner = s.owner := rfl
@[simp] theorem freeRec_ports : (freeRec s k).ports = s.ports := rfl
@[simp] theorem freeRec_routes : (freeRec s k).routes = s.routes := rfl
@[simp] theorem freeRec_ckpt : (freeRec s k).ckpt = s.ckpt := rfl
@[simp] theorem freeRec_featacc : (freeRec s k).featacc = s.featacc := rfl
@[simp] theorem freeRec_mailbox : (freeRec s k).mailbox = s.mailbox := rfl
@[simp] theorem freeRec_ctxs : (freeRec s k).ctxs = s.ctxs := rfl
@[simp] theorem freeRec_queues : (freeRec s k).queues = s.queues := rfl
@[simp] theorem freeRec_board : (freeRec s k).board = sdel s.board k := rfl
@[simp] theorem freeRec_evring : (freeRec s k).evring = s.evring := rfl
@[simp] theorem freeRec_msix : (freeRec s k).msix = s.msix := rfl
@[simp] theorem freeRec_msixTab : (freeRec s k).msixTab = s.msixTab := rfl
@[simp] theorem freeRec_msixPend : (freeRec s k).msixPend = s.msixPend := rfl
@[simp] theorem freeRec_saves : (freeRec s k).saves = s.saves := rfl
@[simp] theorem freeRec_images : (freeRec s k).images = s.images := rfl
@[simp] theorem freeRec_leases : (freeRec s k).leases = s.leases := rfl
@[simp] theorem freeRec_drains : (freeRec s k).drains = s.drains := rfl
@[simp] theorem freeRec_kills : (freeRec s k).kills = s.kills := rfl
@[simp] theorem freeRec_irons : (freeRec s k).irons = s.irons := rfl
@[simp] theorem freeRec_fails : (freeRec s k).fails = s.fails := rfl
@[simp] theorem freeRec_claims : (freeRec s k).claims = s.claims := rfl
@[simp] theorem freeRec_mem : (freeRec s k).mem = freeImage s.mem k := rfl
@[simp] theorem freeRec_poison : (freeRec s k).poison = s.poison := rfl
@[simp] theorem freeRec_quarantined : (freeRec s k).quarantined = s.quarantined := rfl
@[simp] theorem freeRec_retired : (freeRec s k).retired = s.retired := rfl
@[simp] theorem freeRec_sidecar : (freeRec s k).sidecar = s.sidecar := rfl
@[simp] theorem freeRec_reported : (freeRec s k).reported = s.reported := rfl
@[simp] theorem freeRec_residency : (freeRec s k).residency = s.residency := rfl
@[simp] theorem freeRec_units : (freeRec s k).units = s.units := rfl
@[simp] theorem freeRec_holds : (freeRec s k).holds = s.holds := rfl
@[simp] theorem freeRec_migration : (freeRec s k).migration = s.migration := rfl
@[simp] theorem freeRec_parked : (freeRec s k).parked = s.parked := rfl
@[simp] theorem freeRec_waits : (freeRec s k).waits = s.waits := rfl
@[simp] theorem freeRec_clusters : (freeRec s k).clusters = s.clusters := rfl
@[simp] theorem freeRec_cores : (freeRec s k).cores = s.cores := rfl
@[simp] theorem freeRec_wgs : (freeRec s k).wgs = s.wgs := rfl
@[simp] theorem freeRec_groups : (freeRec s k).groups = s.groups := rfl
@[simp] theorem freeRec_runs : (freeRec s k).runs = s.runs := rfl
@[simp] theorem freeRec_mx : (freeRec s k).mx = s.mx := rfl
@[simp] theorem freeRec_cp : (freeRec s k).cp = s.cp := rfl
@[simp] theorem freeRec_lk : (freeRec s k).lk = s.lk := rfl
@[simp] theorem freeRec_sw : (freeRec s k).sw = s.sw := rfl
@[simp] theorem freeRec_sensors : (freeRec s k).sensors = s.sensors := rfl
@[simp] theorem freeRec_troubles : (freeRec s k).troubles = s.troubles := rfl
@[simp] theorem freeRec_retries : (freeRec s k).retries = s.retries := rfl
@[simp] theorem freeRec_hostReads : (freeRec s k).hostReads = s.hostReads := rfl
@[simp] theorem freeRec_nextOp : (freeRec s k).nextOp = s.nextOp := rfl

end

end Sys2Proof.Laws
end

