-- ==== Sys2Proof/Laws/Issue.lean ====
section
/-! SUPPORT. What issue does (R325), and what a fixed-latency result changes (R218). -/

namespace Sys2Proof.Laws

open Machine

/-- The context is of the state: its run, group and workgroup are the ones found. -/
theorem cxOf_spec {s : State} {cx : Cx} (h : cxOf s = some cx) :
    sfind s.runs cx.rk = some cx.run ∧ sfind s.groups cx.gk = some cx.g ∧ sfind s.wgs cx.wk = some cx.w := by
  unfold cxOf at h
  repeat' split at h
  all_goals first | (simp at h; done) | skip
  simp only [Option.some.injEq] at h
  subst h
  exact ⟨by assumption, by assumption, by assumption⟩

/-- An instruction that is ready has its effect. -/
theorem issue_ready {f : Form} {h : Hdr} {cx : Cx} {s : State} (r : Ready f h cx s) (eff : Cx → State → State) :
    issue f h eff s = .next (eff cx (ticked s)) := by
  have hroom : (decide (h.f.toNat < 12) && decide (63 ≤ flagCount cx.g h.f.toNat)) = false := by
    have := r.room
    simp only [Bool.and_eq_false_iff, decide_eq_false_iff_not]
    omega
  simp only [issue, r.focus, issueIn, r.clean, r.checks, r.free, r.sound, Option.isSome, Bool.false_and, hroom, ticked,
    Bool.false_eq_true, if_false]

/-! ### Landing -/

theorem landSys_regs (num : Nat) (x : W32) (g : Group) :
    (landSys num x g).vreg = g.vreg ∧ (landSys num x g).sreg = g.sreg ∧ (landSys num x g).preds = g.preds := by
  unfold landSys
  grind [onLanes]

/-- What a landing write does to the registers of a group. -/
theorem landGroup_vreg (w : Wr) (g : Group) (n l : Nat) :
    vreg (landGroup w g) n l = match w with
      | .v r k x => if n * 32 + l = r * 32 + k then x else vreg g n l
      | _ => vreg g n l := by
  cases w <;> simp only [landGroup, vreg, vkey]
  · rw [sget_sput]; congr 1; simp [Nat.mul_comm]
  · split <;> rfl
  · rw [(landSys_regs _ _ _).1]

theorem landGroup_sreg (w : Wr) (g : Group) (n : Nat) :
    sreg (landGroup w g) n = match w with
      | .s r x => if n = r then x else sreg g n
      | _ => sreg g n := by
  cases w <;> simp only [landGroup, sreg]
  · rw [sget_sput]
  · split <;> rfl
  · rw [(landSys_regs _ _ _).2.1]

theorem landGroup_preds (w : Wr) (g : Group) :
    (landGroup w g).preds = match w with
      | .p n m b => if n = 7 then g.preds else modAt g.preds n fun p => (p &&& ~~~m) ||| (b &&& m)
      | _ => g.preds := by
  cases w <;> simp only [landGroup]
  · split <;> rfl
  · rw [(landSys_regs _ _ _).2.2]

/-! ### What a list of writes gives -/

/-- The last value a list of writes gives a vector register of a lane, a scalar register. -/
def lastV (ws : List Wr) (n l : Nat) : Option W32 :=
  ws.foldl (fun a w => match w with | .v r k x => if n * 32 + l = r * 32 + k then some x else a | _ => a) none

def lastS (ws : List Wr) (n : Nat) : Option W32 :=
  ws.foldl (fun a w => match w with | .s r x => if n = r then some x else a | _ => a) none

def lastP (ws : List Wr) (ps : List Mask) : List Mask :=
  ws.foldl (fun ps w => match w with
    | .p n m b => if n = 7 then ps else modAt ps n fun p => (p &&& ~~~m) ||| (b &&& m)
    | _ => ps) ps

theorem foldl_vreg (ws : List Wr) (g : Group) (n l : Nat) :
    vreg (ws.foldl (fun g w => landGroup w g) g) n l = (lastV ws n l).getD (vreg g n l) := by
  have key : ∀ (ws : List Wr) (g : Group) (a : Option W32) (y : W32), vreg g n l = a.getD y →
      vreg (ws.foldl (fun g w => landGroup w g) g) n l =
        (ws.foldl (fun a w => match w with | .v r k x => if n * 32 + l = r * 32 + k then some x else a | _ => a) a).getD y := by
    intro ws
    induction ws with
    | nil => intro g a y h; exact h
    | cons w ws ih =>
      intro g a y h
      simp only [List.foldl_cons]
      apply ih
      rw [landGroup_vreg]
      cases w <;> simp only [] <;> first | exact h | skip
      split <;> simp [h]
  exact key ws g none _ rfl

theorem foldl_sreg (ws : List Wr) (g : Group) (n : Nat) :
    sreg (ws.foldl (fun g w => landGroup w g) g) n = (lastS ws n).getD (sreg g n) := by
  have key : ∀ (ws : List Wr) (g : Group) (a : Option W32) (y : W32), sreg g n = a.getD y →
      sreg (ws.foldl (fun g w => landGroup w g) g) n =
        (ws.foldl (fun a w => match w with | .s r x => if n = r then some x else a | _ => a) a).getD y := by
    intro ws
    induction ws with
    | nil => intro g a y h; exact h
    | cons w ws ih =>
      intro g a y h
      simp only [List.foldl_cons]
      apply ih
      rw [landGroup_sreg]
      cases w <;> simp only [] <;> first | exact h | skip
      split <;> simp [h]
  exact key ws g none _ rfl

theorem foldl_preds (ws : List Wr) (g : Group) :
    (ws.foldl (fun g w => landGroup w g) g).preds = lastP ws g.preds := by
  unfold lastP
  induction ws generalizing g with
  | nil => rfl
  | cons w ws ih => simp only [List.foldl_cons]; rw [ih, landGroup_preds]

/-- Landing the pending writes, then others: the registers depend on those of the group alone. -/
theorem foldl_pend (ps : List (Nat × Wr)) (g : Group) :
    ps.foldl (fun g e => landGroup e.2 g) g = (ps.map fun e => e.2).foldl (fun g w => landGroup w g) g := by
  induction ps generalizing g with
  | nil => rfl
  | cons e ps ih => simp only [List.foldl_cons, List.map_cons]; exact ih _

/-- A state that differs from one with the writes `ws` pending in the run of the context only as `Wrote` allows. -/
theorem wrote_of {cx : Cx} {s t : State} {n : Nat} {ws : List Wr} {r r' : Run} {g g' : Group}
    (hr : sfind s.runs cx.rk = some r) (hr' : sfind t.runs cx.rk = some r')
    (hg : sfind s.groups cx.gk = some g) (hg' : sfind t.groups cx.gk = some g')
    (hpend : (r'.pend.map fun e => e.2) = (r.pend.map fun e => e.2) ++ ws)
    (hrun : { r' with pend := r.pend, cycle := r.cycle } = r)
    (hgrp : { g' with ops := g.ops } = drawn cx n g)
    (hops : (g'.ops.map fun o => { o with clobbered := [] }) = g.ops.map fun o => { o with clobbered := [] })
    (hruns : ∀ k, k ≠ cx.rk → sfind t.runs k = sfind s.runs k)
    (hgroups : ∀ k, k ≠ cx.gk → sfind t.groups k = sfind s.groups k)
    (hrest : { t with tick := s.tick, runs := s.runs, groups := s.groups } = s) :
    Wrote cx s t n (lastV ws) (lastS ws) (lastP ws) := by
  have hdr : (drawn cx n g).vreg = g.vreg ∧ (drawn cx n g).sreg = g.sreg ∧ (drawn cx n g).preds = g.preds := by
    cases n <;> simp [drawn, onLanes]
  have e1 : g'.vreg = g.vreg := by rw [← hdr.1, ← hgrp]
  have e2 : g'.sreg = g.sreg := by rw [← hdr.2.1, ← hgrp]
  have e3 : g'.preds = g.preds := by rw [← hdr.2.2, ← hgrp]
  have ls : landed cx s = (r.pend.map fun e => e.2).foldl (fun g w => landGroup w g) g := by
    simp [landed, runIn, groupIn, hr, hg, foldl_pend]
  have lt : landed cx t = ws.foldl (fun g w => landGroup w g) ((r.pend.map fun e => e.2).foldl (fun g w => landGroup w g) g') := by
    simp [landed, runIn, groupIn, hr', hg', foldl_pend, hpend]
  refine ⟨?_, ?_, ?_, ⟨g, g', hg, hg', hgrp, hops⟩, ⟨r, r', hr, hr', hrun⟩, hruns, hgroups, hrest⟩
  · intro k l _
    rw [lt, ls, foldl_vreg, foldl_vreg, foldl_vreg]
    simp only [vreg, e1]
  · intro k
    rw [lt, ls, foldl_sreg, foldl_sreg, foldl_sreg]
    simp only [sreg, e2]
  · rw [lt, ls, foldl_preds, foldl_preds, foldl_preds, e3]

/-- A state that a result is written to: as at issue, but for the draw counter, the run's cycle and `n` draws. -/
structure Base (cx : Cx) (s b : State) (n : Nat) : Prop where
  run : ∃ c, sfind b.runs cx.rk = some { cx.run with cycle := c }
  group : sfind b.groups cx.gk = some (drawn cx n cx.g)
  runs : ∀ k, k ≠ cx.rk → sfind b.runs k = sfind s.runs k
  groups : ∀ k, k ≠ cx.gk → sfind b.groups k = sfind s.groups k
  rest : { b with tick := s.tick, runs := s.runs, groups := s.groups } = s

theorem base_ticked {cx : Cx} {s : State} (hc : cxOf s = some cx) : Base cx s (ticked s) 0 :=
  ⟨⟨cx.run.cycle, (cxOf_spec hc).1⟩, (cxOf_spec hc).2.1, fun _ _ => rfl, fun _ _ => rfl, rfl⟩

theorem base_takeCycles {cx : Cx} {s b : State} {n : Nat} (h : Base cx s b n) (k : Nat) : Base cx s (takeCycles cx k b) n := by
  obtain ⟨⟨c, hr⟩, hg, h1, h2, h3⟩ := h
  refine ⟨⟨c + (k - 1), by simp [takeCycles, hr]⟩, hg, ?_, h2, ?_⟩
  · intro j hj; simp [takeCycles, sfind_smod_ne _ _ hj, h1 j hj]
  · exact h3

theorem base_takeDraws {cx : Cx} {s b : State} (h : Base cx s b 0) (x : Rnd) (n : Nat) :
    Base cx s (takeDraws cx x n b) (if x = .rs then n else 0) := by
  obtain ⟨hr, hg, h1, h2, h3⟩ := h
  cases x <;> cases n <;> simp only [takeDraws] <;> first | exact ⟨hr, hg, h1, h2, h3⟩ | skip
  rename_i n
  refine ⟨hr, by simp [hg, drawn], h1, ?_, h3⟩
  intro j hj; simp [sfind_smod_ne _ _ hj, h2 j hj]

/-- What fixWrites does: the writes join the run's pending ones, and nothing else changes but marks on outstanding
operations (R218, R221). -/
theorem fixWrites_wrote {cx : Cx} {s b : State} {n : Nat} (hc : cxOf s = some cx) (h : Base cx s b n) (ws : List Wr) :
    Wrote cx s (fixWrites cx ws b) n (lastV ws) (lastS ws) (lastP ws) := by
  obtain ⟨hr, hg, -⟩ := cxOf_spec hc
  obtain ⟨⟨c, hbr⟩, hbg, h1, h2, h3⟩ := h
  unfold fixWrites
  split
  · refine wrote_of hr (by simp [hbr]; rfl) hg (by simp [hbg]; rfl) ?_ ?_ ?_ ?_ ?_ ?_ ?_
    · simp [Function.comp_def]
    · simp
    · cases n <;> rfl
    · cases n <;> rfl
    · intro k hk; simp [sfind_smod_ne _ _ hk, h1 k hk]
    · intro k hk; simp [h2 k hk]
    · exact h3
  · refine wrote_of hr (by simp [hbr]; rfl) hg (by simp [hbg]; rfl) ?_ ?_ ?_ ?_ ?_ ?_ ?_
    · simp [Function.comp_def]
    · simp
    · cases n <;> rfl
    · cases n <;> simp [drawn, onLanes]
    · intro k hk; simp [sfind_smod_ne _ _ hk, h1 k hk]
    · intro k hk; simp [sfind_smod_ne _ _ hk, h2 k hk]
    · exact h3

/-! ### The writes of a result -/

/-- lastV over a list made lane by lane. -/
theorem lastV_append (ws us : List Wr) (n l : Nat) : lastV (ws ++ us) n l = (lastV us n l).or (lastV ws n l) := by
  unfold lastV
  rw [List.foldl_append]
  generalize List.foldl _ none ws = a
  have : ∀ (us : List Wr) (a b : Option W32),
      us.foldl (fun a w => match w with | .v r k x => if n * 32 + l = r * 32 + k then some x else a | _ => a) (b.or a) =
        (us.foldl (fun a w => match w with | .v r k x => if n * 32 + l = r * 32 + k then some x else a | _ => a) b).or a := by
    intro us
    induction us with
    | nil => intro a b; rfl
    | cons u us ih =>
      intro a b
      simp only [List.foldl_cons]
      rw [← ih]
      congr 1
      cases u <;> simp only [] <;> first | rfl | skip
      split <;> simp
  simpa using this us a none

theorem mem_lanesOf {m : Mask} {l : Nat} : l ∈ lanesOf m ↔ l < 32 ∧ m.getLsbD l = true := by
  simp [lanesOf]

/-- Vector writes, per lane a list of words from a register on: what each register of a lane is given. -/
theorem lastV_lanes (m : Mask) (k w : Nat) (x : Nat → Nat → W32) (n l : Nat) (hl : l < 32) :
    lastV ((lanesOf m).flatMap fun l => (List.range w).map fun j => Wr.v (k + j) l (x l j)) n l =
      if k ≤ n ∧ n < k + w ∧ m.getLsbD l = true then some (x l (n - k)) else none := by
  have inner : ∀ (w : Nat) (i : Nat), i < 32 → lastV ((List.range w).map fun j => Wr.v (k + j) i (x i j)) n l =
      if k ≤ n ∧ n < k + w ∧ i = l then some (x l (n - k)) else none := by
    intro w i hi
    induction w with
    | zero => simp [lastV]; omega
    | succ w ih =>
      rw [List.range_succ, List.map_append, lastV_append, ih]
      simp only [List.map_cons, List.map_nil, lastV, List.foldl_cons, List.foldl_nil]
      by_cases h : n * 32 + l = (k + w) * 32 + i
      · have h1 : n = k + w := by omega
        have h2 : i = l := by omega
        subst h1 h2
        simp
      · rw [if_neg h, Option.none_or]
        have : ¬ (n = k + w ∧ i = l) := by omega
        grind
  have outer : ∀ (ls : List Nat), (∀ i ∈ ls, i < 32) →
      lastV (ls.flatMap fun l => (List.range w).map fun j => Wr.v (k + j) l (x l j)) n l =
        if k ≤ n ∧ n < k + w ∧ l ∈ ls then some (x l (n - k)) else none := by
    intro ls
    induction ls with
    | nil => simp [lastV]
    | cons i ls ih =>
      intro hls
      rw [List.flatMap_cons, lastV_append, ih (fun j hj => hls j (List.mem_cons_of_mem _ hj)), inner w i (hls i (by simp))]
      simp only [List.mem_cons]
      grind
  rw [outer _ (fun i hi => (mem_lanesOf.mp hi).1)]
  simp only [mem_lanesOf, hl, true_and]

/-- Scalar writes of consecutive registers. -/
theorem lastS_words (k w : Nat) (x : Nat → W32) (n : Nat) :
    lastS ((List.range w).map fun j => Wr.s (k + j) (x j)) n = if k ≤ n ∧ n < k + w then some (x (n - k)) else none := by
  induction w with
  | zero => grind [lastS]
  | succ w ih =>
    unfold lastS at ih ⊢
    rw [List.range_succ, List.map_append, List.foldl_append, ih]
    simp only [List.map_cons, List.map_nil, List.foldl_cons, List.foldl_nil]
    by_cases h : n = k + w
    · subst h; simp
    · rw [if_neg h]; grind

/-- Vector writes name no scalar register and no predicate; scalar writes no vector register and no predicate. -/
theorem last_vOnly {ws : List Wr} (h : ∀ w ∈ ws, ∃ r l x, w = .v r l x) (n : Nat) (ps : List Mask) :
    lastS ws n = none ∧ lastP ws ps = ps := by
  induction ws generalizing ps with
  | nil => exact ⟨rfl, rfl⟩
  | cons w ws ih =>
    obtain ⟨r, l, x, rfl⟩ := h w (by simp)
    simpa [lastS, lastP] using ih (fun w hw => h w (List.mem_cons_of_mem _ hw)) ps

theorem last_sOnly {ws : List Wr} (h : ∀ w ∈ ws, ∃ r x, w = .s r x) (n l : Nat) (ps : List Mask) :
    lastV ws n l = none ∧ lastP ws ps = ps := by
  induction ws generalizing ps with
  | nil => exact ⟨rfl, rfl⟩
  | cons w ws ih =>
    obtain ⟨r, x, rfl⟩ := h w (by simp)
    simpa [lastV, lastP] using ih (fun w hw => h w (List.mem_cons_of_mem _ hw)) ps

/-- The writes of a destination field of `w` words. -/
def destWrites (cx : Cx) (d : Opnd) (w : Nat) (x : Nat → Nat → W32) : List Wr :=
  match d with
  | .v k => (lanesOf cx.run.lanes).flatMap fun l => (List.range w).map fun j => .v (k.toNat + j) l (x l j)
  | .s k => (List.range w).map fun j => .s (k.toNat + j) (x (elected cx) j)
  | _ => []

theorem wr32_eq (cx : Cx) (d : Opnd) (f : Nat → W32) : wr32 cx d cx.run.lanes f = destWrites cx d 1 fun l _ => f l := by
  cases d <;> simp [wr32, destWrites, List.map_eq_flatMap]

theorem wr64_eq (cx : Cx) (d : Opnd) (f : Nat → W64) : wr64 cx d cx.run.lanes f = destWrites cx d 2 fun l => halves (f l) := by
  cases d <;> simp [wr64, destWrites, halves, List.range_succ]

/-- What a destination field's writes give. -/
theorem dest_wrote {cx : Cx} {s t : State} {n w : Nat} {d : Opnd} {x : Nat → Nat → W32}
    (h : Wrote cx s t n (lastV (destWrites cx d w x)) (lastS (destWrites cx d w x)) (lastP (destWrites cx d w x))) :
    Wrote cx s t n (toV cx.run.lanes d w x) (toS cx d w x) id := by
  have hv : ∀ k l, l < 32 → lastV (destWrites cx d w x) k l = toV cx.run.lanes d w x k l := by
    intro k l hl
    cases d <;> simp only [destWrites, toV] <;> first | rfl | skip
    · exact lastV_lanes _ _ _ _ _ _ hl
    · exact (last_sOnly (by simp) k l []).1
  have hs : ∀ k, lastS (destWrites cx d w x) k = toS cx d w x k := by
    intro k
    cases d <;> simp only [destWrites, toS] <;> first | rfl | skip
    · exact (last_vOnly (by simp only [List.mem_flatMap, List.mem_map]; rintro _ ⟨_, _, _, _, rfl⟩; exact ⟨_, _, _, rfl⟩) k []).1
    · exact lastS_words _ _ _ _
  have hp : lastP (destWrites cx d w x) = id := by
    funext ps
    cases d <;> simp only [destWrites] <;> first | rfl | skip
    · exact (last_vOnly (by simp only [List.mem_flatMap, List.mem_map]; rintro _ ⟨_, _, _, _, rfl⟩; exact ⟨_, _, _, rfl⟩) 0 ps).2
    · exact (last_sOnly (by simp) 0 0 ps).2
  exact ⟨fun k l hl => by rw [h.vregs k l hl, hv k l hl], fun k => by rw [h.sregs k, hs k], by rw [h.preds, hp], h.group, h.run,
    h.runs, h.groups, h.rest⟩

theorem fixWrites_dest {cx : Cx} {s b : State} {n : Nat} (hc : cxOf s = some cx) (h : Base cx s b n) (d : Opnd) (w : Nat)
    (x : Nat → Nat → W32) :
    Wrote cx s (fixWrites cx (destWrites cx d w x) b) n (toV cx.run.lanes d w x) (toS cx d w x) id :=
  dest_wrote (fixWrites_wrote hc h _)

/-- A 32-bit result. -/
theorem put32_gives {cx : Cx} {s b : State} (hc : cxOf s = some cx) (h : Base cx s b 0) (d : Opnd) (f : Nat → W32) :
    Gives32 cx s d f (.next (put32 cx d f b)) :=
  ⟨_, rfl, by rw [put32, wr32_eq]; exact fixWrites_dest hc h _ _ _⟩

/-- A 64-bit result. -/
theorem put64_gives {cx : Cx} {s b : State} (hc : cxOf s = some cx) (h : Base cx s b 0) (d : Opnd) (f : Nat → W64) :
    Gives64 cx s d f (.next (put64 cx d f b)) :=
  ⟨_, rfl, by rw [put64, wr64_eq]; exact fixWrites_dest hc h _ _ _⟩

/-- A predicate result. -/
theorem wrPred_gives {cx : Cx} {s b : State} (hc : cxOf s = some cx) (h : Base cx s b 0) (d : Opnd) (bits : Mask) :
    GivesPred cx s d bits (.next (fixWrites cx (wrPred cx d bits) b)) := by
  refine ⟨_, rfl, ?_⟩
  have w := fixWrites_wrote hc h (wrPred cx d bits)
  have hv : lastV (wrPred cx d bits) = fun _ _ => none := by
    funext k l; cases d <;> simp [wrPred, lastV]; split <;> rfl
  have hs : lastS (wrPred cx d bits) = fun _ => none := by
    funext k; cases d <;> simp [wrPred, lastS]; split <;> rfl
  have hp : lastP (wrPred cx d bits) = toP cx.run.lanes d bits := by
    funext ps
    cases d <;> simp only [wrPred, lastP, toP] <;> first | rfl | skip
    rename_i n
    by_cases hn : n = 7
    · rw [if_pos hn, if_pos hn]; rfl
    · have : n.toNat ≠ 7 := fun e => hn (BitVec.eq_of_toNat_eq e)
      rw [if_neg hn, if_neg hn]; simp [this]
  rw [hv, hs, hp] at w
  exact w

theorem halves_ofNat (y : Nat) :
    halves (BitVec.ofNat 64 y) 0 = BitVec.ofNat 32 y ∧ halves (BitVec.ofNat 64 y) 1 = BitVec.ofNat 32 (y / 2 ^ 32) := by
  constructor
  · apply BitVec.eq_of_toNat_eq
    simp only [halves, lo32, BitVec.truncate_eq_setWidth]
    simp
  · apply BitVec.eq_of_toNat_eq
    simp only [halves, hi32, BitVec.truncate_eq_setWidth]
    simp
    omega

theorem put32_words {cx : Cx} {s b : State} {n : Nat} (hc : cxOf s = some cx) (h : Base cx s b n) (d : Opnd) (x : Nat → Nat) :
    GivesBits cx s 1 n d x (.next (put32 cx d (fun l => BitVec.ofNat 32 (x l)) b)) := by
  refine ⟨_, rfl, ?_⟩
  have e : wr32 cx d cx.run.lanes (fun l => BitVec.ofNat 32 (x l)) =
      destWrites cx d 1 fun l j => BitVec.ofNat 32 (x l / 2 ^ (32 * j)) := by
    rw [wr32_eq]; cases d <;> simp [destWrites]
  rw [put32, e]
  exact fixWrites_dest hc h _ _ _

theorem put64_words {cx : Cx} {s b : State} {n : Nat} (hc : cxOf s = some cx) (h : Base cx s b n) (d : Opnd) (x : Nat → Nat) :
    GivesBits cx s 2 n d x (.next (put64 cx d (fun l => BitVec.ofNat 64 (x l)) b)) := by
  refine ⟨_, rfl, ?_⟩
  have e : wr64 cx d cx.run.lanes (fun l => BitVec.ofNat 64 (x l)) =
      destWrites cx d 2 fun l j => BitVec.ofNat 32 (x l / 2 ^ (32 * j)) := by
    rw [wr64_eq]; cases d <;> simp [destWrites, List.range_succ, halves_ofNat]
  rw [put64, e]
  exact fixWrites_dest hc h _ _ _

/-- A floating-point result. -/
theorem putFp_gives {cx : Cx} {s b : State} {n : Nat} (hc : cxOf s = some cx) (h : Base cx s b n) (f : FFmt) (d : Opnd)
    (x : Nat → Nat) : GivesFp cx s f n d x (.next (putFp cx f d x b)) := by
  cases f <;> first | exact put64_words hc h d x | exact put32_words hc h d x

/-- A result of a type. -/
theorem putTy_gives {cx : Cx} {s b : State} {n : Nat} (hc : cxOf s = some cx) (h : Base cx s b n) (ty : Ty) (d : Opnd)
    (x : Nat → Nat) : GivesBits cx s (tyWords ty) n d x (.next (putTy cx ty d x b)) := by
  have hw : tyWords ty = 2 ∨ tyWords ty = 1 := by unfold tyWords; split <;> simp
  unfold putTy
  split
  · rename_i h2; rw [h2]; exact put64_words hc h d x
  · rename_i h2; rw [hw.resolve_left h2]; exact put32_words hc h d x

theorem putRed_gives {cx : Cx} {s b : State} (hc : cxOf s = some cx) (h : Base cx s b 0) (c : Nat) (d : Opnd)
    (x : Nat → Nat) : GivesBits cx s (if redWide c then 2 else 1) 0 d x (.next (putRed cx c d x b)) := by
  unfold putRed
  split
  · exact put64_words hc h d x
  · exact put32_words hc h d x

/-! ### Instructions that change the run and the group alone -/

theorem only_of {cx : Cx} {s : State} (hc : cxOf s = some cx) (fr : Run → Run) (fg : Group → Group) :
    Only cx s (modRun (modGroup (ticked s) cx.gk fg) cx.rk fr) (fr cx.run) (fg cx.g) := by
  obtain ⟨hr, hg, -⟩ := cxOf_spec hc
  have hr' : sfind (ticked s).runs cx.rk = some cx.run := hr
  have hg' : sfind (ticked s).groups cx.gk = some cx.g := hg
  refine ⟨by simp [hr'], by simp [hg'], ?_, ?_, rfl⟩
  · intro k hk; simp [sfind_smod_ne _ _ hk, ticked]
  · intro k hk; simp [sfind_smod_ne _ _ hk, ticked]

theorem only_run {cx : Cx} {s : State} (hc : cxOf s = some cx) (fr : Run → Run) :
    Only cx s (modRun (ticked s) cx.rk fr) (fr cx.run) cx.g := by
  obtain ⟨hr, hg, -⟩ := cxOf_spec hc
  have hr' : sfind (ticked s).runs cx.rk = some cx.run := hr
  refine ⟨by simp [hr'], hg, ?_, fun _ _ => rfl, rfl⟩
  intro k hk; simp [sfind_smod_ne _ _ hk, ticked]

theorem only_group {cx : Cx} {s : State} (hc : cxOf s = some cx) (fg : Group → Group) :
    Only cx s (modGroup (ticked s) cx.gk fg) cx.run (fg cx.g) := by
  obtain ⟨hr, hg, -⟩ := cxOf_spec hc
  have hg' : sfind (ticked s).groups cx.gk = some cx.g := hg
  refine ⟨hr, by simp [hg'], fun _ _ => rfl, ?_, rfl⟩
  intro k hk; simp [sfind_smod_ne _ _ hk, ticked]

/-- An exception an instruction records (R236): the run had none. -/
theorem only_raise {cx : Cx} {s : State} (hc : cxOf s = some cx) (clean : cx.run.exc = none) (code taddr : Nat) :
    Only cx s (raiseExc cx code taddr (ticked s)) { cx.run with exc := some ⟨code, cx.run.widx, taddr⟩ } cx.g := by
  have := only_run hc fun r => match r.exc with
    | some _ => r
    | none => { r with exc := some ⟨code, r.widx, taddr⟩ }
  simp only [clean] at this
  exact this

/-! ### Instructions whose effect is one result -/

/-- An instruction that is ready and writes a 32-bit result gives it. -/
theorem issue_put32 {f : Form} {h : Hdr} {cx : Cx} {s : State} {d : Opnd} {x : Cx → State → Nat → W32} {y : Nat → W32}
    (r : Ready f h cx s) (e : ∀ l, x cx (ticked s) l = y l) :
    Gives32 cx s d y (issue f h (fun cx s => put32 cx d (x cx s) s) s) := by
  rw [issue_ready r, show x cx (ticked s) = y from funext e]
  exact put32_gives r.focus (base_ticked r.focus) _ _

theorem issue_put64 {f : Form} {h : Hdr} {cx : Cx} {s : State} {d : Opnd} {x : Cx → State → Nat → W64} {y : Nat → W64}
    (r : Ready f h cx s) (e : ∀ l, x cx (ticked s) l = y l) :
    Gives64 cx s d y (issue f h (fun cx s => put64 cx d (x cx s) s) s) := by
  rw [issue_ready r, show x cx (ticked s) = y from funext e]
  exact put64_gives r.focus (base_ticked r.focus) _ _

end Sys2Proof.Laws
end

