-- ==== Sys2Proof/Laws/Memory.lean ====
section
/-! SUPPORT. Every operation on physical memory and on a core's local memories keeps the canonical form, and what reads
back after a write. -/

namespace Sys2Proof.Laws

open Machine

set_option Elab.async false

/-! ### Runs of bytes -/

theorem wf_cellPut (m : List Host.Cell) (a : Nat) (bs : List Byte) (h : swf (0 : Byte) m = true) :
    swf (0 : Byte) (cellPut m a bs) = true := by
  induction bs generalizing m a with
  | nil => exact h
  | cons b bs ih => exact ih _ _ (swf_sput _ _ h)

/-- What a local memory holds after bytes were put: the bytes put, and elsewhere what it held. -/
theorem sget_cellPut (m : List Host.Cell) (a : Nat) (bs : List Byte) (x : Nat) :
    sget 0 (cellPut m a bs) x = if a ≤ x ∧ x < a + bs.length then bs.getD (x - a) 0 else sget 0 m x := by
  induction bs generalizing m a with
  | nil => simp only [cellPut, List.length_nil]; rw [if_neg (by omega)]
  | cons b bs ih =>
    simp only [cellPut, ih, List.length_cons, sget_sput]
    by_cases h1 : x = a
    · subst h1; rw [if_neg (by omega), if_pos rfl, if_pos (by omega)]; simp
    · by_cases h2 : a ≤ x ∧ x < a + (bs.length + 1)
      · rw [if_pos (by omega), if_pos h2]
        obtain ⟨d, hd⟩ : ∃ d, x - a = d + 1 := ⟨x - a - 1, by omega⟩
        rw [hd, show x - (a + 1) = d by omega]; rfl
      · rw [if_neg (by omega), if_neg h2, if_neg h1]

theorem putBytes_eq (m : List Host.Cell) (a : Nat) (bs : List Byte) : putBytes m a bs = cellPut m a bs := by
  induction bs generalizing m a with
  | nil => rfl
  | cons b bs ih => exact ih _ _

theorem wf_putBytes (m : List Host.Cell) (a : Nat) (bs : List Byte) (h : Memory.wf m = true) :
    Memory.wf (putBytes m a bs) = true := by
  rw [putBytes_eq]; exact wf_cellPut m a bs h

theorem sget_putBytes (m : List Host.Cell) (a : Nat) (bs : List Byte) (x : Nat) :
    sget memDefault (putBytes m a bs) x = if a ≤ x ∧ x < a + bs.length then bs.getD (x - a) 0 else sget memDefault m x := by
  rw [putBytes_eq]; exact sget_cellPut m a bs x

theorem wf_putMasked (bs : List Byte) (a k mask : Nat) (m : List Host.Cell) (h : Memory.wf m = true) :
    Memory.wf (putMasked bs a k mask m) = true := by
  induction bs generalizing m a k with
  | nil => exact h
  | cons b bs ih =>
    refine ih _ _ _ ?_
    split
    · exact swf_sput _ _ h
    · exact h

/-- What memory holds after a masked line was put. -/
theorem sget_putMasked (bs : List Byte) (a k mask : Nat) (m : List Host.Cell) (x : Nat) :
    sget memDefault (putMasked bs a k mask m) x =
      if a ≤ x ∧ x < a + bs.length ∧ mask.testBit (k + (x - a)) = true then bs.getD (x - a) 0 else sget memDefault m x := by
  induction bs generalizing m a k with
  | nil => simp only [putMasked, List.length_nil]; rw [if_neg (by omega)]
  | cons b bs ih =>
    simp only [putMasked, ih, List.length_cons]
    by_cases h1 : x = a
    · subst h1
      rw [if_neg (by omega)]
      by_cases h2 : mask.testBit k = true
      · simp [h2]
      · simp [h2]
    · have h3 : sget memDefault (if mask.testBit k then sput memDefault m a b else m) x = sget memDefault m x := by
        split
        · exact sget_sput_ne _ _ _ h1
        · rfl
      rw [h3]
      by_cases h2 : a ≤ x ∧ x < a + (bs.length + 1)
      · obtain ⟨d, hd⟩ : ∃ d, x - a = d + 1 := ⟨x - a - 1, by omega⟩
        have e1 : x - (a + 1) = d := by omega
        have e2 : k + 1 + d = k + (d + 1) := by omega
        have e3 : a + 1 ≤ x := by omega
        have e4 : x < a + 1 + bs.length := by omega
        simp [hd, e1, e2, e3, e4, h2]
      · rw [if_neg (by omega), if_neg (by omega)]

theorem wf_foldl_sput (m : List Host.Cell) (bs : List (Nat × Byte)) (h : swf (0 : Byte) m = true) :
    swf (0 : Byte) (bs.foldl (fun cells e => sput 0 cells e.1 e.2) m) = true := by
  induction bs generalizing m with
  | nil => exact h
  | cons b bs ih => exact ih _ (swf_sput _ _ h)

theorem sfind_filter {α : Type} (p : Nat → Bool) (m : List (Nat × α)) (k : Nat) :
    sfind (m.filter fun e => p e.1) k = if p k = true then sfind m k else none := by
  induction m with
  | nil => simp
  | cons x m ih =>
    obtain ⟨j, y⟩ := x
    simp only [List.filter_cons, sfind_cons]
    by_cases hj : p j = true
    · rw [if_pos hj, sfind_cons]; split
      · subst_vars; simp [hj]
      · exact ih
    · rw [if_neg hj, ih]
      by_cases hk : k = j
      · subst hk; simp [hj]
      · simp [hk]

theorem wf_zeroRun (m : List Host.Cell) (a n : Nat) (h : swf (0 : Byte) m = true) : swf (0 : Byte) (zeroRun m a n) = true :=
  swf_filter _ h

/-- A zeroed run reads as zeros, and the rest stays. -/
theorem sget_zeroRun (m : List Host.Cell) (a n x : Nat) :
    sget 0 (zeroRun m a n) x = if a ≤ x ∧ x < a + n then 0 else sget 0 m x := by
  unfold sget zeroRun
  rw [sfind_filter (fun k => !(decide (a ≤ k) && decide (k < a + n)))]
  by_cases h : a ≤ x ∧ x < a + n
  · simp [h]
  · rw [if_neg h, if_pos (by simp; omega)]

theorem wf_outsideCells (m : List Host.Cell) (h : Memory.wf m = true) : Memory.wf (outsideCells m) = true :=
  swf_filter _ h

/-- A reset keeps host memory and forgets the device's own. -/
theorem sget_outsideCells (m : List Host.Cell) (x : Nat) :
    sget memDefault (outsideCells m) x = if 2 ^ 50 ≤ x then sget memDefault m x else memDefault := by
  unfold sget outsideCells
  rw [sfind_filter (fun k => decide (2 ^ 50 ≤ k))]
  by_cases h : 2 ^ 50 ≤ x
  · simp only [h, decide_true, if_true]
  · simp only [h, decide_false, if_false, Bool.false_eq_true, Option.getD_none]

/-! ### The memory controller -/

theorem wf_memPut (s : State) (pa : Nat) (bs : List Byte) (h : Memory.wf s.mem = true) :
    Memory.wf (memPut s pa bs).mem = true := wf_putBytes _ _ _ h

theorem memByte_memPut (s : State) (pa : Nat) (bs : List Byte) (x : Nat) :
    memByte (memPut s pa bs) x = if pa ≤ x ∧ x < pa + bs.length then bs.getD (x - pa) 0 else memByte s x :=
  sget_putBytes _ _ _ _

theorem wf_setSidecar (s : State) (pa code : Nat) (h : Memory.wf s.mem = true) : Memory.wf (setSidecar s pa code).mem = true :=
  wf_memPut _ _ _ h

theorem wf_writeBlock (s : State) (ck pa blk poison : Nat) (h : Memory.wf s.mem = true) :
    Memory.wf (writeBlock s ck pa blk poison).mem = true := by
  unfold writeBlock
  generalize hb : leBytes 256 blk = bs
  by_cases h1 : ck = 0
  · simpa only [h1, if_true] using wf_memPut _ _ _ h
  · by_cases h2 : blk = 0
    · simpa only [h1, h2, if_true, if_false] using wf_setSidecar _ _ _ h
    · by_cases h3 : 8 ≤ ((compressBlock ck blk).2 + 31) / 32
      · simpa only [h1, h2, h3, if_true, if_false] using wf_setSidecar _ _ _ (wf_memPut _ _ _ h)
      · simpa only [h1, h2, h3, if_true, if_false] using wf_setSidecar _ _ _ (wf_memPut _ _ _ h)

@[simp] theorem testWaitsCtrl_mem (ck pa mask : Nat) (s : State) : (testWaitsCtrl ck pa mask s).mem = s.mem := by
  unfold testWaitsCtrl; split <;> rfl

theorem wf_ctrlWriteLine (s : State) (ck pa mask : Nat) (data : List Byte) (poison : Nat) (h : Memory.wf s.mem = true) :
    Memory.wf (ctrlWriteLine s ck pa mask data poison).mem = true := by
  unfold ctrlWriteLine
  simp only
  split
  · exact h
  · exact h
  · rw [testWaitsCtrl_mem]
    split
    · exact wf_putMasked _ _ _ _ _ h
    · exact wf_writeBlock _ _ _ _ _ h

/-- The controller's write keeps the canonical form of physical memory. -/
theorem wf_ctrlWrite (s : State) (ck pa : Nat) (bs : List Byte) (h : Memory.wf s.mem = true) :
    Memory.wf (ctrlWrite s ck pa bs).mem = true := by
  unfold ctrlWrite
  generalize linePieces (bs.length / 128 + 2) pa bs = ps
  induction ps generalizing s with
  | nil => exact h
  | cons p ps ih => exact ih _ (wf_ctrlWriteLine _ _ _ _ _ _ h)

/-! ### The images of the work board and what a function reset keeps -/

theorem wf_boardImage (board : List (Nat × LaunchRec)) (r : Nat) (m : List Host.Cell) (h : Memory.wf m = true) :
    Memory.wf (boardImage board r m) = true := by
  unfold boardImage
  split
  · exact wf_putBytes _ _ _ h
  · exact h

theorem wf_freeImage (m : List Host.Cell) (r : Nat) (h : Memory.wf m = true) : Memory.wf (freeImage m r) = true :=
  wf_putBytes _ _ _ h

theorem wf_putRec (s : State) (r : Nat) (x : LaunchRec) (h : Memory.wf s.mem = true) : Memory.wf (putRec s r x).mem = true :=
  wf_boardImage _ _ _ h

theorem wf_modRec (s : State) (r : Nat) (f : LaunchRec → LaunchRec) (h : Memory.wf s.mem = true) :
    Memory.wf (modRec s r f).mem = true := wf_boardImage _ _ _ h

theorem wf_freeRec (s : State) (r : Nat) (h : Memory.wf s.mem = true) : Memory.wf (freeRec s r).mem = true :=
  wf_freeImage _ _ h

/-- What a function reset leaves of memory. -/
theorem wf_washed (b : Boot) (m : List Host.Cell) (h : Memory.wf m = true) : Memory.wf (functionReset.washed b m) = true := by
  unfold functionReset.washed
  split
  · exact wf_putBytes _ _ _ (wf_outsideCells _ h)
  · exact wf_outsideCells _ h

/-! ### Local memories -/

/-- Whole sectors that land in a local memory keep its form. -/
theorem wf_landLocal (core : Nat) (ob : Bool) (a : Nat) (bs : List Byte) (poison : Nat) (s : State)
    (hs : swf (0 : Byte) (coreSt s core).sp = true) (ho : swf (0 : Byte) (coreSt s core).ob = true) (k : Nat)
    (hk : k ≠ core → swf (0 : Byte) (coreSt s k).sp = true ∧ swf (0 : Byte) (coreSt s k).ob = true) :
    swf (0 : Byte) (coreSt (landLocal core ob a bs poison s) k).sp = true ∧
      swf (0 : Byte) (coreSt (landLocal core ob a bs poison s) k).ob = true := by
  unfold landLocal modCore putCore coreSt
  rw [sget_sput]
  split
  · simp only
    split <;> exact ⟨by first | exact wf_cellPut _ _ _ hs | exact hs, by first | exact wf_cellPut _ _ _ ho | exact ho⟩
  · rename_i hne; exact hk hne

/-! ### Equal memories are equal data -/

theorem sfind_lt {α : Type} {m : List (Nat × α)} {b k : Nat} (h : sortedFrom b m = true) (hk : k < b) : sfind m k = none := by
  induction m generalizing b with
  | nil => rfl
  | cons e m ih =>
    obtain ⟨j, x⟩ := e
    simp only [sortedFrom, Bool.and_eq_true, decide_eq_true_eq] at h
    rw [sfind_cons, if_neg (by omega)]
    exact ih h.2 (by omega)

theorem sorted_ext {α : Type} {b c : Nat} {m m' : List (Nat × α)} (h : sortedFrom b m = true) (h' : sortedFrom c m' = true)
    (e : ∀ k, sfind m k = sfind m' k) : m = m' := by
  induction m generalizing b c m' with
  | nil =>
    cases m' with
    | nil => rfl
    | cons y m' => obtain ⟨i, y⟩ := y; have := e i; simp [sfind_cons] at this
  | cons x m ih =>
    obtain ⟨j, x⟩ := x
    simp only [sortedFrom, Bool.and_eq_true, decide_eq_true_eq] at h
    cases m' with
    | nil => have := e j; simp [sfind_cons] at this
    | cons y m' =>
      obtain ⟨i, y⟩ := y
      simp only [sortedFrom, Bool.and_eq_true, decide_eq_true_eq] at h'
      have hij : j = i := by
        rcases Nat.lt_trichotomy j i with hlt | heq | hgt
        · have := e j
          rw [sfind_cons, if_pos rfl, sfind_cons, if_neg (by omega), sfind_lt h'.2 (by omega)] at this
          exact absurd this (by simp)
        · exact heq
        · have := e i
          rw [sfind_cons, if_neg (by omega), sfind_lt h.2 (by omega), sfind_cons, if_pos rfl] at this
          exact absurd this (by simp)
      subst hij
      have hx : x = y := by simpa [sfind_cons] using e j
      subst hx
      refine congrArg _ (ih h.2 h'.2 fun k => ?_)
      by_cases hk : k = j
      · subst hk; rw [sfind_lt h.2 (by omega), sfind_lt h'.2 (by omega)]
      · have := e k; rwa [sfind_cons, if_neg hk, sfind_cons, if_neg hk] at this

/-- Physical memory at reset lists nothing, in its canonical form. -/
theorem wf_reset : Memory.wf State.reset.mem = true := rfl

end Sys2Proof.Laws
end

