-- ==== Sys2Proof/Laws/PerInstr.lean ====
section
/-! SUPPORT. Families of statements about every instruction as syntax, one lemma per constructor: RoundTrip (R324 to R347). -/

namespace Sys2Proof.Laws

set_option Elab.async false

/-- The word of a well-formed instruction decodes to it, every operand at every value; an event has no word. -/
def RoundTrip.Statement (i : Instr) : Prop := i.wf = true → ∀ w, encode i = some w → decode w = .ok i

theorem RoundTrip.nop (h : Hdr) (o : R4) : RoundTrip.Statement (.nop h o) := by
  intro ho w e
  simp only [encode, Option.some.injEq] at e
  simp only [Instr.wf] at ho
  subst e
  simp [decode, decodeGroup0, op_r4Word, x_r4Word, hdr_r4Word, r4Of_r4Word _ _ _ _ ho]
theorem RoundTrip.bra (h : Hdr) (o : I22) : RoundTrip.Statement (.bra h o) := by
  intro ho w e
  simp only [encode, Option.some.injEq] at e
  simp only [Instr.wf] at ho
  subst e
  simp [decode, decodeGroup0, op_i22Word, x_i22Word, hdr_i22Word, i22Of_i22Word _ _ _ _ ho]
theorem RoundTrip.brx (h : Hdr) (o : R4) : RoundTrip.Statement (.brx h o) := by
  intro ho w e
  simp only [encode, Option.some.injEq] at e
  simp only [Instr.wf] at ho
  subst e
  simp [decode, decodeGroup0, op_r4Word, x_r4Word, hdr_r4Word, r4Of_r4Word _ _ _ _ ho]
theorem RoundTrip.call (h : Hdr) (o : I22) : RoundTrip.Statement (.call h o) := by
  intro ho w e
  simp only [encode, Option.some.injEq] at e
  simp only [Instr.wf] at ho
  subst e
  simp [decode, decodeGroup0, op_i22Word, x_i22Word, hdr_i22Word, i22Of_i22Word _ _ _ _ ho]
theorem RoundTrip.callx (h : Hdr) (o : R4) : RoundTrip.Statement (.callx h o) := by
  intro ho w e
  simp only [encode, Option.some.injEq] at e
  simp only [Instr.wf] at ho
  subst e
  simp [decode, decodeGroup0, op_r4Word, x_r4Word, hdr_r4Word, r4Of_r4Word _ _ _ _ ho]
theorem RoundTrip.ret (h : Hdr) (o : R4) : RoundTrip.Statement (.ret h o) := by
  intro ho w e
  simp only [encode, Option.some.injEq] at e
  simp only [Instr.wf] at ho
  subst e
  simp [decode, decodeGroup0, op_r4Word, x_r4Word, hdr_r4Word, r4Of_r4Word _ _ _ _ ho]
theorem RoundTrip.exit (h : Hdr) (o : R4) : RoundTrip.Statement (.exit h o) := by
  intro ho w e
  simp only [encode, Option.some.injEq] at e
  simp only [Instr.wf] at ho
  subst e
  simp [decode, decodeGroup0, op_r4Word, x_r4Word, hdr_r4Word, r4Of_r4Word _ _ _ _ ho]
theorem RoundTrip.yield (h : Hdr) (o : R4) : RoundTrip.Statement (.yield h o) := by
  intro ho w e
  simp only [encode, Option.some.injEq] at e
  simp only [Instr.wf] at ho
  subst e
  simp [decode, decodeGroup0, op_r4Word, x_r4Word, hdr_r4Word, r4Of_r4Word _ _ _ _ ho]
theorem RoundTrip.jenter (h : Hdr) (o : RM) : RoundTrip.Statement (.jenter h o) := by
  intro ho w e
  simp only [encode, Option.some.injEq] at e
  simp only [Instr.wf] at ho
  subst e
  simp [decode, decodeGroup0, op_rmWord, x_rmWord, hdr_rmWord, rmOf_rmWord _ _ _ _ ho]
theorem RoundTrip.jquit (h : Hdr) (o : RM) : RoundTrip.Statement (.jquit h o) := by
  intro ho w e
  simp only [encode, Option.some.injEq] at e
  simp only [Instr.wf] at ho
  subst e
  simp [decode, decodeGroup0, op_rmWord, x_rmWord, hdr_rmWord, rmOf_rmWord _ _ _ _ ho]
theorem RoundTrip.jwait (h : Hdr) (o : RM) : RoundTrip.Statement (.jwait h o) := by
  intro ho w e
  simp only [encode, Option.some.injEq] at e
  simp only [Instr.wf] at ho
  subst e
  simp [decode, decodeGroup0, op_rmWord, x_rmWord, hdr_rmWord, rmOf_rmWord _ _ _ _ ho]
theorem RoundTrip.jsave (h : Hdr) (o : RM) : RoundTrip.Statement (.jsave h o) := by
  intro ho w e
  simp only [encode, Option.some.injEq] at e
  simp only [Instr.wf] at ho
  subst e
  simp [decode, decodeGroup0, op_rmWord, x_rmWord, hdr_rmWord, rmOf_rmWord _ _ _ _ ho]
theorem RoundTrip.jrestore (h : Hdr) (o : RM) : RoundTrip.Statement (.jrestore h o) := by
  intro ho w e
  simp only [encode, Option.some.injEq] at e
  simp only [Instr.wf] at ho
  subst e
  simp [decode, decodeGroup0, op_rmWord, x_rmWord, hdr_rmWord, rmOf_rmWord _ _ _ _ ho]
theorem RoundTrip.jread (h : Hdr) (o : RM) : RoundTrip.Statement (.jread h o) := by
  intro ho w e
  simp only [encode, Option.some.injEq] at e
  simp only [Instr.wf] at ho
  subst e
  simp [decode, decodeGroup0, op_rmWord, x_rmWord, hdr_rmWord, rmOf_rmWord _ _ _ _ ho]
theorem RoundTrip.mov (h : Hdr) (x : Wd) (o : R4) : RoundTrip.Statement (.mov h x o) := by
  intro ho w e
  simp only [encode, Option.some.injEq] at e
  simp only [Instr.wf] at ho
  subst e
  cases x <;>
  simp [decode, decodeGroup1, withX, wdOf, wdCode, op_r4Word, x_r4Word, hdr_r4Word, r4Of_r4Word _ _ _ _ ho]
theorem RoundTrip.movi (h : Hdr) (x : Wd) (o : I22) : RoundTrip.Statement (.movi h x o) := by
  intro ho w e
  simp only [encode, Option.some.injEq] at e
  simp only [Instr.wf] at ho
  subst e
  cases x <;>
  simp [decode, decodeGroup1, withX, wdOf, wdCode, op_i22Word, x_i22Word, hdr_i22Word, i22Of_i22Word _ _ _ _ ho]
theorem RoundTrip.sel (h : Hdr) (x : Wd) (o : R4) : RoundTrip.Statement (.sel h x o) := by
  intro ho w e
  simp only [encode, Option.some.injEq] at e
  simp only [Instr.wf] at ho
  subst e
  cases x <;>
  simp [decode, decodeGroup1, withX, wdOf, wdCode, op_r4Word, x_r4Word, hdr_r4Word, r4Of_r4Word _ _ _ _ ho]
theorem RoundTrip.iadd (h : Hdr) (x : AddX) (o : R4) : RoundTrip.Statement (.iadd h x o) := by
  intro ho w e
  simp only [encode, Option.some.injEq] at e
  simp only [Instr.wf] at ho
  subst e
  cases x <;>
  simp [decode, decodeGroup1, withX, addXOf, addXCode, op_r4Word, x_r4Word, hdr_r4Word, r4Of_r4Word _ _ _ _ ho]
theorem RoundTrip.isub (h : Hdr) (x : AddX) (o : R4) : RoundTrip.Statement (.isub h x o) := by
  intro ho w e
  simp only [encode, Option.some.injEq] at e
  simp only [Instr.wf] at ho
  subst e
  cases x <;>
  simp [decode, decodeGroup1, withX, addXOf, addXCode, op_r4Word, x_r4Word, hdr_r4Word, r4Of_r4Word _ _ _ _ ho]
theorem RoundTrip.iaddi (h : Hdr) (x : Wd) (o : I22) : RoundTrip.Statement (.iaddi h x o) := by
  intro ho w e
  simp only [encode, Option.some.injEq] at e
  simp only [Instr.wf] at ho
  subst e
  cases x <;>
  simp [decode, decodeGroup1, withX, wdOf, wdCode, op_i22Word, x_i22Word, hdr_i22Word, i22Of_i22Word _ _ _ _ ho]
theorem RoundTrip.imul (h : Hdr) (x : MulX) (o : R4) : RoundTrip.Statement (.imul h x o) := by
  intro ho w e
  simp only [encode, Option.some.injEq] at e
  simp only [Instr.wf] at ho
  subst e
  cases x <;>
  simp [decode, decodeGroup1, withX, mulXOf, mulXCode, op_r4Word, x_r4Word, hdr_r4Word, r4Of_r4Word _ _ _ _ ho]
theorem RoundTrip.imad (h : Hdr) (x : MadX) (o : R4) : RoundTrip.Statement (.imad h x o) := by
  intro ho w e
  simp only [encode, Option.some.injEq] at e
  simp only [Instr.wf] at ho
  subst e
  cases x <;>
  simp [decode, decodeGroup1, withX, madXOf, madXCode, op_r4Word, x_r4Word, hdr_r4Word, r4Of_r4Word _ _ _ _ ho]
theorem RoundTrip.imin (h : Hdr) (x : MinX) (o : R4) : RoundTrip.Statement (.imin h x o) := by
  intro ho w e
  simp only [encode, Option.some.injEq] at e
  simp only [Instr.wf] at ho
  subst e
  cases x <;>
  simp [decode, decodeGroup1, withX, minXOf, minXCode, op_r4Word, x_r4Word, hdr_r4Word, r4Of_r4Word _ _ _ _ ho]
theorem RoundTrip.imax (h : Hdr) (x : MinX) (o : R4) : RoundTrip.Statement (.imax h x o) := by
  intro ho w e
  simp only [encode, Option.some.injEq] at e
  simp only [Instr.wf] at ho
  subst e
  cases x <;>
  simp [decode, decodeGroup1, withX, minXOf, minXCode, op_r4Word, x_r4Word, hdr_r4Word, r4Of_r4Word _ _ _ _ ho]
theorem RoundTrip.shl (h : Hdr) (o : R4) : RoundTrip.Statement (.shl h o) := by
  intro ho w e
  simp only [encode, Option.some.injEq] at e
  simp only [Instr.wf] at ho
  subst e
  simp [decode, decodeGroup1, op_r4Word, x_r4Word, hdr_r4Word, r4Of_r4Word _ _ _ _ ho]
theorem RoundTrip.shr (h : Hdr) (o : R4) : RoundTrip.Statement (.shr h o) := by
  intro ho w e
  simp only [encode, Option.some.injEq] at e
  simp only [Instr.wf] at ho
  subst e
  simp [decode, decodeGroup1, op_r4Word, x_r4Word, hdr_r4Word, r4Of_r4Word _ _ _ _ ho]
theorem RoundTrip.sar (h : Hdr) (o : R4) : RoundTrip.Statement (.sar h o) := by
  intro ho w e
  simp only [encode, Option.some.injEq] at e
  simp only [Instr.wf] at ho
  subst e
  simp [decode, decodeGroup1, op_r4Word, x_r4Word, hdr_r4Word, r4Of_r4Word _ _ _ _ ho]
theorem RoundTrip.rol (h : Hdr) (o : R4) : RoundTrip.Statement (.rol h o) := by
  intro ho w e
  simp only [encode, Option.some.injEq] at e
  simp only [Instr.wf] at ho
  subst e
  simp [decode, decodeGroup1, op_r4Word, x_r4Word, hdr_r4Word, r4Of_r4Word _ _ _ _ ho]
theorem RoundTrip.ror (h : Hdr) (o : R4) : RoundTrip.Statement (.ror h o) := by
  intro ho w e
  simp only [encode, Option.some.injEq] at e
  simp only [Instr.wf] at ho
  subst e
  simp [decode, decodeGroup1, op_r4Word, x_r4Word, hdr_r4Word, r4Of_r4Word _ _ _ _ ho]
theorem RoundTrip.fshL (h : Hdr) (o : R4) : RoundTrip.Statement (.fshL h o) := by
  intro ho w e
  simp only [encode, Option.some.injEq] at e
  simp only [Instr.wf] at ho
  subst e
  simp [decode, decodeGroup1, op_r4Word, x_r4Word, hdr_r4Word, r4Of_r4Word _ _ _ _ ho]
theorem RoundTrip.fshR (h : Hdr) (o : R4) : RoundTrip.Statement (.fshR h o) := by
  intro ho w e
  simp only [encode, Option.some.injEq] at e
  simp only [Instr.wf] at ho
  subst e
  simp [decode, decodeGroup1, op_r4Word, x_r4Word, hdr_r4Word, r4Of_r4Word _ _ _ _ ho]
theorem RoundTrip.andB (h : Hdr) (o : R4) : RoundTrip.Statement (.andB h o) := by
  intro ho w e
  simp only [encode, Option.some.injEq] at e
  simp only [Instr.wf] at ho
  subst e
  simp [decode, decodeGroup1, op_r4Word, x_r4Word, hdr_r4Word, r4Of_r4Word _ _ _ _ ho]
theorem RoundTrip.orB (h : Hdr) (o : R4) : RoundTrip.Statement (.orB h o) := by
  intro ho w e
  simp only [encode, Option.some.injEq] at e
  simp only [Instr.wf] at ho
  subst e
  simp [decode, decodeGroup1, op_r4Word, x_r4Word, hdr_r4Word, r4Of_r4Word _ _ _ _ ho]
theorem RoundTrip.xorB (h : Hdr) (o : R4) : RoundTrip.Statement (.xorB h o) := by
  intro ho w e
  simp only [encode, Option.some.injEq] at e
  simp only [Instr.wf] at ho
  subst e
  simp [decode, decodeGroup1, op_r4Word, x_r4Word, hdr_r4Word, r4Of_r4Word _ _ _ _ ho]
theorem RoundTrip.andnB (h : Hdr) (o : R4) : RoundTrip.Statement (.andnB h o) := by
  intro ho w e
  simp only [encode, Option.some.injEq] at e
  simp only [Instr.wf] at ho
  subst e
  simp [decode, decodeGroup1, op_r4Word, x_r4Word, hdr_r4Word, r4Of_r4Word _ _ _ _ ho]
theorem RoundTrip.ornB (h : Hdr) (o : R4) : RoundTrip.Statement (.ornB h o) := by
  intro ho w e
  simp only [encode, Option.some.injEq] at e
  simp only [Instr.wf] at ho
  subst e
  simp [decode, decodeGroup1, op_r4Word, x_r4Word, hdr_r4Word, r4Of_r4Word _ _ _ _ ho]
theorem RoundTrip.xnorB (h : Hdr) (o : R4) : RoundTrip.Statement (.xnorB h o) := by
  intro ho w e
  simp only [encode, Option.some.injEq] at e
  simp only [Instr.wf] at ho
  subst e
  simp [decode, decodeGroup1, op_r4Word, x_r4Word, hdr_r4Word, r4Of_r4Word _ _ _ _ ho]
theorem RoundTrip.notB (h : Hdr) (o : R4) : RoundTrip.Statement (.notB h o) := by
  intro ho w e
  simp only [encode, Option.some.injEq] at e
  simp only [Instr.wf] at ho
  subst e
  simp [decode, decodeGroup1, op_r4Word, x_r4Word, hdr_r4Word, r4Of_r4Word _ _ _ _ ho]
theorem RoundTrip.clz (h : Hdr) (o : R4) : RoundTrip.Statement (.clz h o) := by
  intro ho w e
  simp only [encode, Option.some.injEq] at e
  simp only [Instr.wf] at ho
  subst e
  simp [decode, decodeGroup1, op_r4Word, x_r4Word, hdr_r4Word, r4Of_r4Word _ _ _ _ ho]
theorem RoundTrip.popc (h : Hdr) (o : R4) : RoundTrip.Statement (.popc h o) := by
  intro ho w e
  simp only [encode, Option.some.injEq] at e
  simp only [Instr.wf] at ho
  subst e
  simp [decode, decodeGroup1, op_r4Word, x_r4Word, hdr_r4Word, r4Of_r4Word _ _ _ _ ho]
theorem RoundTrip.brev (h : Hdr) (o : R4) : RoundTrip.Statement (.brev h o) := by
  intro ho w e
  simp only [encode, Option.some.injEq] at e
  simp only [Instr.wf] at ho
  subst e
  simp [decode, decodeGroup1, op_r4Word, x_r4Word, hdr_r4Word, r4Of_r4Word _ _ _ _ ho]
theorem RoundTrip.bfe (h : Hdr) (x : Ext) (o : R4) : RoundTrip.Statement (.bfe h x o) := by
  intro ho w e
  simp only [encode, Option.some.injEq] at e
  simp only [Instr.wf] at ho
  subst e
  cases x <;>
  simp [decode, decodeGroup1, withX, extOf, extCode, op_r4Word, x_r4Word, hdr_r4Word, r4Of_r4Word _ _ _ _ ho]
theorem RoundTrip.bfi (h : Hdr) (o : R4) : RoundTrip.Statement (.bfi h o) := by
  intro ho w e
  simp only [encode, Option.some.injEq] at e
  simp only [Instr.wf] at ho
  subst e
  simp [decode, decodeGroup1, op_r4Word, x_r4Word, hdr_r4Word, r4Of_r4Word _ _ _ _ ho]
theorem RoundTrip.icmp (h : Hdr) (x : Cc) (o : RM) : RoundTrip.Statement (.icmp h x o) := by
  intro ho w e
  simp only [encode, Option.some.injEq] at e
  simp only [Instr.wf] at ho
  subst e
  cases x <;>
  simp [decode, decodeGroup1, withX, ccOf, ccCode, op_rmWord, x_rmWord, hdr_rmWord, rmOf_rmWord _ _ _ _ ho]
theorem RoundTrip.pand (h : Hdr) (o : R4) : RoundTrip.Statement (.pand h o) := by
  intro ho w e
  simp only [encode, Option.some.injEq] at e
  simp only [Instr.wf] at ho
  subst e
  simp [decode, decodeGroup1, op_r4Word, x_r4Word, hdr_r4Word, r4Of_r4Word _ _ _ _ ho]
theorem RoundTrip.por (h : Hdr) (o : R4) : RoundTrip.Statement (.por h o) := by
  intro ho w e
  simp only [encode, Option.some.injEq] at e
  simp only [Instr.wf] at ho
  subst e
  simp [decode, decodeGroup1, op_r4Word, x_r4Word, hdr_r4Word, r4Of_r4Word _ _ _ _ ho]
theorem RoundTrip.pxor (h : Hdr) (o : R4) : RoundTrip.Statement (.pxor h o) := by
  intro ho w e
  simp only [encode, Option.some.injEq] at e
  simp only [Instr.wf] at ho
  subst e
  simp [decode, decodeGroup1, op_r4Word, x_r4Word, hdr_r4Word, r4Of_r4Word _ _ _ _ ho]
theorem RoundTrip.pandn (h : Hdr) (o : R4) : RoundTrip.Statement (.pandn h o) := by
  intro ho w e
  simp only [encode, Option.some.injEq] at e
  simp only [Instr.wf] at ho
  subst e
  simp [decode, decodeGroup1, op_r4Word, x_r4Word, hdr_r4Word, r4Of_r4Word _ _ _ _ ho]
theorem RoundTrip.pnot (h : Hdr) (o : R4) : RoundTrip.Statement (.pnot h o) := by
  intro ho w e
  simp only [encode, Option.some.injEq] at e
  simp only [Instr.wf] at ho
  subst e
  simp [decode, decodeGroup1, op_r4Word, x_r4Word, hdr_r4Word, r4Of_r4Word _ _ _ _ ho]
theorem RoundTrip.ptov (h : Hdr) (o : R4) : RoundTrip.Statement (.ptov h o) := by
  intro ho w e
  simp only [encode, Option.some.injEq] at e
  simp only [Instr.wf] at ho
  subst e
  simp [decode, decodeGroup1, op_r4Word, x_r4Word, hdr_r4Word, r4Of_r4Word _ _ _ _ ho]
theorem RoundTrip.vtop (h : Hdr) (o : R4) : RoundTrip.Statement (.vtop h o) := by
  intro ho w e
  simp only [encode, Option.some.injEq] at e
  simp only [Instr.wf] at ho
  subst e
  simp [decode, decodeGroup1, op_r4Word, x_r4Word, hdr_r4Word, r4Of_r4Word _ _ _ _ ho]
theorem RoundTrip.lea (h : Hdr) (x : IdxX) (o : RM) : RoundTrip.Statement (.lea h x o) := by
  intro ho w e
  simp only [encode, Option.some.injEq] at e
  simp only [Instr.wf] at ho
  subst e
  cases x <;>
  simp [decode, decodeGroup1, withX, idxXOf, idxXCode, op_rmWord, x_rmWord, hdr_rmWord, rmOf_rmWord _ _ _ _ ho]
theorem RoundTrip.faddF32 (h : Hdr) (x : Rnd) (o : RM) : RoundTrip.Statement (.faddF32 h x o) := by
  intro ho w e
  simp only [encode, Option.some.injEq] at e
  simp only [Instr.wf] at ho
  subst e
  cases x <;>
  simp [decode, decodeGroup2, withX, rndOf, rndCode, op_rmWord, x_rmWord, hdr_rmWord, rmOf_rmWord _ _ _ _ ho]
theorem RoundTrip.faddF64 (h : Hdr) (x : Rnd) (o : RM) : RoundTrip.Statement (.faddF64 h x o) := by
  intro ho w e
  simp only [encode, Option.some.injEq] at e
  simp only [Instr.wf] at ho
  subst e
  cases x <;>
  simp [decode, decodeGroup2, withX, rndOf, rndCode, op_rmWord, x_rmWord, hdr_rmWord, rmOf_rmWord _ _ _ _ ho]
theorem RoundTrip.faddF16 (h : Hdr) (x : Rnd) (o : RM) : RoundTrip.Statement (.faddF16 h x o) := by
  intro ho w e
  simp only [encode, Option.some.injEq] at e
  simp only [Instr.wf] at ho
  subst e
  cases x <;>
  simp [decode, decodeGroup2, withX, rndOf, rndCode, op_rmWord, x_rmWord, hdr_rmWord, rmOf_rmWord _ _ _ _ ho]
theorem RoundTrip.faddBf16 (h : Hdr) (x : Rnd) (o : RM) : RoundTrip.Statement (.faddBf16 h x o) := by
  intro ho w e
  simp only [encode, Option.some.injEq] at e
  simp only [Instr.wf] at ho
  subst e
  cases x <;>
  simp [decode, decodeGroup2, withX, rndOf, rndCode, op_rmWord, x_rmWord, hdr_rmWord, rmOf_rmWord _ _ _ _ ho]
theorem RoundTrip.fmulF32 (h : Hdr) (x : Rnd) (o : RM) : RoundTrip.Statement (.fmulF32 h x o) := by
  intro ho w e
  simp only [encode, Option.some.injEq] at e
  simp only [Instr.wf] at ho
  subst e
  cases x <;>
  simp [decode, decodeGroup2, withX, rndOf, rndCode, op_rmWord, x_rmWord, hdr_rmWord, rmOf_rmWord _ _ _ _ ho]
theorem RoundTrip.fmulF64 (h : Hdr) (x : Rnd) (o : RM) : RoundTrip.Statement (.fmulF64 h x o) := by
  intro ho w e
  simp only [encode, Option.some.injEq] at e
  simp only [Instr.wf] at ho
  subst e
  cases x <;>
  simp [decode, decodeGroup2, withX, rndOf, rndCode, op_rmWord, x_rmWord, hdr_rmWord, rmOf_rmWord _ _ _ _ ho]
theorem RoundTrip.fmulF16 (h : Hdr) (x : Rnd) (o : RM) : RoundTrip.Statement (.fmulF16 h x o) := by
  intro ho w e
  simp only [encode, Option.some.injEq] at e
  simp only [Instr.wf] at ho
  subst e
  cases x <;>
  simp [decode, decodeGroup2, withX, rndOf, rndCode, op_rmWord, x_rmWord, hdr_rmWord, rmOf_rmWord _ _ _ _ ho]
theorem RoundTrip.fmulBf16 (h : Hdr) (x : Rnd) (o : RM) : RoundTrip.Statement (.fmulBf16 h x o) := by
  intro ho w e
  simp only [encode, Option.some.injEq] at e
  simp only [Instr.wf] at ho
  subst e
  cases x <;>
  simp [decode, decodeGroup2, withX, rndOf, rndCode, op_rmWord, x_rmWord, hdr_rmWord, rmOf_rmWord _ _ _ _ ho]
theorem RoundTrip.fmaF32 (h : Hdr) (x : Rnd) (o : R4) : RoundTrip.Statement (.fmaF32 h x o) := by
  intro ho w e
  simp only [encode, Option.some.injEq] at e
  simp only [Instr.wf] at ho
  subst e
  cases x <;>
  simp [decode, decodeGroup2, withX, rndOf, rndCode, op_r4Word, x_r4Word, hdr_r4Word, r4Of_r4Word _ _ _ _ ho]
theorem RoundTrip.fmaF64 (h : Hdr) (x : Rnd) (o : R4) : RoundTrip.Statement (.fmaF64 h x o) := by
  intro ho w e
  simp only [encode, Option.some.injEq] at e
  simp only [Instr.wf] at ho
  subst e
  cases x <;>
  simp [decode, decodeGroup2, withX, rndOf, rndCode, op_r4Word, x_r4Word, hdr_r4Word, r4Of_r4Word _ _ _ _ ho]
theorem RoundTrip.fmaF16 (h : Hdr) (x : Rnd) (o : R4) : RoundTrip.Statement (.fmaF16 h x o) := by
  intro ho w e
  simp only [encode, Option.some.injEq] at e
  simp only [Instr.wf] at ho
  subst e
  cases x <;>
  simp [decode, decodeGroup2, withX, rndOf, rndCode, op_r4Word, x_r4Word, hdr_r4Word, r4Of_r4Word _ _ _ _ ho]
theorem RoundTrip.fmaBf16 (h : Hdr) (x : Rnd) (o : R4) : RoundTrip.Statement (.fmaBf16 h x o) := by
  intro ho w e
  simp only [encode, Option.some.injEq] at e
  simp only [Instr.wf] at ho
  subst e
  cases x <;>
  simp [decode, decodeGroup2, withX, rndOf, rndCode, op_r4Word, x_r4Word, hdr_r4Word, r4Of_r4Word _ _ _ _ ho]
theorem RoundTrip.fminF32 (h : Hdr) (o : R4) : RoundTrip.Statement (.fminF32 h o) := by
  intro ho w e
  simp only [encode, Option.some.injEq] at e
  simp only [Instr.wf] at ho
  subst e
  simp [decode, decodeGroup2, op_r4Word, x_r4Word, hdr_r4Word, r4Of_r4Word _ _ _ _ ho]
theorem RoundTrip.fminF64 (h : Hdr) (o : R4) : RoundTrip.Statement (.fminF64 h o) := by
  intro ho w e
  simp only [encode, Option.some.injEq] at e
  simp only [Instr.wf] at ho
  subst e
  simp [decode, decodeGroup2, op_r4Word, x_r4Word, hdr_r4Word, r4Of_r4Word _ _ _ _ ho]
theorem RoundTrip.fminF16 (h : Hdr) (o : R4) : RoundTrip.Statement (.fminF16 h o) := by
  intro ho w e
  simp only [encode, Option.some.injEq] at e
  simp only [Instr.wf] at ho
  subst e
  simp [decode, decodeGroup2, op_r4Word, x_r4Word, hdr_r4Word, r4Of_r4Word _ _ _ _ ho]
theorem RoundTrip.fminBf16 (h : Hdr) (o : R4) : RoundTrip.Statement (.fminBf16 h o) := by
  intro ho w e
  simp only [encode, Option.some.injEq] at e
  simp only [Instr.wf] at ho
  subst e
  simp [decode, decodeGroup2, op_r4Word, x_r4Word, hdr_r4Word, r4Of_r4Word _ _ _ _ ho]
theorem RoundTrip.fmaxF32 (h : Hdr) (o : R4) : RoundTrip.Statement (.fmaxF32 h o) := by
  intro ho w e
  simp only [encode, Option.some.injEq] at e
  simp only [Instr.wf] at ho
  subst e
  simp [decode, decodeGroup2, op_r4Word, x_r4Word, hdr_r4Word, r4Of_r4Word _ _ _ _ ho]
theorem RoundTrip.fmaxF64 (h : Hdr) (o : R4) : RoundTrip.Statement (.fmaxF64 h o) := by
  intro ho w e
  simp only [encode, Option.some.injEq] at e
  simp only [Instr.wf] at ho
  subst e
  simp [decode, decodeGroup2, op_r4Word, x_r4Word, hdr_r4Word, r4Of_r4Word _ _ _ _ ho]
theorem RoundTrip.fmaxF16 (h : Hdr) (o : R4) : RoundTrip.Statement (.fmaxF16 h o) := by
  intro ho w e
  simp only [encode, Option.some.injEq] at e
  simp only [Instr.wf] at ho
  subst e
  simp [decode, decodeGroup2, op_r4Word, x_r4Word, hdr_r4Word, r4Of_r4Word _ _ _ _ ho]
theorem RoundTrip.fmaxBf16 (h : Hdr) (o : R4) : RoundTrip.Statement (.fmaxBf16 h o) := by
  intro ho w e
  simp only [encode, Option.some.injEq] at e
  simp only [Instr.wf] at ho
  subst e
  simp [decode, decodeGroup2, op_r4Word, x_r4Word, hdr_r4Word, r4Of_r4Word _ _ _ _ ho]
theorem RoundTrip.fcmpF32 (h : Hdr) (x : FCc) (o : R4) : RoundTrip.Statement (.fcmpF32 h x o) := by
  intro ho w e
  simp only [encode, Option.some.injEq] at e
  simp only [Instr.wf] at ho
  subst e
  cases x <;>
  simp [decode, decodeGroup2, withX, fCcOf, fCcCode, op_r4Word, x_r4Word, hdr_r4Word, r4Of_r4Word _ _ _ _ ho]
theorem RoundTrip.fcmpF64 (h : Hdr) (x : FCc) (o : R4) : RoundTrip.Statement (.fcmpF64 h x o) := by
  intro ho w e
  simp only [encode, Option.some.injEq] at e
  simp only [Instr.wf] at ho
  subst e
  cases x <;>
  simp [decode, decodeGroup2, withX, fCcOf, fCcCode, op_r4Word, x_r4Word, hdr_r4Word, r4Of_r4Word _ _ _ _ ho]
theorem RoundTrip.fcmpF16 (h : Hdr) (x : FCc) (o : R4) : RoundTrip.Statement (.fcmpF16 h x o) := by
  intro ho w e
  simp only [encode, Option.some.injEq] at e
  simp only [Instr.wf] at ho
  subst e
  cases x <;>
  simp [decode, decodeGroup2, withX, fCcOf, fCcCode, op_r4Word, x_r4Word, hdr_r4Word, r4Of_r4Word _ _ _ _ ho]
theorem RoundTrip.fcmpBf16 (h : Hdr) (x : FCc) (o : R4) : RoundTrip.Statement (.fcmpBf16 h x o) := by
  intro ho w e
  simp only [encode, Option.some.injEq] at e
  simp only [Instr.wf] at ho
  subst e
  cases x <;>
  simp [decode, decodeGroup2, withX, fCcOf, fCcCode, op_r4Word, x_r4Word, hdr_r4Word, r4Of_r4Word _ _ _ _ ho]
theorem RoundTrip.frcpF32 (h : Hdr) (o : R4) : RoundTrip.Statement (.frcpF32 h o) := by
  intro ho w e
  simp only [encode, Option.some.injEq] at e
  simp only [Instr.wf] at ho
  subst e
  simp [decode, decodeGroup2, op_r4Word, x_r4Word, hdr_r4Word, r4Of_r4Word _ _ _ _ ho]
theorem RoundTrip.fsqrtF32 (h : Hdr) (o : R4) : RoundTrip.Statement (.fsqrtF32 h o) := by
  intro ho w e
  simp only [encode, Option.some.injEq] at e
  simp only [Instr.wf] at ho
  subst e
  simp [decode, decodeGroup2, op_r4Word, x_r4Word, hdr_r4Word, r4Of_r4Word _ _ _ _ ho]
theorem RoundTrip.frsqF32 (h : Hdr) (o : R4) : RoundTrip.Statement (.frsqF32 h o) := by
  intro ho w e
  simp only [encode, Option.some.injEq] at e
  simp only [Instr.wf] at ho
  subst e
  simp [decode, decodeGroup2, op_r4Word, x_r4Word, hdr_r4Word, r4Of_r4Word _ _ _ _ ho]
theorem RoundTrip.fexp2F32 (h : Hdr) (o : R4) : RoundTrip.Statement (.fexp2F32 h o) := by
  intro ho w e
  simp only [encode, Option.some.injEq] at e
  simp only [Instr.wf] at ho
  subst e
  simp [decode, decodeGroup2, op_r4Word, x_r4Word, hdr_r4Word, r4Of_r4Word _ _ _ _ ho]
theorem RoundTrip.flog2F32 (h : Hdr) (o : R4) : RoundTrip.Statement (.flog2F32 h o) := by
  intro ho w e
  simp only [encode, Option.some.injEq] at e
  simp only [Instr.wf] at ho
  subst e
  simp [decode, decodeGroup2, op_r4Word, x_r4Word, hdr_r4Word, r4Of_r4Word _ _ _ _ ho]
theorem RoundTrip.fsinF32 (h : Hdr) (o : R4) : RoundTrip.Statement (.fsinF32 h o) := by
  intro ho w e
  simp only [encode, Option.some.injEq] at e
  simp only [Instr.wf] at ho
  subst e
  simp [decode, decodeGroup2, op_r4Word, x_r4Word, hdr_r4Word, r4Of_r4Word _ _ _ _ ho]
theorem RoundTrip.fcosF32 (h : Hdr) (o : R4) : RoundTrip.Statement (.fcosF32 h o) := by
  intro ho w e
  simp only [encode, Option.some.injEq] at e
  simp only [Instr.wf] at ho
  subst e
  simp [decode, decodeGroup2, op_r4Word, x_r4Word, hdr_r4Word, r4Of_r4Word _ _ _ _ ho]
theorem RoundTrip.ftanhF32 (h : Hdr) (o : R4) : RoundTrip.Statement (.ftanhF32 h o) := by
  intro ho w e
  simp only [encode, Option.some.injEq] at e
  simp only [Instr.wf] at ho
  subst e
  simp [decode, decodeGroup2, op_r4Word, x_r4Word, hdr_r4Word, r4Of_r4Word _ _ _ _ ho]
theorem RoundTrip.frcpF64 (h : Hdr) (o : R4) : RoundTrip.Statement (.frcpF64 h o) := by
  intro ho w e
  simp only [encode, Option.some.injEq] at e
  simp only [Instr.wf] at ho
  subst e
  simp [decode, decodeGroup2, op_r4Word, x_r4Word, hdr_r4Word, r4Of_r4Word _ _ _ _ ho]
theorem RoundTrip.fsqrtF64 (h : Hdr) (o : R4) : RoundTrip.Statement (.fsqrtF64 h o) := by
  intro ho w e
  simp only [encode, Option.some.injEq] at e
  simp only [Instr.wf] at ho
  subst e
  simp [decode, decodeGroup2, op_r4Word, x_r4Word, hdr_r4Word, r4Of_r4Word _ _ _ _ ho]
theorem RoundTrip.frsqF64 (h : Hdr) (o : R4) : RoundTrip.Statement (.frsqF64 h o) := by
  intro ho w e
  simp only [encode, Option.some.injEq] at e
  simp only [Instr.wf] at ho
  subst e
  simp [decode, decodeGroup2, op_r4Word, x_r4Word, hdr_r4Word, r4Of_r4Word _ _ _ _ ho]
theorem RoundTrip.faddiF32 (h : Hdr) (x : Rnd) (o : I20) : RoundTrip.Statement (.faddiF32 h x o) := by
  intro ho w e
  simp only [encode, Option.some.injEq] at e
  simp only [Instr.wf] at ho
  subst e
  cases x <;>
  simp [decode, decodeGroup2, withX, rndOf, rndCode, op_i20Word, x_i20Word, hdr_i20Word, i20Of_i20Word _ _ _ _ ho]
theorem RoundTrip.fmuliF32 (h : Hdr) (x : Rnd) (o : I20) : RoundTrip.Statement (.fmuliF32 h x o) := by
  intro ho w e
  simp only [encode, Option.some.injEq] at e
  simp only [Instr.wf] at ho
  subst e
  cases x <;>
  simp [decode, decodeGroup2, withX, rndOf, rndCode, op_i20Word, x_i20Word, hdr_i20Word, i20Of_i20Word _ _ _ _ ho]
theorem RoundTrip.fmaiF32 (h : Hdr) (x : Rnd) (o : I20) : RoundTrip.Statement (.fmaiF32 h x o) := by
  intro ho w e
  simp only [encode, Option.some.injEq] at e
  simp only [Instr.wf] at ho
  subst e
  cases x <;>
  simp [decode, decodeGroup2, withX, rndOf, rndCode, op_i20Word, x_i20Word, hdr_i20Word, i20Of_i20Word _ _ _ _ ho]
theorem RoundTrip.fmoviF32 (h : Hdr) (o : I20) : RoundTrip.Statement (.fmoviF32 h o) := by
  intro ho w e
  simp only [encode, Option.some.injEq] at e
  simp only [Instr.wf] at ho
  subst e
  simp [decode, decodeGroup2, op_i20Word, x_i20Word, hdr_i20Word, i20Of_i20Word _ _ _ _ ho]
theorem RoundTrip.cvt (h : Hdr) (x : Rnd) (o : CV) : RoundTrip.Statement (.cvt h x o) := by
  intro ho w e
  simp only [encode, Option.some.injEq] at e
  simp only [Instr.wf] at ho
  subst e
  cases x <;>
  simp [decode, decodeGroup3, withX, rndOf, rndCode, op_cvWord, x_cvWord, hdr_cvWord, cvOf_cvWord _ _ _ _ ho]
theorem RoundTrip.bpack (h : Hdr) (x : Rnd) (o : RM) : RoundTrip.Statement (.bpack h x o) := by
  intro ho w e
  simp only [encode, Option.some.injEq] at e
  simp only [Instr.wf] at ho
  subst e
  cases x <;>
  simp [decode, decodeGroup3, withX, rndOf, rndCode, op_rmWord, x_rmWord, hdr_rmWord, rmOf_rmWord _ _ _ _ ho]
theorem RoundTrip.bunpk (h : Hdr) (o : RM) : RoundTrip.Statement (.bunpk h o) := by
  intro ho w e
  simp only [encode, Option.some.injEq] at e
  simp only [Instr.wf] at ho
  subst e
  simp [decode, decodeGroup3, op_rmWord, x_rmWord, hdr_rmWord, rmOf_rmWord _ _ _ _ ho]
theorem RoundTrip.xpatld (h : Hdr) (o : RM) : RoundTrip.Statement (.xpatld h o) := by
  intro ho w e
  simp only [encode, Option.some.injEq] at e
  simp only [Instr.wf] at ho
  subst e
  simp [decode, decodeGroup3, op_rmWord, x_rmWord, hdr_rmWord, rmOf_rmWord _ _ _ _ ho]
theorem RoundTrip.xperm (h : Hdr) (o : RM) : RoundTrip.Statement (.xperm h o) := by
  intro ho w e
  simp only [encode, Option.some.injEq] at e
  simp only [Instr.wf] at ho
  subst e
  simp [decode, decodeGroup3, op_rmWord, x_rmWord, hdr_rmWord, rmOf_rmWord _ _ _ _ ho]
theorem RoundTrip.shflIdx (h : Hdr) (o : R4) : RoundTrip.Statement (.shflIdx h o) := by
  intro ho w e
  simp only [encode, Option.some.injEq] at e
  simp only [Instr.wf] at ho
  subst e
  simp [decode, decodeGroup3, op_r4Word, x_r4Word, hdr_r4Word, r4Of_r4Word _ _ _ _ ho]
theorem RoundTrip.shflUp (h : Hdr) (o : R4) : RoundTrip.Statement (.shflUp h o) := by
  intro ho w e
  simp only [encode, Option.some.injEq] at e
  simp only [Instr.wf] at ho
  subst e
  simp [decode, decodeGroup3, op_r4Word, x_r4Word, hdr_r4Word, r4Of_r4Word _ _ _ _ ho]
theorem RoundTrip.shflDown (h : Hdr) (o : R4) : RoundTrip.Statement (.shflDown h o) := by
  intro ho w e
  simp only [encode, Option.some.injEq] at e
  simp only [Instr.wf] at ho
  subst e
  simp [decode, decodeGroup3, op_r4Word, x_r4Word, hdr_r4Word, r4Of_r4Word _ _ _ _ ho]
theorem RoundTrip.shflXor (h : Hdr) (o : R4) : RoundTrip.Statement (.shflXor h o) := by
  intro ho w e
  simp only [encode, Option.some.injEq] at e
  simp only [Instr.wf] at ho
  subst e
  simp [decode, decodeGroup3, op_r4Word, x_r4Word, hdr_r4Word, r4Of_r4Word _ _ _ _ ho]
theorem RoundTrip.bcast (h : Hdr) (x : Wd) (o : R4) : RoundTrip.Statement (.bcast h x o) := by
  intro ho w e
  simp only [encode, Option.some.injEq] at e
  simp only [Instr.wf] at ho
  subst e
  cases x <;>
  simp [decode, decodeGroup3, withX, wdOf, wdCode, op_r4Word, x_r4Word, hdr_r4Word, r4Of_r4Word _ _ _ _ ho]
theorem RoundTrip.ballot (h : Hdr) (o : R4) : RoundTrip.Statement (.ballot h o) := by
  intro ho w e
  simp only [encode, Option.some.injEq] at e
  simp only [Instr.wf] at ho
  subst e
  simp [decode, decodeGroup3, op_r4Word, x_r4Word, hdr_r4Word, r4Of_r4Word _ _ _ _ ho]
theorem RoundTrip.voteAny (h : Hdr) (o : R4) : RoundTrip.Statement (.voteAny h o) := by
  intro ho w e
  simp only [encode, Option.some.injEq] at e
  simp only [Instr.wf] at ho
  subst e
  simp [decode, decodeGroup3, op_r4Word, x_r4Word, hdr_r4Word, r4Of_r4Word _ _ _ _ ho]
theorem RoundTrip.voteAll (h : Hdr) (o : R4) : RoundTrip.Statement (.voteAll h o) := by
  intro ho w e
  simp only [encode, Option.some.injEq] at e
  simp only [Instr.wf] at ho
  subst e
  simp [decode, decodeGroup3, op_r4Word, x_r4Word, hdr_r4Word, r4Of_r4Word _ _ _ _ ho]
theorem RoundTrip.voteUni (h : Hdr) (o : R4) : RoundTrip.Statement (.voteUni h o) := by
  intro ho w e
  simp only [encode, Option.some.injEq] at e
  simp only [Instr.wf] at ho
  subst e
  simp [decode, decodeGroup3, op_r4Word, x_r4Word, hdr_r4Word, r4Of_r4Word _ _ _ _ ho]
theorem RoundTrip.redAdd (h : Hdr) (o : RM) : RoundTrip.Statement (.redAdd h o) := by
  intro ho w e
  simp only [encode, Option.some.injEq] at e
  simp only [Instr.wf] at ho
  subst e
  simp [decode, decodeGroup3, op_rmWord, x_rmWord, hdr_rmWord, rmOf_rmWord _ _ _ _ ho]
theorem RoundTrip.redMin (h : Hdr) (o : RM) : RoundTrip.Statement (.redMin h o) := by
  intro ho w e
  simp only [encode, Option.some.injEq] at e
  simp only [Instr.wf] at ho
  subst e
  simp [decode, decodeGroup3, op_rmWord, x_rmWord, hdr_rmWord, rmOf_rmWord _ _ _ _ ho]
theorem RoundTrip.redMax (h : Hdr) (o : RM) : RoundTrip.Statement (.redMax h o) := by
  intro ho w e
  simp only [encode, Option.some.injEq] at e
  simp only [Instr.wf] at ho
  subst e
  simp [decode, decodeGroup3, op_rmWord, x_rmWord, hdr_rmWord, rmOf_rmWord _ _ _ _ ho]
theorem RoundTrip.redAnd (h : Hdr) (o : RM) : RoundTrip.Statement (.redAnd h o) := by
  intro ho w e
  simp only [encode, Option.some.injEq] at e
  simp only [Instr.wf] at ho
  subst e
  simp [decode, decodeGroup3, op_rmWord, x_rmWord, hdr_rmWord, rmOf_rmWord _ _ _ _ ho]
theorem RoundTrip.redOr (h : Hdr) (o : RM) : RoundTrip.Statement (.redOr h o) := by
  intro ho w e
  simp only [encode, Option.some.injEq] at e
  simp only [Instr.wf] at ho
  subst e
  simp [decode, decodeGroup3, op_rmWord, x_rmWord, hdr_rmWord, rmOf_rmWord _ _ _ _ ho]
theorem RoundTrip.redXor (h : Hdr) (o : RM) : RoundTrip.Statement (.redXor h o) := by
  intro ho w e
  simp only [encode, Option.some.injEq] at e
  simp only [Instr.wf] at ho
  subst e
  simp [decode, decodeGroup3, op_rmWord, x_rmWord, hdr_rmWord, rmOf_rmWord _ _ _ _ ho]
theorem RoundTrip.fredAdd (h : Hdr) (o : RM) : RoundTrip.Statement (.fredAdd h o) := by
  intro ho w e
  simp only [encode, Option.some.injEq] at e
  simp only [Instr.wf] at ho
  subst e
  simp [decode, decodeGroup3, op_rmWord, x_rmWord, hdr_rmWord, rmOf_rmWord _ _ _ _ ho]
theorem RoundTrip.fredMin (h : Hdr) (o : RM) : RoundTrip.Statement (.fredMin h o) := by
  intro ho w e
  simp only [encode, Option.some.injEq] at e
  simp only [Instr.wf] at ho
  subst e
  simp [decode, decodeGroup3, op_rmWord, x_rmWord, hdr_rmWord, rmOf_rmWord _ _ _ _ ho]
theorem RoundTrip.fredMax (h : Hdr) (o : RM) : RoundTrip.Statement (.fredMax h o) := by
  intro ho w e
  simp only [encode, Option.some.injEq] at e
  simp only [Instr.wf] at ho
  subst e
  simp [decode, decodeGroup3, op_rmWord, x_rmWord, hdr_rmWord, rmOf_rmWord _ _ _ _ ho]
theorem RoundTrip.scanAdd (h : Hdr) (o : RM) : RoundTrip.Statement (.scanAdd h o) := by
  intro ho w e
  simp only [encode, Option.some.injEq] at e
  simp only [Instr.wf] at ho
  subst e
  simp [decode, decodeGroup3, op_rmWord, x_rmWord, hdr_rmWord, rmOf_rmWord _ _ _ _ ho]
theorem RoundTrip.scanXadd (h : Hdr) (o : RM) : RoundTrip.Statement (.scanXadd h o) := by
  intro ho w e
  simp only [encode, Option.some.injEq] at e
  simp only [Instr.wf] at ho
  subst e
  simp [decode, decodeGroup3, op_rmWord, x_rmWord, hdr_rmWord, rmOf_rmWord _ _ _ _ ho]
theorem RoundTrip.scanMax (h : Hdr) (o : RM) : RoundTrip.Statement (.scanMax h o) := by
  intro ho w e
  simp only [encode, Option.some.injEq] at e
  simp only [Instr.wf] at ho
  subst e
  simp [decode, decodeGroup3, op_rmWord, x_rmWord, hdr_rmWord, rmOf_rmWord _ _ _ _ ho]
theorem RoundTrip.scanMin (h : Hdr) (o : RM) : RoundTrip.Statement (.scanMin h o) := by
  intro ho w e
  simp only [encode, Option.some.injEq] at e
  simp only [Instr.wf] at ho
  subst e
  simp [decode, decodeGroup3, op_rmWord, x_rmWord, hdr_rmWord, rmOf_rmWord _ _ _ _ ho]
theorem RoundTrip.ldG (h : Hdr) (x : LdW) (o : R4) : RoundTrip.Statement (.ldG h x o) := by
  intro ho w e
  simp only [encode, Option.some.injEq] at e
  simp only [Instr.wf] at ho
  subst e
  cases x <;>
  simp [decode, decodeGroup4, withX, ldWOf, ldWCode, op_r4Word, x_r4Word, hdr_r4Word, r4Of_r4Word _ _ _ _ ho]
theorem RoundTrip.ldSp (h : Hdr) (x : LdW) (o : R4) : RoundTrip.Statement (.ldSp h x o) := by
  intro ho w e
  simp only [encode, Option.some.injEq] at e
  simp only [Instr.wf] at ho
  subst e
  cases x <;>
  simp [decode, decodeGroup4, withX, ldWOf, ldWCode, op_r4Word, x_r4Word, hdr_r4Word, r4Of_r4Word _ _ _ _ ho]
theorem RoundTrip.ldOb (h : Hdr) (x : LdW) (o : R4) : RoundTrip.Statement (.ldOb h x o) := by
  intro ho w e
  simp only [encode, Option.some.injEq] at e
  simp only [Instr.wf] at ho
  subst e
  cases x <;>
  simp [decode, decodeGroup4, withX, ldWOf, ldWCode, op_r4Word, x_r4Word, hdr_r4Word, r4Of_r4Word _ _ _ _ ho]
theorem RoundTrip.ldMs (h : Hdr) (x : LdW) (o : R4) : RoundTrip.Statement (.ldMs h x o) := by
  intro ho w e
  simp only [encode, Option.some.injEq] at e
  simp only [Instr.wf] at ho
  subst e
  cases x <;>
  simp [decode, decodeGroup4, withX, ldWOf, ldWCode, op_r4Word, x_r4Word, hdr_r4Word, r4Of_r4Word _ _ _ _ ho]
theorem RoundTrip.stG (h : Hdr) (x : StW) (o : R4) : RoundTrip.Statement (.stG h x o) := by
  intro ho w e
  simp only [encode, Option.some.injEq] at e
  simp only [Instr.wf] at ho
  subst e
  cases x <;>
  simp [decode, decodeGroup4, withX, stWOf, stWCode, op_r4Word, x_r4Word, hdr_r4Word, r4Of_r4Word _ _ _ _ ho]
theorem RoundTrip.stSp (h : Hdr) (x : StW) (o : R4) : RoundTrip.Statement (.stSp h x o) := by
  intro ho w e
  simp only [encode, Option.some.injEq] at e
  simp only [Instr.wf] at ho
  subst e
  cases x <;>
  simp [decode, decodeGroup4, withX, stWOf, stWCode, op_r4Word, x_r4Word, hdr_r4Word, r4Of_r4Word _ _ _ _ ho]
theorem RoundTrip.stOb (h : Hdr) (x : StW) (o : R4) : RoundTrip.Statement (.stOb h x o) := by
  intro ho w e
  simp only [encode, Option.some.injEq] at e
  simp only [Instr.wf] at ho
  subst e
  cases x <;>
  simp [decode, decodeGroup4, withX, stWOf, stWCode, op_r4Word, x_r4Word, hdr_r4Word, r4Of_r4Word _ _ _ _ ho]
theorem RoundTrip.stMs (h : Hdr) (x : StW) (o : R4) : RoundTrip.Statement (.stMs h x o) := by
  intro ho w e
  simp only [encode, Option.some.injEq] at e
  simp only [Instr.wf] at ho
  subst e
  cases x <;>
  simp [decode, decodeGroup4, withX, stWOf, stWCode, op_r4Word, x_r4Word, hdr_r4Word, r4Of_r4Word _ _ _ _ ho]
theorem RoundTrip.stuG (h : Hdr) (o : R4) : RoundTrip.Statement (.stuG h o) := by
  intro ho w e
  simp only [encode, Option.some.injEq] at e
  simp only [Instr.wf] at ho
  subst e
  simp [decode, decodeGroup4, op_r4Word, x_r4Word, hdr_r4Word, r4Of_r4Word _ _ _ _ ho]
theorem RoundTrip.stuSp (h : Hdr) (o : R4) : RoundTrip.Statement (.stuSp h o) := by
  intro ho w e
  simp only [encode, Option.some.injEq] at e
  simp only [Instr.wf] at ho
  subst e
  simp [decode, decodeGroup4, op_r4Word, x_r4Word, hdr_r4Word, r4Of_r4Word _ _ _ _ ho]
theorem RoundTrip.ldmc (h : Hdr) (x : McX) (o : R4) : RoundTrip.Statement (.ldmc h x o) := by
  intro ho w e
  simp only [encode, Option.some.injEq] at e
  simp only [Instr.wf] at ho
  subst e
  cases x <;>
  simp [decode, decodeGroup4, withX, mcXOf, mcXCode, op_r4Word, x_r4Word, hdr_r4Word, r4Of_r4Word _ _ _ _ ho]
theorem RoundTrip.prefL1 (h : Hdr) (o : R4) : RoundTrip.Statement (.prefL1 h o) := by
  intro ho w e
  simp only [encode, Option.some.injEq] at e
  simp only [Instr.wf] at ho
  subst e
  simp [decode, decodeGroup4, op_r4Word, x_r4Word, hdr_r4Word, r4Of_r4Word _ _ _ _ ho]
theorem RoundTrip.prefL2 (h : Hdr) (o : R4) : RoundTrip.Statement (.prefL2 h o) := by
  intro ho w e
  simp only [encode, Option.some.injEq] at e
  simp only [Instr.wf] at ho
  subst e
  simp [decode, decodeGroup4, op_r4Word, x_r4Word, hdr_r4Word, r4Of_r4Word _ _ _ _ ho]
theorem RoundTrip.residKeep (h : Hdr) (o : R4) : RoundTrip.Statement (.residKeep h o) := by
  intro ho w e
  simp only [encode, Option.some.injEq] at e
  simp only [Instr.wf] at ho
  subst e
  simp [decode, decodeGroup4, op_r4Word, x_r4Word, hdr_r4Word, r4Of_r4Word _ _ _ _ ho]
theorem RoundTrip.residNorm (h : Hdr) (o : R4) : RoundTrip.Statement (.residNorm h o) := by
  intro ho w e
  simp only [encode, Option.some.injEq] at e
  simp only [Instr.wf] at ho
  subst e
  simp [decode, decodeGroup4, op_r4Word, x_r4Word, hdr_r4Word, r4Of_r4Word _ _ _ _ ho]
theorem RoundTrip.banksw (h : Hdr) (o : R4) : RoundTrip.Statement (.banksw h o) := by
  intro ho w e
  simp only [encode, Option.some.injEq] at e
  simp only [Instr.wf] at ho
  subst e
  simp [decode, decodeGroup4, op_r4Word, x_r4Word, hdr_r4Word, r4Of_r4Word _ _ _ _ ho]
theorem RoundTrip.atomGAdd (h : Hdr) (o : RM) : RoundTrip.Statement (.atomGAdd h o) := by
  intro ho w e
  simp only [encode, Option.some.injEq] at e
  simp only [Instr.wf] at ho
  subst e
  simp [decode, decodeGroup5, op_rmWord, x_rmWord, hdr_rmWord, rmOf_rmWord _ _ _ _ ho]
theorem RoundTrip.atomGMin (h : Hdr) (o : RM) : RoundTrip.Statement (.atomGMin h o) := by
  intro ho w e
  simp only [encode, Option.some.injEq] at e
  simp only [Instr.wf] at ho
  subst e
  simp [decode, decodeGroup5, op_rmWord, x_rmWord, hdr_rmWord, rmOf_rmWord _ _ _ _ ho]
theorem RoundTrip.atomGMax (h : Hdr) (o : RM) : RoundTrip.Statement (.atomGMax h o) := by
  intro ho w e
  simp only [encode, Option.some.injEq] at e
  simp only [Instr.wf] at ho
  subst e
  simp [decode, decodeGroup5, op_rmWord, x_rmWord, hdr_rmWord, rmOf_rmWord _ _ _ _ ho]
theorem RoundTrip.atomGAnd (h : Hdr) (o : RM) : RoundTrip.Statement (.atomGAnd h o) := by
  intro ho w e
  simp only [encode, Option.some.injEq] at e
  simp only [Instr.wf] at ho
  subst e
  simp [decode, decodeGroup5, op_rmWord, x_rmWord, hdr_rmWord, rmOf_rmWord _ _ _ _ ho]
theorem RoundTrip.atomGOr (h : Hdr) (o : RM) : RoundTrip.Statement (.atomGOr h o) := by
  intro ho w e
  simp only [encode, Option.some.injEq] at e
  simp only [Instr.wf] at ho
  subst e
  simp [decode, decodeGroup5, op_rmWord, x_rmWord, hdr_rmWord, rmOf_rmWord _ _ _ _ ho]
theorem RoundTrip.atomGXor (h : Hdr) (o : RM) : RoundTrip.Statement (.atomGXor h o) := by
  intro ho w e
  simp only [encode, Option.some.injEq] at e
  simp only [Instr.wf] at ho
  subst e
  simp [decode, decodeGroup5, op_rmWord, x_rmWord, hdr_rmWord, rmOf_rmWord _ _ _ _ ho]
theorem RoundTrip.atomGExch (h : Hdr) (o : RM) : RoundTrip.Statement (.atomGExch h o) := by
  intro ho w e
  simp only [encode, Option.some.injEq] at e
  simp only [Instr.wf] at ho
  subst e
  simp [decode, decodeGroup5, op_rmWord, x_rmWord, hdr_rmWord, rmOf_rmWord _ _ _ _ ho]
theorem RoundTrip.atomGCas (h : Hdr) (o : RM) : RoundTrip.Statement (.atomGCas h o) := by
  intro ho w e
  simp only [encode, Option.some.injEq] at e
  simp only [Instr.wf] at ho
  subst e
  simp [decode, decodeGroup5, op_rmWord, x_rmWord, hdr_rmWord, rmOf_rmWord _ _ _ _ ho]
theorem RoundTrip.atomSpAdd (h : Hdr) (o : RM) : RoundTrip.Statement (.atomSpAdd h o) := by
  intro ho w e
  simp only [encode, Option.some.injEq] at e
  simp only [Instr.wf] at ho
  subst e
  simp [decode, decodeGroup5, op_rmWord, x_rmWord, hdr_rmWord, rmOf_rmWord _ _ _ _ ho]
theorem RoundTrip.atomSpMin (h : Hdr) (o : RM) : RoundTrip.Statement (.atomSpMin h o) := by
  intro ho w e
  simp only [encode, Option.some.injEq] at e
  simp only [Instr.wf] at ho
  subst e
  simp [decode, decodeGroup5, op_rmWord, x_rmWord, hdr_rmWord, rmOf_rmWord _ _ _ _ ho]
theorem RoundTrip.atomSpMax (h : Hdr) (o : RM) : RoundTrip.Statement (.atomSpMax h o) := by
  intro ho w e
  simp only [encode, Option.some.injEq] at e
  simp only [Instr.wf] at ho
  subst e
  simp [decode, decodeGroup5, op_rmWord, x_rmWord, hdr_rmWord, rmOf_rmWord _ _ _ _ ho]
theorem RoundTrip.atomSpAnd (h : Hdr) (o : RM) : RoundTrip.Statement (.atomSpAnd h o) := by
  intro ho w e
  simp only [encode, Option.some.injEq] at e
  simp only [Instr.wf] at ho
  subst e
  simp [decode, decodeGroup5, op_rmWord, x_rmWord, hdr_rmWord, rmOf_rmWord _ _ _ _ ho]
theorem RoundTrip.atomSpOr (h : Hdr) (o : RM) : RoundTrip.Statement (.atomSpOr h o) := by
  intro ho w e
  simp only [encode, Option.some.injEq] at e
  simp only [Instr.wf] at ho
  subst e
  simp [decode, decodeGroup5, op_rmWord, x_rmWord, hdr_rmWord, rmOf_rmWord _ _ _ _ ho]
theorem RoundTrip.atomSpXor (h : Hdr) (o : RM) : RoundTrip.Statement (.atomSpXor h o) := by
  intro ho w e
  simp only [encode, Option.some.injEq] at e
  simp only [Instr.wf] at ho
  subst e
  simp [decode, decodeGroup5, op_rmWord, x_rmWord, hdr_rmWord, rmOf_rmWord _ _ _ _ ho]
theorem RoundTrip.atomSpExch (h : Hdr) (o : RM) : RoundTrip.Statement (.atomSpExch h o) := by
  intro ho w e
  simp only [encode, Option.some.injEq] at e
  simp only [Instr.wf] at ho
  subst e
  simp [decode, decodeGroup5, op_rmWord, x_rmWord, hdr_rmWord, rmOf_rmWord _ _ _ _ ho]
theorem RoundTrip.atomSpCas (h : Hdr) (o : RM) : RoundTrip.Statement (.atomSpCas h o) := by
  intro ho w e
  simp only [encode, Option.some.injEq] at e
  simp only [Instr.wf] at ho
  subst e
  simp [decode, decodeGroup5, op_rmWord, x_rmWord, hdr_rmWord, rmOf_rmWord _ _ _ _ ho]
theorem RoundTrip.fenceRel (h : Hdr) (o : RM) : RoundTrip.Statement (.fenceRel h o) := by
  intro ho w e
  simp only [encode, Option.some.injEq] at e
  simp only [Instr.wf] at ho
  subst e
  simp [decode, decodeGroup5, op_rmWord, x_rmWord, hdr_rmWord, rmOf_rmWord _ _ _ _ ho]
theorem RoundTrip.fenceAcq (h : Hdr) (o : RM) : RoundTrip.Statement (.fenceAcq h o) := by
  intro ho w e
  simp only [encode, Option.some.injEq] at e
  simp only [Instr.wf] at ho
  subst e
  simp [decode, decodeGroup5, op_rmWord, x_rmWord, hdr_rmWord, rmOf_rmWord _ _ _ _ ho]
theorem RoundTrip.fenceAr (h : Hdr) (o : RM) : RoundTrip.Statement (.fenceAr h o) := by
  intro ho w e
  simp only [encode, Option.some.injEq] at e
  simp only [Instr.wf] at ho
  subst e
  simp [decode, decodeGroup5, op_rmWord, x_rmWord, hdr_rmWord, rmOf_rmWord _ _ _ _ ho]
theorem RoundTrip.fenceX (h : Hdr) (o : RM) : RoundTrip.Statement (.fenceX h o) := by
  intro ho w e
  simp only [encode, Option.some.injEq] at e
  simp only [Instr.wf] at ho
  subst e
  simp [decode, decodeGroup5, op_rmWord, x_rmWord, hdr_rmWord, rmOf_rmWord _ _ _ _ ho]
theorem RoundTrip.bind (h : Hdr) (o : R4) : RoundTrip.Statement (.bind h o) := by
  intro ho w e
  simp only [encode, Option.some.injEq] at e
  simp only [Instr.wf] at ho
  subst e
  simp [decode, decodeGroup5, op_r4Word, x_r4Word, hdr_r4Word, r4Of_r4Word _ _ _ _ ho]
theorem RoundTrip.unbind (h : Hdr) (o : R4) : RoundTrip.Statement (.unbind h o) := by
  intro ho w e
  simp only [encode, Option.some.injEq] at e
  simp only [Instr.wf] at ho
  subst e
  simp [decode, decodeGroup5, op_r4Word, x_r4Word, hdr_r4Word, r4Of_r4Word _ _ _ _ ho]
theorem RoundTrip.acq (h : Hdr) (o : R4) : RoundTrip.Statement (.acq h o) := by
  intro ho w e
  simp only [encode, Option.some.injEq] at e
  simp only [Instr.wf] at ho
  subst e
  simp [decode, decodeGroup5, op_r4Word, x_r4Word, hdr_r4Word, r4Of_r4Word _ _ _ _ ho]
theorem RoundTrip.relSet (h : Hdr) (o : R4) : RoundTrip.Statement (.relSet h o) := by
  intro ho w e
  simp only [encode, Option.some.injEq] at e
  simp only [Instr.wf] at ho
  subst e
  simp [decode, decodeGroup5, op_r4Word, x_r4Word, hdr_r4Word, r4Of_r4Word _ _ _ _ ho]
theorem RoundTrip.relAdd (h : Hdr) (o : R4) : RoundTrip.Statement (.relAdd h o) := by
  intro ho w e
  simp only [encode, Option.some.injEq] at e
  simp only [Instr.wf] at ho
  subst e
  simp [decode, decodeGroup5, op_r4Word, x_r4Word, hdr_r4Word, r4Of_r4Word _ _ _ _ ho]
theorem RoundTrip.relSub (h : Hdr) (o : R4) : RoundTrip.Statement (.relSub h o) := by
  intro ho w e
  simp only [encode, Option.some.injEq] at e
  simp only [Instr.wf] at ho
  subst e
  simp [decode, decodeGroup5, op_r4Word, x_r4Word, hdr_r4Word, r4Of_r4Word _ _ _ _ ho]
theorem RoundTrip.waita (h : Hdr) (x : WaX) (o : RM) : RoundTrip.Statement (.waita h x o) := by
  intro ho w e
  simp only [encode, Option.some.injEq] at e
  simp only [Instr.wf] at ho
  subst e
  cases x <;>
  simp [decode, decodeGroup5, withX, waXOf, waXCode, op_rmWord, x_rmWord, hdr_rmWord, rmOf_rmWord _ _ _ _ ho]
theorem RoundTrip.barArv (h : Hdr) (o : R4) : RoundTrip.Statement (.barArv h o) := by
  intro ho w e
  simp only [encode, Option.some.injEq] at e
  simp only [Instr.wf] at ho
  subst e
  simp [decode, decodeGroup5, op_r4Word, x_r4Word, hdr_r4Word, r4Of_r4Word _ _ _ _ ho]
theorem RoundTrip.barWait (h : Hdr) (o : R4) : RoundTrip.Statement (.barWait h o) := by
  intro ho w e
  simp only [encode, Option.some.injEq] at e
  simp only [Instr.wf] at ho
  subst e
  simp [decode, decodeGroup5, op_r4Word, x_r4Word, hdr_r4Word, r4Of_r4Word _ _ _ _ ho]
theorem RoundTrip.barSync (h : Hdr) (o : R4) : RoundTrip.Statement (.barSync h o) := by
  intro ho w e
  simp only [encode, Option.some.injEq] at e
  simp only [Instr.wf] at ho
  subst e
  simp [decode, decodeGroup5, op_r4Word, x_r4Word, hdr_r4Word, r4Of_r4Word _ _ _ _ ho]
theorem RoundTrip.obres (h : Hdr) (o : RM) : RoundTrip.Statement (.obres h o) := by
  intro ho w e
  simp only [encode, Option.some.injEq] at e
  simp only [Instr.wf] at ho
  subst e
  simp [decode, decodeGroup6, op_rmWord, x_rmWord, hdr_rmWord, rmOf_rmWord _ _ _ _ ho]
theorem RoundTrip.obfree (h : Hdr) (o : RM) : RoundTrip.Statement (.obfree h o) := by
  intro ho w e
  simp only [encode, Option.some.injEq] at e
  simp only [Instr.wf] at ho
  subst e
  simp [decode, decodeGroup6, op_rmWord, x_rmWord, hdr_rmWord, rmOf_rmWord _ _ _ _ ho]
theorem RoundTrip.mma (h : Hdr) (o : R4) : RoundTrip.Statement (.mma h o) := by
  intro ho w e
  simp only [encode, Option.some.injEq] at e
  simp only [Instr.wf] at ho
  subst e
  simp [decode, decodeGroup6, op_r4Word, x_r4Word, hdr_r4Word, r4Of_r4Word _ _ _ _ ho]
theorem RoundTrip.msmld (h : Hdr) (x : Wd) (o : R4) : RoundTrip.Statement (.msmld h x o) := by
  intro ho w e
  simp only [encode, Option.some.injEq] at e
  simp only [Instr.wf] at ho
  subst e
  cases x <;>
  simp [decode, decodeGroup6, withX, wdOf, wdCode, op_r4Word, x_r4Word, hdr_r4Word, r4Of_r4Word _ _ _ _ ho]
theorem RoundTrip.msmst (h : Hdr) (x : Wd) (o : R4) : RoundTrip.Statement (.msmst h x o) := by
  intro ho w e
  simp only [encode, Option.some.injEq] at e
  simp only [Instr.wf] at ho
  subst e
  cases x <;>
  simp [decode, decodeGroup6, withX, wdOf, wdCode, op_r4Word, x_r4Word, hdr_r4Word, r4Of_r4Word _ _ _ _ ho]
theorem RoundTrip.bondAcq (h : Hdr) (o : RM) : RoundTrip.Statement (.bondAcq h o) := by
  intro ho w e
  simp only [encode, Option.some.injEq] at e
  simp only [Instr.wf] at ho
  subst e
  simp [decode, decodeGroup6, op_rmWord, x_rmWord, hdr_rmWord, rmOf_rmWord _ _ _ _ ho]
theorem RoundTrip.bondRel (h : Hdr) (o : R4) : RoundTrip.Statement (.bondRel h o) := by
  intro ho w e
  simp only [encode, Option.some.injEq] at e
  simp only [Instr.wf] at ho
  subst e
  simp [decode, decodeGroup6, op_r4Word, x_r4Word, hdr_r4Word, r4Of_r4Word _ _ _ _ ho]
theorem RoundTrip.cpy (h : Hdr) (o : R4) : RoundTrip.Statement (.cpy h o) := by
  intro ho w e
  simp only [encode, Option.some.injEq] at e
  simp only [Instr.wf] at ho
  subst e
  simp [decode, decodeGroup6, op_r4Word, x_r4Word, hdr_r4Word, r4Of_r4Word _ _ _ _ ho]
theorem RoundTrip.lxfer (h : Hdr) (o : R4) : RoundTrip.Statement (.lxfer h o) := by
  intro ho w e
  simp only [encode, Option.some.injEq] at e
  simp only [Instr.wf] at ho
  subst e
  simp [decode, decodeGroup6, op_r4Word, x_r4Word, hdr_r4Word, r4Of_r4Word _ _ _ _ ho]
theorem RoundTrip.swdecl (h : Hdr) (o : R4) : RoundTrip.Statement (.swdecl h o) := by
  intro ho w e
  simp only [encode, Option.some.injEq] at e
  simp only [Instr.wf] at ho
  subst e
  simp [decode, decodeGroup6, op_r4Word, x_r4Word, hdr_r4Word, r4Of_r4Word _ _ _ _ ho]
theorem RoundTrip.swstart (h : Hdr) (o : R4) : RoundTrip.Statement (.swstart h o) := by
  intro ho w e
  simp only [encode, Option.some.injEq] at e
  simp only [Instr.wf] at ho
  subst e
  simp [decode, decodeGroup6, op_r4Word, x_r4Word, hdr_r4Word, r4Of_r4Word _ _ _ _ ho]
theorem RoundTrip.swpull (h : Hdr) (o : R4) : RoundTrip.Statement (.swpull h o) := by
  intro ho w e
  simp only [encode, Option.some.injEq] at e
  simp only [Instr.wf] at ho
  subst e
  simp [decode, decodeGroup6, op_r4Word, x_r4Word, hdr_r4Word, r4Of_r4Word _ _ _ _ ho]
theorem RoundTrip.swpark (h : Hdr) (o : R4) : RoundTrip.Statement (.swpark h o) := by
  intro ho w e
  simp only [encode, Option.some.injEq] at e
  simp only [Instr.wf] at ho
  subst e
  simp [decode, decodeGroup6, op_r4Word, x_r4Word, hdr_r4Word, r4Of_r4Word _ _ _ _ ho]
theorem RoundTrip.swdone (h : Hdr) (o : R4) : RoundTrip.Statement (.swdone h o) := by
  intro ho w e
  simp only [encode, Option.some.injEq] at e
  simp only [Instr.wf] at ho
  subst e
  simp [decode, decodeGroup6, op_r4Word, x_r4Word, hdr_r4Word, r4Of_r4Word _ _ _ _ ho]
theorem RoundTrip.swkeep (h : Hdr) (o : R4) : RoundTrip.Statement (.swkeep h o) := by
  intro ho w e
  simp only [encode, Option.some.injEq] at e
  simp only [Instr.wf] at ho
  subst e
  simp [decode, decodeGroup6, op_r4Word, x_r4Word, hdr_r4Word, r4Of_r4Word _ _ _ _ ho]
theorem RoundTrip.swwake (h : Hdr) (o : R4) : RoundTrip.Statement (.swwake h o) := by
  intro ho w e
  simp only [encode, Option.some.injEq] at e
  simp only [Instr.wf] at ho
  subst e
  simp [decode, decodeGroup6, op_r4Word, x_r4Word, hdr_r4Word, r4Of_r4Word _ _ _ _ ho]
theorem RoundTrip.swstat (h : Hdr) (o : R4) : RoundTrip.Statement (.swstat h o) := by
  intro ho w e
  simp only [encode, Option.some.injEq] at e
  simp only [Instr.wf] at ho
  subst e
  simp [decode, decodeGroup6, op_r4Word, x_r4Word, hdr_r4Word, r4Of_r4Word _ _ _ _ ho]
theorem RoundTrip.trap (h : Hdr) (o : I22) : RoundTrip.Statement (.trap h o) := by
  intro ho w e
  simp only [encode, Option.some.injEq] at e
  simp only [Instr.wf] at ho
  subst e
  simp [decode, decodeGroup7, op_i22Word, x_i22Word, hdr_i22Word, i22Of_i22Word _ _ _ _ ho]
theorem RoundTrip.tret (h : Hdr) (o : R4) : RoundTrip.Statement (.tret h o) := by
  intro ho w e
  simp only [encode, Option.some.injEq] at e
  simp only [Instr.wf] at ho
  subst e
  simp [decode, decodeGroup7, op_r4Word, x_r4Word, hdr_r4Word, r4Of_r4Word _ _ _ _ ho]
theorem RoundTrip.sysr (h : Hdr) (o : R4) : RoundTrip.Statement (.sysr h o) := by
  intro ho w e
  simp only [encode, Option.some.injEq] at e
  simp only [Instr.wf] at ho
  subst e
  simp [decode, decodeGroup7, op_r4Word, x_r4Word, hdr_r4Word, r4Of_r4Word _ _ _ _ ho]
theorem RoundTrip.sysw (h : Hdr) (o : R4) : RoundTrip.Statement (.sysw h o) := by
  intro ho w e
  simp only [encode, Option.some.injEq] at e
  simp only [Instr.wf] at ho
  subst e
  simp [decode, decodeGroup7, op_r4Word, x_r4Word, hdr_r4Word, r4Of_r4Word _ _ _ _ ho]
theorem RoundTrip.clock (h : Hdr) (o : R4) : RoundTrip.Statement (.clock h o) := by
  intro ho w e
  simp only [encode, Option.some.injEq] at e
  simp only [Instr.wf] at ho
  subst e
  simp [decode, decodeGroup7, op_r4Word, x_r4Word, hdr_r4Word, r4Of_r4Word _ _ _ _ ho]
theorem RoundTrip.pld (h : Hdr) (x : Wd) (o : R4) : RoundTrip.Statement (.pld h x o) := by
  intro ho w e
  simp only [encode, Option.some.injEq] at e
  simp only [Instr.wf] at ho
  subst e
  cases x <;>
  simp [decode, decodeGroup7, withX, wdOf, wdCode, op_r4Word, x_r4Word, hdr_r4Word, r4Of_r4Word _ _ _ _ ho]
theorem RoundTrip.pst (h : Hdr) (x : Wd) (o : R4) : RoundTrip.Statement (.pst h x o) := by
  intro ho w e
  simp only [encode, Option.some.injEq] at e
  simp only [Instr.wf] at ho
  subst e
  cases x <;>
  simp [decode, decodeGroup7, withX, wdOf, wdCode, op_r4Word, x_r4Word, hdr_r4Word, r4Of_r4Word _ _ _ _ ho]
theorem RoundTrip.msix (h : Hdr) (o : R4) : RoundTrip.Statement (.msix h o) := by
  intro ho w e
  simp only [encode, Option.some.injEq] at e
  simp only [Instr.wf] at ho
  subst e
  simp [decode, decodeGroup7, op_r4Word, x_r4Word, hdr_r4Word, r4Of_r4Word _ _ _ _ ho]
theorem RoundTrip.grel (h : Hdr) (o : R4) : RoundTrip.Statement (.grel h o) := by
  intro ho w e
  simp only [encode, Option.some.injEq] at e
  simp only [Instr.wf] at ho
  subst e
  simp [decode, decodeGroup7, op_r4Word, x_r4Word, hdr_r4Word, r4Of_r4Word _ _ _ _ ho]
theorem RoundTrip.gstop (h : Hdr) (x : StopX) (o : R4) : RoundTrip.Statement (.gstop h x o) := by
  intro ho w e
  simp only [encode, Option.some.injEq] at e
  simp only [Instr.wf] at ho
  subst e
  cases x <;>
  simp [decode, decodeGroup7, withX, stopXOf, stopXCode, op_r4Word, x_r4Word, hdr_r4Word, r4Of_r4Word _ _ _ _ ho]
theorem RoundTrip.gsave (h : Hdr) (o : R4) : RoundTrip.Statement (.gsave h o) := by
  intro ho w e
  simp only [encode, Option.some.injEq] at e
  simp only [Instr.wf] at ho
  subst e
  simp [decode, decodeGroup7, op_r4Word, x_r4Word, hdr_r4Word, r4Of_r4Word _ _ _ _ ho]
theorem RoundTrip.grest (h : Hdr) (o : R4) : RoundTrip.Statement (.grest h o) := by
  intro ho w e
  simp only [encode, Option.some.injEq] at e
  simp only [Instr.wf] at ho
  subst e
  simp [decode, decodeGroup7, op_r4Word, x_r4Word, hdr_r4Word, r4Of_r4Word _ _ _ _ ho]
theorem RoundTrip.coldReset : RoundTrip.Statement .coldReset := by
  intro _ _ e; simp [encode] at e
theorem RoundTrip.perstDeassert : RoundTrip.Statement .perstDeassert := by
  intro _ _ e; simp [encode] at e
theorem RoundTrip.warmReset : RoundTrip.Statement .warmReset := by
  intro _ _ e; simp [encode] at e
theorem RoundTrip.configRequest : RoundTrip.Statement .configRequest := by
  intro _ _ e; simp [encode] at e
theorem RoundTrip.warmResetRequest : RoundTrip.Statement .warmResetRequest := by
  intro _ _ e; simp [encode] at e
theorem RoundTrip.functionResetRequest : RoundTrip.Statement .functionResetRequest := by
  intro _ _ e; simp [encode] at e
theorem RoundTrip.functionLevelReset : RoundTrip.Statement .functionLevelReset := by
  intro _ _ e; simp [encode] at e
theorem RoundTrip.functionResetWashEnd : RoundTrip.Statement .functionResetWashEnd := by
  intro _ _ e; simp [encode] at e
theorem RoundTrip.thermalShutdown : RoundTrip.Statement .thermalShutdown := by
  intro _ _ e; simp [encode] at e
theorem RoundTrip.droopDetect : RoundTrip.Statement .droopDetect := by
  intro _ _ e; simp [encode] at e
theorem RoundTrip.voltageFrequencyLoop : RoundTrip.Statement .voltageFrequencyLoop := by
  intro _ _ e; simp [encode] at e
theorem RoundTrip.governorWindow : RoundTrip.Statement .governorWindow := by
  intro _ _ e; simp [encode] at e
theorem RoundTrip.flitReceive : RoundTrip.Statement .flitReceive := by
  intro _ _ e; simp [encode] at e
theorem RoundTrip.nakReceive : RoundTrip.Statement .nakReceive := by
  intro _ _ e; simp [encode] at e
theorem RoundTrip.resendAfterBackoff : RoundTrip.Statement .resendAfterBackoff := by
  intro _ _ e; simp [encode] at e
theorem RoundTrip.ackTimer : RoundTrip.Statement .ackTimer := by
  intro _ _ e; simp [encode] at e
theorem RoundTrip.replayTimeout : RoundTrip.Statement .replayTimeout := by
  intro _ _ e; simp [encode] at e
theorem RoundTrip.laneLossOfLock : RoundTrip.Statement .laneLossOfLock := by
  intro _ _ e; simp [encode] at e
theorem RoundTrip.portRecoveryComplete : RoundTrip.Statement .portRecoveryComplete := by
  intro _ _ e; simp [encode] at e
theorem RoundTrip.portRecoveryTimeout : RoundTrip.Statement .portRecoveryTimeout := by
  intro _ _ e; simp [encode] at e
theorem RoundTrip.linkEnable : RoundTrip.Statement .linkEnable := by
  intro _ _ e; simp [encode] at e
theorem RoundTrip.linkDisable : RoundTrip.Statement .linkDisable := by
  intro _ _ e; simp [encode] at e
theorem RoundTrip.linkCountersClear : RoundTrip.Statement .linkCountersClear := by
  intro _ _ e; simp [encode] at e
theorem RoundTrip.registerWrite : RoundTrip.Statement .registerWrite := by
  intro _ _ e; simp [encode] at e
theorem RoundTrip.apercfgWrite : RoundTrip.Statement .apercfgWrite := by
  intro _ _ e; simp [encode] at e
theorem RoundTrip.hostApertureRead : RoundTrip.Statement .hostApertureRead := by
  intro _ _ e; simp [encode] at e
theorem RoundTrip.hostApertureWrite : RoundTrip.Statement .hostApertureWrite := by
  intro _ _ e; simp [encode] at e
theorem RoundTrip.featureLock : RoundTrip.Statement .featureLock := by
  intro _ _ e; simp [encode] at e
theorem RoundTrip.fetchNonce : RoundTrip.Statement .fetchNonce := by
  intro _ _ e; simp [encode] at e
theorem RoundTrip.submitRelease : RoundTrip.Statement .submitRelease := by
  intro _ _ e; simp [encode] at e
theorem RoundTrip.ownershipReservedOp : RoundTrip.Statement .ownershipReservedOp := by
  intro _ _ e; simp [encode] at e
theorem RoundTrip.createContext : RoundTrip.Statement .createContext := by
  intro _ _ e; simp [encode] at e
theorem RoundTrip.destroyContext : RoundTrip.Statement .destroyContext := by
  intro _ _ e; simp [encode] at e
theorem RoundTrip.createQueue : RoundTrip.Statement .createQueue := by
  intro _ _ e; simp [encode] at e
theorem RoundTrip.destroyQueue : RoundTrip.Statement .destroyQueue := by
  intro _ _ e; simp [encode] at e
theorem RoundTrip.registerSignal : RoundTrip.Statement .registerSignal := by
  intro _ _ e; simp [encode] at e
theorem RoundTrip.unregisterSignal : RoundTrip.Statement .unregisterSignal := by
  intro _ _ e; simp [encode] at e
theorem RoundTrip.setEventRing : RoundTrip.Statement .setEventRing := by
  intro _ _ e; simp [encode] at e
theorem RoundTrip.resetQueue : RoundTrip.Statement .resetQueue := by
  intro _ _ e; simp [encode] at e
theorem RoundTrip.readAttestationQuote : RoundTrip.Statement .readAttestationQuote := by
  intro _ _ e; simp [encode] at e
theorem RoundTrip.checkpointStreamStart : RoundTrip.Statement .checkpointStreamStart := by
  intro _ _ e; simp [encode] at e
theorem RoundTrip.checkpointStreamAbort : RoundTrip.Statement .checkpointStreamAbort := by
  intro _ _ e; simp [encode] at e
theorem RoundTrip.checkpointStreamEnd : RoundTrip.Statement .checkpointStreamEnd := by
  intro _ _ e; simp [encode] at e
theorem RoundTrip.rangeHold : RoundTrip.Statement .rangeHold := by
  intro _ _ e; simp [encode] at e
theorem RoundTrip.rangeRelease : RoundTrip.Statement .rangeRelease := by
  intro _ _ e; simp [encode] at e
theorem RoundTrip.rangeInvalidate : RoundTrip.Statement .rangeInvalidate := by
  intro _ _ e; simp [encode] at e
theorem RoundTrip.migratePage : RoundTrip.Statement .migratePage := by
  intro _ _ e; simp [encode] at e
theorem RoundTrip.resolveFaultsRetry : RoundTrip.Statement .resolveFaultsRetry := by
  intro _ _ e; simp [encode] at e
theorem RoundTrip.resolveFaultsFail : RoundTrip.Statement .resolveFaultsFail := by
  intro _ _ e; simp [encode] at e
theorem RoundTrip.readCounters : RoundTrip.Statement .readCounters := by
  intro _ _ e; simp [encode] at e
theorem RoundTrip.mailboxReservedOp : RoundTrip.Statement .mailboxReservedOp := by
  intro _ _ e; simp [encode] at e
theorem RoundTrip.mailboxRequestComplete : RoundTrip.Statement .mailboxRequestComplete := by
  intro _ _ e; simp [encode] at e
theorem RoundTrip.eventConsumerWrite : RoundTrip.Statement .eventConsumerWrite := by
  intro _ _ e; simp [encode] at e
theorem RoundTrip.eventLostClear : RoundTrip.Statement .eventLostClear := by
  intro _ _ e; simp [encode] at e
theorem RoundTrip.ceCountClear : RoundTrip.Statement .ceCountClear := by
  intro _ _ e; simp [encode] at e
theorem RoundTrip.ironctlWrite : RoundTrip.Statement .ironctlWrite := by
  intro _ _ e; simp [encode] at e
theorem RoundTrip.packetPickup : RoundTrip.Statement .packetPickup := by
  intro _ _ e; simp [encode] at e
theorem RoundTrip.queueScan : RoundTrip.Statement .queueScan := by
  intro _ _ e; simp [encode] at e
theorem RoundTrip.slotIdleRelease : RoundTrip.Statement .slotIdleRelease := by
  intro _ _ e; simp [encode] at e
theorem RoundTrip.queueEviction : RoundTrip.Statement .queueEviction := by
  intro _ _ e; simp [encode] at e
theorem RoundTrip.suspectedWaitCycle : RoundTrip.Statement .suspectedWaitCycle := by
  intro _ _ e; simp [encode] at e
theorem RoundTrip.waitSignalTimeout : RoundTrip.Statement .waitSignalTimeout := by
  intro _ _ e; simp [encode] at e
theorem RoundTrip.launchPacket : RoundTrip.Statement .launchPacket := by
  intro _ _ e; simp [encode] at e
theorem RoundTrip.copyPacket : RoundTrip.Statement .copyPacket := by
  intro _ _ e; simp [encode] at e
theorem RoundTrip.waitSignalPacket : RoundTrip.Statement .waitSignalPacket := by
  intro _ _ e; simp [encode] at e
theorem RoundTrip.setSignalPacket : RoundTrip.Statement .setSignalPacket := by
  intro _ _ e; simp [encode] at e
theorem RoundTrip.barrierAndPacket : RoundTrip.Statement .barrierAndPacket := by
  intro _ _ e; simp [encode] at e
theorem RoundTrip.markerPacket : RoundTrip.Statement .markerPacket := by
  intro _ _ e; simp [encode] at e
theorem RoundTrip.headWaitSatisfied : RoundTrip.Statement .headWaitSatisfied := by
  intro _ _ e; simp [encode] at e
theorem RoundTrip.agentAccessRetry : RoundTrip.Statement .agentAccessRetry := by
  intro _ _ e; simp [encode] at e
theorem RoundTrip.workgroupClaim : RoundTrip.Statement .workgroupClaim := by
  intro _ _ e; simp [encode] at e
theorem RoundTrip.gangClaim : RoundTrip.Statement .gangClaim := by
  intro _ _ e; simp [encode] at e
theorem RoundTrip.gangHoldRequest : RoundTrip.Statement .gangHoldRequest := by
  intro _ _ e; simp [encode] at e
theorem RoundTrip.gangHoldAnswer : RoundTrip.Statement .gangHoldAnswer := by
  intro _ _ e; simp [encode] at e
theorem RoundTrip.groupRelease : RoundTrip.Statement .groupRelease := by
  intro _ _ e; simp [encode] at e
theorem RoundTrip.headOfLineHold : RoundTrip.Statement .headOfLineHold := by
  intro _ _ e; simp [encode] at e
theorem RoundTrip.sliceContentionTest : RoundTrip.Statement .sliceContentionTest := by
  intro _ _ e; simp [encode] at e
theorem RoundTrip.stopRequest : RoundTrip.Statement .stopRequest := by
  intro _ _ e; simp [encode] at e
theorem RoundTrip.drainComplete : RoundTrip.Statement .drainComplete := by
  intro _ _ e; simp [encode] at e
theorem RoundTrip.workgroupRetire : RoundTrip.Statement .workgroupRetire := by
  intro _ _ e; simp [encode] at e
theorem RoundTrip.watchdogHang : RoundTrip.Statement .watchdogHang := by
  intro _ _ e; simp [encode] at e
theorem RoundTrip.remotePendingLimit : RoundTrip.Statement .remotePendingLimit := by
  intro _ _ e; simp [encode] at e
theorem RoundTrip.uncorrectableError : RoundTrip.Statement .uncorrectableError := by
  intro _ _ e; simp [encode] at e
theorem RoundTrip.poisonConsumed : RoundTrip.Statement .poisonConsumed := by
  intro _ _ e; simp [encode] at e
theorem RoundTrip.killComplete : RoundTrip.Statement .killComplete := by
  intro _ _ e; simp [encode] at e
theorem RoundTrip.frameWashComplete : RoundTrip.Statement .frameWashComplete := by
  intro _ _ e; simp [encode] at e
theorem RoundTrip.l2SliceWashComplete : RoundTrip.Statement .l2SliceWashComplete := by
  intro _ _ e; simp [encode] at e
theorem RoundTrip.ironingTurn : RoundTrip.Statement .ironingTurn := by
  intro _ _ e; simp [encode] at e
theorem RoundTrip.ironingScanStart : RoundTrip.Statement .ironingScanStart := by
  intro _ _ e; simp [encode] at e
theorem RoundTrip.ironingScanComplete : RoundTrip.Statement .ironingScanComplete := by
  intro _ _ e; simp [encode] at e
theorem RoundTrip.pageWalk : RoundTrip.Statement .pageWalk := by
  intro _ _ e; simp [encode] at e
theorem RoundTrip.overflowNakResend : RoundTrip.Statement .overflowNakResend := by
  intro _ _ e; simp [encode] at e
theorem RoundTrip.l2Eviction : RoundTrip.Statement .l2Eviction := by
  intro _ _ e; simp [encode] at e
theorem RoundTrip.multicastWindowClose : RoundTrip.Statement .multicastWindowClose := by
  intro _ _ e; simp [encode] at e
theorem RoundTrip.quarterSelection : RoundTrip.Statement .quarterSelection := by
  intro _ _ e; simp [encode] at e
theorem RoundTrip.flagOperationComplete : RoundTrip.Statement .flagOperationComplete := by
  intro _ _ e; simp [encode] at e
theorem RoundTrip.engineNakResend : RoundTrip.Statement .engineNakResend := by
  intro _ _ e; simp [encode] at e
theorem RoundTrip.operandTokenReceive : RoundTrip.Statement .operandTokenReceive := by
  intro _ _ e; simp [encode] at e
theorem RoundTrip.operandTokenResend : RoundTrip.Statement .operandTokenResend := by
  intro _ _ e; simp [encode] at e
theorem RoundTrip.matrixOperationComplete : RoundTrip.Statement .matrixOperationComplete := by
  intro _ _ e; simp [encode] at e
theorem RoundTrip.copyCommandComplete : RoundTrip.Statement .copyCommandComplete := by
  intro _ _ e; simp [encode] at e
theorem RoundTrip.linkTransferComplete : RoundTrip.Statement .linkTransferComplete := by
  intro _ _ e; simp [encode] at e
theorem RoundTrip.remoteWakeNotify : RoundTrip.Statement .remoteWakeNotify := by
  intro _ _ e; simp [encode] at e
theorem RoundTrip.sweepDecisionNotify : RoundTrip.Statement .sweepDecisionNotify := by
  intro _ _ e; simp [encode] at e
theorem RoundTrip.stalledWatchReread : RoundTrip.Statement .stalledWatchReread := by
  intro _ _ e; simp [encode] at e
theorem RoundTrip.resumeWordWrite : RoundTrip.Statement .resumeWordWrite := by
  intro _ _ e; simp [encode] at e
theorem RoundTrip.syscallConsWrite : RoundTrip.Statement .syscallConsWrite := by
  intro _ _ e; simp [encode] at e
theorem RoundTrip.bankmodeWrite : RoundTrip.Statement .bankmodeWrite := by
  intro _ _ e; simp [encode] at e
theorem RoundTrip.bankSwitchComplete : RoundTrip.Statement .bankSwitchComplete := by
  intro _ _ e; simp [encode] at e
theorem RoundTrip.waitaConditionMet : RoundTrip.Statement .waitaConditionMet := by
  intro _ _ e; simp [encode] at e
theorem RoundTrip.lpc1Write : RoundTrip.Statement .lpc1Write := by
  intro _ _ e; simp [encode] at e
theorem RoundTrip.rngvalWrite : RoundTrip.Statement .rngvalWrite := by
  intro _ _ e; simp [encode] at e
theorem RoundTrip.mxstallClear : RoundTrip.Statement .mxstallClear := by
  intro _ _ e; simp [encode] at e
theorem RoundTrip.engnakClear : RoundTrip.Statement .engnakClear := by
  intro _ _ e; simp [encode] at e
theorem RoundTrip.startStepComplete : RoundTrip.Statement .startStepComplete := by
  intro _ _ e; simp [encode] at e
theorem RoundTrip.linkTrainingComplete : RoundTrip.Statement .linkTrainingComplete := by
  intro _ _ e; simp [encode] at e
theorem RoundTrip.pcieLinkTrained : RoundTrip.Statement .pcieLinkTrained := by
  intro _ _ e; simp [encode] at e
theorem RoundTrip.droopEnd : RoundTrip.Statement .droopEnd := by
  intro _ _ e; simp [encode] at e
theorem RoundTrip.powerLoss : RoundTrip.Statement .powerLoss := by
  intro _ _ e; simp [encode] at e
theorem RoundTrip.ownerKeyProvisioning : RoundTrip.Statement .ownerKeyProvisioning := by
  intro _ _ e; simp [encode] at e

end Sys2Proof.Laws
end

