-- ==== Sys2Proof/Tests/Slice0.lean ====
section
/-! SUPPORT. The model's own tests: the decoder on words written out from the encoding tables of the manual, the checks of
well-formedness, results of the manual's worked examples, and for every statement with hypotheses a state that meets them. -/

namespace Sys2Proof.Tests

open Machine

set_option Elab.async false

/-! ### Well-formed terms

A field's pattern that the map assigns is never `bad`: each check refuses it. -/

def badOp : Opnd := .bad 0x004
def okOp : Opnd := .bad 0x123

theorem test_wf_opnd : badOp.wf = false ∧ okOp.wf = true ∧ Opnd.z.wf = true := by decide
theorem test_wf_fields :
    [R4.wf ⟨badOp, .z, .z, .z⟩, R4.wf ⟨.z, badOp, .z, .z⟩, R4.wf ⟨.z, .z, badOp, .z⟩, R4.wf ⟨.z, .z, .z, badOp⟩,
      RM.wf ⟨badOp, .z, .z, 0⟩, RM.wf ⟨.z, badOp, .z, 0⟩, RM.wf ⟨.z, .z, badOp, 0⟩, CV.wf ⟨badOp, .z, 0, 0⟩,
      CV.wf ⟨.z, badOp, 0, 0⟩, I22.wf ⟨badOp, .z, 0⟩, I22.wf ⟨.z, badOp, 0⟩, I20.wf ⟨badOp, .z, 0, 0⟩,
      I20.wf ⟨.z, badOp, 0, 0⟩] = List.replicate 13 false := by decide
theorem test_wf_instr :
    [(Instr.nop ⟨false, 15, 7⟩ ⟨badOp, .z, .z, .z⟩).wf, (Instr.icmp ⟨false, 15, 7⟩ .eq ⟨.z, badOp, .z, 0⟩).wf,
      (Instr.cvt ⟨false, 15, 7⟩ .rn ⟨badOp, .z, 0, 0⟩).wf, (Instr.bra ⟨false, 15, 7⟩ ⟨.z, badOp, 0⟩).wf,
      (Instr.fmoviF32 ⟨false, 15, 7⟩ ⟨badOp, .z, 0, 0⟩).wf] = List.replicate 5 false := by decide

/-! ### Decoding: one word of every constructor, its fields set as R324 places them

S is 1, F 6, G 0b0010, D V4 (0x004), A S2 (0x202), B the inline integer 3 (0x583), C special source 9 (0x509). -/

def h6 : Hdr := ⟨true, 6, 2⟩
def q4 : R4 := ⟨.v 4, .s 2, .imm 3, .sp 9⟩
def qm : RM := ⟨.v 4, .s 2, .imm 3, 0x509⟩
def qc : CV := ⟨.v 4, .s 2, 0x583, 0x509⟩
def q22 : I22 := ⟨.v 4, .s 2, 0x2C1D09⟩
def q20 : I20 := ⟨.v 4, .s 2, 0xB0742, 1⟩

/-- Whether every word of a list decodes to the instruction beside it. -/
def decodesTo (l : List (Nat × Instr)) : Bool := l.all fun e => decodeTableWord 64 e.1 == some e.2

/-- Group 000. -/
theorem test_decode_control : decodesTo
  [(0x00B1_0044_0560_E848, .nop h6 q4), (0x01B1_0044_0560_E848, .bra h6 q22), (0x02B1_0044_0560_E848, .brx h6 q4),
   (0x03B1_0044_0560_E848, .call h6 q22), (0x04B1_0044_0560_E848, .callx h6 q4), (0x05B1_0044_0560_E848, .ret h6 q4),
   (0x06B1_0044_0560_E848, .exit h6 q4), (0x07B1_0044_0560_E848, .yield h6 q4), (0x08B1_0044_0560_E848, .jenter h6 qm),
   (0x09B1_0044_0560_E848, .jquit h6 qm), (0x0AB1_0044_0560_E848, .jwait h6 qm), (0x0BB1_0044_0560_E848, .jsave h6 qm),
   (0x0CB1_0044_0560_E848, .jrestore h6 qm), (0x0DB1_0044_0560_E848, .jread h6 qm)] = true := by decide +kernel

/-- Group 001. -/
theorem test_decode_integers1 : decodesTo
  [(0x20B1_0044_0560_E848, .mov h6 .w32 q4), (0x20B1_0044_0560_E849, .mov h6 .w64 q4),
   (0x21B1_0044_0560_E848, .iadd h6 .wrap32 q4), (0x21B1_0044_0560_E849, .iadd h6 .satI32 q4),
   (0x21B1_0044_0560_E84A, .iadd h6 .satN32 q4), (0x21B1_0044_0560_E84B, .iadd h6 .wrap64 q4),
   (0x22B1_0044_0560_E848, .isub h6 .wrap32 q4), (0x22B1_0044_0560_E849, .isub h6 .satI32 q4),
   (0x22B1_0044_0560_E84A, .isub h6 .satN32 q4), (0x22B1_0044_0560_E84B, .isub h6 .wrap64 q4),
   (0x23B1_0044_0560_E848, .iaddi h6 .w32 q22), (0x23B1_0044_0560_E849, .iaddi h6 .w64 q22),
   (0x24B1_0044_0560_E848, .imul h6 .low32 q4), (0x24B1_0044_0560_E849, .imul h6 .hiI32 q4),
   (0x24B1_0044_0560_E84A, .imul h6 .hiN32 q4), (0x24B1_0044_0560_E84B, .imul h6 .low64 q4),
   (0x25B1_0044_0560_E848, .imad h6 .low32 q4), (0x25B1_0044_0560_E849, .imad h6 .wideI32 q4),
   (0x25B1_0044_0560_E84A, .imad h6 .wideN32 q4), (0x26B1_0044_0560_E848, .imin h6 .i32 q4),
   (0x26B1_0044_0560_E849, .imin h6 .n32 q4), (0x26B1_0044_0560_E84A, .imin h6 .i64 q4),
   (0x26B1_0044_0560_E84B, .imin h6 .n64 q4), (0x27B1_0044_0560_E848, .imax h6 .i32 q4)] = true := by decide +kernel

theorem test_decode_integers2 : decodesTo
  [(0x27B1_0044_0560_E849, .imax h6 .n32 q4), (0x27B1_0044_0560_E84A, .imax h6 .i64 q4),
   (0x27B1_0044_0560_E84B, .imax h6 .n64 q4), (0x28B1_0044_0560_E848, .shl h6 q4), (0x28B1_0044_0560_E849, .shr h6 q4),
   (0x28B1_0044_0560_E84A, .sar h6 q4), (0x28B1_0044_0560_E84B, .rol h6 q4), (0x28B1_0044_0560_E84C, .ror h6 q4),
   (0x29B1_0044_0560_E848, .fshL h6 q4), (0x29B1_0044_0560_E849, .fshR h6 q4), (0x2AB1_0044_0560_E848, .andB h6 q4),
   (0x2AB1_0044_0560_E849, .orB h6 q4), (0x2AB1_0044_0560_E84A, .xorB h6 q4), (0x2AB1_0044_0560_E84B, .andnB h6 q4),
   (0x2AB1_0044_0560_E84C, .ornB h6 q4), (0x2AB1_0044_0560_E84D, .xnorB h6 q4), (0x2AB1_0044_0560_E84E, .notB h6 q4),
   (0x2BB1_0044_0560_E848, .clz h6 q4), (0x2BB1_0044_0560_E849, .popc h6 q4), (0x2BB1_0044_0560_E84A, .brev h6 q4),
   (0x2CB1_0044_0560_E848, .bfe h6 .zero q4), (0x2CB1_0044_0560_E849, .bfe h6 .sign q4),
   (0x2DB1_0044_0560_E848, .bfi h6 q4), (0x2EB1_0044_0560_E848, .icmp h6 .eq qm)] = true := by decide +kernel

theorem test_decode_integers3 : decodesTo
  [(0x2EB1_0044_0560_E849, .icmp h6 .ne qm), (0x2EB1_0044_0560_E84A, .icmp h6 .lt qm),
   (0x2EB1_0044_0560_E84B, .icmp h6 .le qm), (0x2EB1_0044_0560_E84C, .icmp h6 .gt qm),
   (0x2EB1_0044_0560_E84D, .icmp h6 .ge qm), (0x2FB1_0044_0560_E848, .sel h6 .w32 q4),
   (0x2FB1_0044_0560_E849, .sel h6 .w64 q4), (0x30B1_0044_0560_E848, .pand h6 q4), (0x30B1_0044_0560_E849, .por h6 q4),
   (0x30B1_0044_0560_E84A, .pxor h6 q4), (0x30B1_0044_0560_E84B, .pandn h6 q4), (0x30B1_0044_0560_E84C, .pnot h6 q4),
   (0x31B1_0044_0560_E848, .lea h6 .sx qm), (0x31B1_0044_0560_E849, .lea h6 .zx qm), (0x32B1_0044_0560_E848, .ptov h6 q4),
   (0x32B1_0044_0560_E849, .vtop h6 q4), (0x33B1_0044_0560_E848, .movi h6 .w32 q22),
   (0x33B1_0044_0560_E849, .movi h6 .w64 q22)] = true := by decide +kernel

/-- Group 010. -/
theorem test_decode_floats1 : decodesTo
  [(0x40B1_0044_0560_E848, .faddF32 h6 .rn qm), (0x40B1_0044_0560_E849, .faddF32 h6 .rz qm),
   (0x40B1_0044_0560_E84A, .faddF32 h6 .ru qm), (0x40B1_0044_0560_E84B, .faddF32 h6 .rd qm),
   (0x40B1_0044_0560_E84C, .faddF32 h6 .rs qm), (0x44B1_0044_0560_E84C, .fmulF32 h6 .rs qm),
   (0x48B1_0044_0560_E849, .fmaF32 h6 .rz q4), (0x4CB1_0044_0560_E848, .fminF32 h6 q4),
   (0x4CB1_0044_0560_E849, .fmaxF32 h6 q4), (0x50B1_0044_0560_E848, .fcmpF32 h6 .eq q4),
   (0x50B1_0044_0560_E849, .fcmpF32 h6 .ne q4), (0x50B1_0044_0560_E84A, .fcmpF32 h6 .lt q4),
   (0x50B1_0044_0560_E84B, .fcmpF32 h6 .le q4), (0x50B1_0044_0560_E84C, .fcmpF32 h6 .gt q4),
   (0x50B1_0044_0560_E84D, .fcmpF32 h6 .ge q4), (0x50B1_0044_0560_E84E, .fcmpF32 h6 .un q4),
   (0x50B1_0044_0560_E84F, .fcmpF32 h6 .ord q4), (0x41B1_0044_0560_E84A, .faddF64 h6 .ru qm),
   (0x45B1_0044_0560_E84B, .fmulF64 h6 .rd qm), (0x49B1_0044_0560_E84A, .fmaF64 h6 .ru q4),
   (0x4DB1_0044_0560_E848, .fminF64 h6 q4), (0x4DB1_0044_0560_E849, .fmaxF64 h6 q4),
   (0x51B1_0044_0560_E84C, .fcmpF64 h6 .gt q4), (0x42B1_0044_0560_E84B, .faddF16 h6 .rd qm)] = true := by decide +kernel

theorem test_decode_floats2 : decodesTo
  [(0x46B1_0044_0560_E84A, .fmulF16 h6 .ru qm), (0x4AB1_0044_0560_E84B, .fmaF16 h6 .rd q4),
   (0x4EB1_0044_0560_E848, .fminF16 h6 q4), (0x4EB1_0044_0560_E849, .fmaxF16 h6 q4),
   (0x52B1_0044_0560_E84D, .fcmpF16 h6 .ge q4), (0x43B1_0044_0560_E84C, .faddBf16 h6 .rs qm),
   (0x47B1_0044_0560_E849, .fmulBf16 h6 .rz qm), (0x4BB1_0044_0560_E84C, .fmaBf16 h6 .rs q4),
   (0x4FB1_0044_0560_E848, .fminBf16 h6 q4), (0x4FB1_0044_0560_E849, .fmaxBf16 h6 q4),
   (0x53B1_0044_0560_E84E, .fcmpBf16 h6 .un q4), (0x54B1_0044_0560_E848, .frcpF32 h6 q4),
   (0x54B1_0044_0560_E849, .fsqrtF32 h6 q4), (0x54B1_0044_0560_E84A, .frsqF32 h6 q4),
   (0x54B1_0044_0560_E84B, .fexp2F32 h6 q4), (0x54B1_0044_0560_E84C, .flog2F32 h6 q4),
   (0x54B1_0044_0560_E84D, .fsinF32 h6 q4), (0x54B1_0044_0560_E84E, .fcosF32 h6 q4),
   (0x54B1_0044_0560_E84F, .ftanhF32 h6 q4), (0x55B1_0044_0560_E848, .frcpF64 h6 q4),
   (0x55B1_0044_0560_E849, .fsqrtF64 h6 q4), (0x55B1_0044_0560_E84A, .frsqF64 h6 q4),
   (0x56B1_0044_0560_E84B, .faddiF32 h6 .rd q20), (0x57B1_0044_0560_E84C, .fmuliF32 h6 .rs q20)] = true := by decide +kernel

theorem test_decode_floats3 : decodesTo
  [(0x58B1_0044_0560_E849, .fmaiF32 h6 .rz q20), (0x59B1_0044_0560_E848, .fmoviF32 h6 q20)] = true := by decide +kernel

/-- Group 011. -/
theorem test_decode_lanes1 : decodesTo
  [(0x60B1_0044_0560_E84C, .cvt h6 .rs qc), (0x61B1_0044_0560_E84A, .bpack h6 .ru qm),
   (0x62B1_0044_0560_E848, .bunpk h6 qm), (0x63B1_0044_0560_E848, .xpatld h6 qm), (0x64B1_0044_0560_E848, .xperm h6 qm),
   (0x65B1_0044_0560_E848, .shflIdx h6 q4), (0x65B1_0044_0560_E849, .shflUp h6 q4),
   (0x65B1_0044_0560_E84A, .shflDown h6 q4), (0x65B1_0044_0560_E84B, .shflXor h6 q4),
   (0x66B1_0044_0560_E848, .bcast h6 .w32 q4), (0x66B1_0044_0560_E849, .bcast h6 .w64 q4),
   (0x67B1_0044_0560_E848, .ballot h6 q4), (0x68B1_0044_0560_E848, .redAdd h6 qm), (0x68B1_0044_0560_E849, .redMin h6 qm),
   (0x68B1_0044_0560_E84A, .redMax h6 qm), (0x68B1_0044_0560_E84B, .redAnd h6 qm), (0x68B1_0044_0560_E84C, .redOr h6 qm),
   (0x68B1_0044_0560_E84D, .redXor h6 qm), (0x69B1_0044_0560_E848, .fredAdd h6 qm),
   (0x69B1_0044_0560_E849, .fredMin h6 qm), (0x69B1_0044_0560_E84A, .fredMax h6 qm),
   (0x6AB1_0044_0560_E848, .scanAdd h6 qm), (0x6AB1_0044_0560_E849, .scanXadd h6 qm),
   (0x6AB1_0044_0560_E84A, .scanMax h6 qm)] = true := by decide +kernel

theorem test_decode_lanes2 : decodesTo
  [(0x6AB1_0044_0560_E84B, .scanMin h6 qm), (0x6BB1_0044_0560_E848, .voteAny h6 q4),
   (0x6BB1_0044_0560_E849, .voteAll h6 q4), (0x6BB1_0044_0560_E84A, .voteUni h6 q4)] = true := by decide +kernel

/-- Group 100. -/
theorem test_decode_memory1 : decodesTo
  [(0x80B1_0044_0560_E848, .ldG h6 .b8 q4), (0x80B1_0044_0560_E849, .ldG h6 .i8 q4),
   (0x80B1_0044_0560_E84A, .ldG h6 .b16 q4), (0x80B1_0044_0560_E84B, .ldG h6 .i16 q4),
   (0x80B1_0044_0560_E84C, .ldG h6 .b32 q4), (0x80B1_0044_0560_E84D, .ldG h6 .b64 q4),
   (0x80B1_0044_0560_E84E, .ldG h6 .b128 q4), (0x84B1_0044_0560_E848, .stG h6 .b8 q4),
   (0x84B1_0044_0560_E84A, .stG h6 .b16 q4), (0x84B1_0044_0560_E84C, .stG h6 .b32 q4),
   (0x84B1_0044_0560_E84D, .stG h6 .b64 q4), (0x84B1_0044_0560_E84E, .stG h6 .b128 q4),
   (0x81B1_0044_0560_E849, .ldSp h6 .i8 q4), (0x85B1_0044_0560_E84C, .stSp h6 .b32 q4),
   (0x82B1_0044_0560_E84B, .ldOb h6 .i16 q4), (0x86B1_0044_0560_E84D, .stOb h6 .b64 q4),
   (0x83B1_0044_0560_E84D, .ldMs h6 .b64 q4), (0x87B1_0044_0560_E84E, .stMs h6 .b128 q4),
   (0x88B1_0044_0560_E848, .stuG h6 q4), (0x89B1_0044_0560_E848, .stuSp h6 q4), (0x8AB1_0044_0560_E848, .ldmc h6 .sp q4),
   (0x8AB1_0044_0560_E849, .ldmc h6 .ob q4), (0x8BB1_0044_0560_E848, .prefL1 h6 q4), (0x8BB1_0044_0560_E849, .prefL2 h6 q4)] = true := by decide +kernel

theorem test_decode_memory2 : decodesTo
  [(0x8CB1_0044_0560_E848, .residKeep h6 q4), (0x8CB1_0044_0560_E849, .residNorm h6 q4),
   (0x8DB1_0044_0560_E848, .banksw h6 q4)] = true := by decide +kernel

/-- Group 101. -/
theorem test_decode_atomics1 : decodesTo
  [(0xA0B1_0044_0560_E848, .atomGAdd h6 qm), (0xA0B1_0044_0560_E849, .atomGMin h6 qm),
   (0xA0B1_0044_0560_E84A, .atomGMax h6 qm), (0xA0B1_0044_0560_E84B, .atomGAnd h6 qm),
   (0xA0B1_0044_0560_E84C, .atomGOr h6 qm), (0xA0B1_0044_0560_E84D, .atomGXor h6 qm),
   (0xA0B1_0044_0560_E84E, .atomGExch h6 qm), (0xA0B1_0044_0560_E84F, .atomGCas h6 qm),
   (0xA1B1_0044_0560_E848, .atomSpAdd h6 qm), (0xA1B1_0044_0560_E849, .atomSpMin h6 qm),
   (0xA1B1_0044_0560_E84A, .atomSpMax h6 qm), (0xA1B1_0044_0560_E84B, .atomSpAnd h6 qm),
   (0xA1B1_0044_0560_E84C, .atomSpOr h6 qm), (0xA1B1_0044_0560_E84D, .atomSpXor h6 qm),
   (0xA1B1_0044_0560_E84E, .atomSpExch h6 qm), (0xA1B1_0044_0560_E84F, .atomSpCas h6 qm),
   (0xA2B1_0044_0560_E848, .fenceRel h6 qm), (0xA2B1_0044_0560_E849, .fenceAcq h6 qm),
   (0xA2B1_0044_0560_E84A, .fenceAr h6 qm), (0xA3B1_0044_0560_E848, .fenceX h6 qm), (0xA4B1_0044_0560_E848, .bind h6 q4),
   (0xA5B1_0044_0560_E848, .unbind h6 q4), (0xA6B1_0044_0560_E848, .acq h6 q4), (0xA7B1_0044_0560_E848, .relSet h6 q4)] = true := by decide +kernel

theorem test_decode_atomics2 : decodesTo
  [(0xA7B1_0044_0560_E849, .relAdd h6 q4), (0xA7B1_0044_0560_E84A, .relSub h6 q4),
   (0xA8B1_0044_0560_E848, .waita h6 .eq qm), (0xA8B1_0044_0560_E849, .waita h6 .ne qm),
   (0xA8B1_0044_0560_E84A, .waita h6 .lt qm), (0xA8B1_0044_0560_E84B, .waita h6 .ge qm),
   (0xA9B1_0044_0560_E848, .barArv h6 q4), (0xA9B1_0044_0560_E849, .barWait h6 q4), (0xA9B1_0044_0560_E84A, .barSync h6 q4)] = true := by decide +kernel

/-- Group 110. -/
theorem test_decode_engines : decodesTo
  [(0xC0B1_0044_0560_E848, .obres h6 qm), (0xC1B1_0044_0560_E848, .obfree h6 qm), (0xC2B1_0044_0560_E848, .mma h6 q4),
   (0xC3B1_0044_0560_E848, .msmld h6 .w32 q4), (0xC3B1_0044_0560_E849, .msmld h6 .w64 q4),
   (0xC4B1_0044_0560_E848, .msmst h6 .w32 q4), (0xC4B1_0044_0560_E849, .msmst h6 .w64 q4),
   (0xC6B1_0044_0560_E848, .bondAcq h6 qm), (0xC7B1_0044_0560_E848, .bondRel h6 q4), (0xC8B1_0044_0560_E848, .cpy h6 q4),
   (0xC9B1_0044_0560_E848, .swdecl h6 q4), (0xCAB1_0044_0560_E848, .swstart h6 q4), (0xCBB1_0044_0560_E848, .swpull h6 q4),
   (0xCCB1_0044_0560_E848, .swpark h6 q4), (0xCDB1_0044_0560_E848, .swdone h6 q4), (0xCEB1_0044_0560_E848, .swkeep h6 q4),
   (0xCFB1_0044_0560_E848, .swwake h6 q4), (0xD0B1_0044_0560_E848, .swstat h6 q4), (0xD1B1_0044_0560_E848, .lxfer h6 q4)] = true := by decide +kernel

/-- Group 111. -/
theorem test_decode_system : decodesTo
  [(0xE0B1_0044_0560_E848, .trap h6 q22), (0xE1B1_0044_0560_E848, .tret h6 q4), (0xE2B1_0044_0560_E848, .sysr h6 q4),
   (0xE3B1_0044_0560_E848, .sysw h6 q4), (0xE4B1_0044_0560_E848, .clock h6 q4), (0xE8B1_0044_0560_E848, .pld h6 .w32 q4),
   (0xE8B1_0044_0560_E849, .pld h6 .w64 q4), (0xE9B1_0044_0560_E848, .pst h6 .w32 q4),
   (0xE9B1_0044_0560_E849, .pst h6 .w64 q4), (0xEAB1_0044_0560_E848, .msix h6 q4), (0xEBB1_0044_0560_E848, .grel h6 q4),
   (0xECB1_0044_0560_E848, .gstop h6 .workgroup q4), (0xECB1_0044_0560_E849, .gstop h6 .gang q4),
   (0xEDB1_0044_0560_E848, .gsave h6 q4), (0xEEB1_0044_0560_E848, .grest h6 q4)] = true := by decide +kernel

/-! ### Words of the manual's examples (chapters 12 to 15) -/

theorem test_decode_examples : decodesTo
  [(0x087B_FFFF_FFFF_C008, .jenter ⟨false, 15, 7⟩ ⟨.z, .z, .z, 1⟩),
   (0x0B7B_A0AF_FFFF_C010, .jsave ⟨false, 15, 7⟩ ⟨.s 10, .z, .z, 2⟩),
   (0x047B_8000_29FF_FFF8, .callx ⟨false, 15, 7⟩ ⟨.v 0, .v 20, .z, .z⟩),
   (0x297B_8050_0600_8039, .fshR ⟨false, 15, 7⟩ ⟨.v 5, .v 3, .v 2, .v 7⟩),
   (0x2E7B_F010_0760_0082, .icmp ⟨false, 15, 7⟩ .lt ⟨.p 1, .v 3, .imm 0, 0x010⟩),
   (0x407B_8080_1001_0010, .faddF32 ⟨false, 15, 7⟩ .rn ⟨.v 8, .v 8, .v 4, 2⟩),
   (0x587B_8060_0E7E_0000, .fmaiF32 ⟨false, 15, 7⟩ .rn ⟨.v 6, .v 7, 0x3F000, 0⟩),
   (0x607B_8050_0800_0508, .cvt ⟨false, 15, 7⟩ .rn ⟨.v 5, .v 4, 0, 0x0A1⟩),
   (0x637B_FFF4_21FF_C008, .xpatld ⟨false, 15, 7⟩ ⟨.z, .s 16, .z, 1⟩),
   (0x647B_80A0_13FF_C010, .xperm ⟨false, 15, 7⟩ ⟨.v 10, .v 9, .z, 2⟩),
   (0x687B_A140_07FF_C08A, .redMax ⟨false, 15, 7⟩ ⟨.s 20, .v 3, .z, 0x011⟩),
   (0x8478_8044_0800_AC84, .stG ⟨false, 15, 1⟩ .b32 ⟨.v 4, .s 4, .v 2, .imm 16⟩),
   (0xA013_8070_1400_E488, .atomGAdd ⟨false, 2, 7⟩ ⟨.v 7, .v 10, .v 3, 0x491⟩),
   (0xA823_8140_0C83_2403, .waita ⟨false, 4, 7⟩ .ge ⟨.v 20, .v 6, .s 12, 0x480⟩),
   (0xA933_FFFB_0562_3FFA, .barSync ⟨false, 6, 7⟩ ⟨.z, .imm 2, .imm 8, .z⟩),
   (0xC07B_FFF4_21FF_C018, .obres ⟨false, 15, 7⟩ ⟨.z, .s 16, .z, 3⟩),
   (0xC213_FFF4_11FF_FFF8, .mma ⟨false, 2, 7⟩ ⟨.z, .s 8, .z, .z⟩),
   (0xC67B_FFFF_FFFF_C028, .bondAcq ⟨false, 15, 7⟩ ⟨.z, .z, .z, 5⟩),
   (0xCB0B_80C4_3DFF_FFF8, .swpull ⟨false, 1, 7⟩ ⟨.v 12, .s 30, .z, .z⟩),
   (0xD123_FFF4_41FF_FFF8, .lxfer ⟨false, 4, 7⟩ ⟨.z, .s 32, .z, .z⟩),
   (0xE07B_FFFF_FE00_0918, .trap ⟨false, 15, 7⟩ ⟨.z, .z, 0x123⟩),
   (0xE27B_8034_0BFF_FFF8, .sysr ⟨false, 15, 7⟩ ⟨.v 3, .s 5, .z, .z⟩)] = true := by decide +kernel

/-- Words that no row assigns: an unassigned opcode, the one never assigned (R321), reserved X values (R339). -/
theorem test_decode_refuses :
    [0x0E7B_FFFF_FFFF_FFF8, 0xC57B_FFFF_FFFF_FFF8, 0x347B_FFFF_FFFF_FFF8, 0xE57B_FFFF_FFFF_FFF8, 0x007B_FFFF_FFFF_FFF9,
      0x217B_8020_0568_3FFC, 0x407B_8080_1001_0015, 0x847B_8044_0800_AC81, 0xC27B_FFF4_11FF_FFF9].all
      (fun w => decodeTableWord 64 w == none) = true := by decide +kernel

/-! ### Results of the manual's examples -/

/-- A state in which quarter 0 of core 0 issues a word over the lanes of a mask, its group's registers as listed: vector
register, lane and word; scalar register and word; predicate and mask. -/
def probe (lanes w : Nat) (vs : List (Nat × Nat × Nat)) (ss ps : List (Nat × Nat)) : State :=
  let s := State.reset.withFetchWord 64 w
  let set (g : Group) : Group :=
    { g with vreg := vs.foldl (fun m e => sput 0 m (vkey e.1 e.2.1) (BitVec.ofNat 32 e.2.2)) g.vreg, sreg := ss.foldl (fun m e => sput 0 m e.1 (BitVec.ofNat 32 e.2)) g.sreg, preds := ps.foldl (fun l e => setAt l e.1 (BitVec.ofNat 32 e.2)) g.preds }
  let narrow (r : Run) : Run := { r with lanes := BitVec.ofNat 32 lanes }
  issueState 0 0 { s with groups := smod s.groups (gkey 0 0) set, runs := smod s.runs (rkey 0 0) narrow }

/-- The group after the word at issue, its writes landed. -/
def result (s : State) : Option Group :=
  match cxOf s with
  | none => none
  | some cx => match decode (nextInstr cx) with
    | .error _ => none
    | .ok i => match exec i s with
      | .next t => some (landed cx t)
      | _ => none

/-- A word with F 15 and G 0b0111 and the fields given. -/
def wordOf (op x d a b c : Nat) : Nat :=
  op * 2 ^ 56 + 0xF7 * 2 ^ 47 + d * 2 ^ 36 + a * 2 ^ 25 + b * 2 ^ 14 + c * 8 + x

/-- Whether V8 of lane 0 holds a value after a word with D = V8, A = V1, B = V2 and a field C acts on V1, V2, V3. -/
def gives (op x c : Nat) (v1 v2 v3 y : Nat) : Bool :=
  (result (probe 1 (wordOf op x 8 1 2 c) [(1, 0, v1), (2, 0, v2), (3, 0, v3)] [] [])).map (fun g => vreg g 8 0)
    == some (BitVec.ofNat 32 y)

/-- The same with B = Z. -/
def gives1 (op x c : Nat) (v1 y : Nat) : Bool :=
  (result (probe 1 (wordOf op x 8 1 0x7FF c) [(1, 0, v1)] [] [])).map (fun g => vreg g 8 0) == some (BitVec.ofNat 32 y)

/-- Chapter 12: integer results. -/
theorem test_integer_examples1 :
    (gives 0x21 0 0x7FF 0x7FFFFFF0 0x20 0 0x80000010 && gives 0x21 1 0x7FF 0x7FFFFFF0 0x20 0 0x7FFFFFFF &&
      gives 0x22 2 0x7FF 0x10 0x20 0 0 && gives 0x24 0 0x7FF 0x7FFFFFF0 0x20 0 0xFFFFFE00 &&
      gives 0x24 1 0x7FF 0x7FFFFFF0 0x20 0 0xF && gives 0x24 1 0x7FF 0xFFFFFFFF 0xFFFFFFFF 0 0 &&
      gives 0x24 2 0x7FF 0xFFFFFFFF 0xFFFFFFFF 0 0xFFFFFFFE && gives 0x26 0 0x7FF 0xFFFFFFFF 1 0 0xFFFFFFFF &&
      gives 0x26 1 0x7FF 0xFFFFFFFF 1 0 1) = true := by decide +kernel
theorem test_integer_examples2 :
    (gives 0x29 0 3 0x12345678 0x9ABCDEF0 8 0x3456789A && gives 0x29 1 3 0x12345678 0x9ABCDEF0 8 0x789ABCDE &&
      gives 0x29 1 3 0x12345678 0x9ABCDEF0 40 0x12345678 && gives 0x28 2 0x7FF 0xFFFFFFF8 40 0 0xFFFFFFFF &&
      gives 0x28 1 0x7FF 0xFFFFFFF8 40 0 0 && gives 0x28 3 0x7FF 0x80000001 36 0 0x18 &&
      gives 0x2C 1 0x7FF 0xF80 0x507 0 0xFFFFFFFF && gives 0x2C 0 0x7FF 0xF80 0x507 0 0x1F &&
      gives 0x2D 0 3 5 0xFFFFFFFF 0x304 0xFFFFFFDF && gives1 0x2B 0 0x7FF 0xF80 20 && gives1 0x2B 1 0x7FF 0xF80 5 &&
      gives1 0x2B 2 0x7FF 0xF80 0x01F00000) = true := by decide +kernel

/-- Chapter 13: floating-point results. -/
theorem test_float_examples1 :
    (gives 0x40 0 0 0 0x80000000 0 0 && gives 0x40 3 0 0 0x80000000 0 0x80000000 &&
      gives 0x44 0 0 0x7F7FFFFF 0x40000000 0 0x7F800000 && gives 0x44 0 16 0x7F7FFFFF 0x40000000 0 0x7F7FFFFF &&
      gives 0x44 1 0 0x7F7FFFFF 0x40000000 0 0x7F7FFFFF && gives 0x48 0 3 0x7F800000 0 0x3F800000 0x7FC00000 &&
      gives 0x42 0 0 0x3C007BFF 0x3C003C00 0 0x40007BFF && gives 0x4C 0 0x7FF 0x7FC00000 0x40400000 0 0x40400000 &&
      gives 0x4C 0 0x7FF 0 0x80000000 0 0x80000000) = true := by decide +kernel
theorem test_float_examples2 :
    (gives1 0x54 1 0x7FF 0x80000000 0x80000000 && gives1 0x54 5 0x7FF 0x3F000000 0x3F800000 &&
      gives1 0x54 6 0x7FF 0x3F000000 0) = true := by decide +kernel

/-- CVT of lane 0 with a B field of 0 or 1 (C: destination type times 32 plus source type). -/
def cvtGives (x b c v1 y : Nat) : Bool :=
  (result (probe 1 (wordOf 0x60 x 8 1 b c) [(1, 0, v1)] [] [])).map (fun g => vreg g 8 0) == some (BitVec.ofNat 32 y)

/-- Chapters 10 and 13: conversions to .I32, .N8, .I8, .F16 and .E4M3. -/
theorem test_convert_examples :
    (cvtGives 1 0 (16 * 32 + 1) 0xC0FCCCCD 0xFFFFFFF9 && cvtGives 0 0 (11 * 32 + 1) 0xC0400000 0 &&
      cvtGives 0 0 (10 * 32 + 16) 300 0x7F && cvtGives 0 0 (4 * 32 + 16) 100000 0x7C00 &&
      cvtGives 0 1 (4 * 32 + 16) 100000 0x7BFF && cvtGives 0 0 (5 * 32 + 1) 0x43960000 0x79 &&
      cvtGives 0 0 (5 * 32 + 1) 0x43E80000 0x7E && cvtGives 0 1 (5 * 32 + 1) 0x43E88000 0x7F &&
      cvtGives 1 1 (5 * 32 + 1) 0x43E88000 0x7E && cvtGives 0 0 (5 * 32 + 1) 0x7FA00001 0x7F) = true := by decide +kernel

/-- Chapter 13: lanes 0 to 7 hold 5, 3, 0, 7, 2, 9, 1, 4 in V3, and P1 is set where V3 is above 4. -/
def lanesEx (w : Nat) : Option Group :=
  result (probe 0xFF w ([5, 3, 0, 7, 2, 9, 1, 4].mapIdx fun l x => (3, l, x)) [] [(1, 0x29)])
def lanes8 (g : Group) (n : Nat) : List Nat := (List.range 8).map fun l => (vreg g n l).toNat

theorem test_reduce_examples :
    ((lanesEx (wordOf 0x68 0 0x214 3 0x7FF 16)).map fun g => (sreg g 20).toNat) = some 31 ∧
    ((lanesEx (wordOf 0x68 2 8 3 0x7FF 17)).map fun g => lanes8 g 8) = some (List.replicate 8 9) ∧
    ((lanesEx (wordOf 0x67 0 0x215 0x701 0x7FF 0x7FF)).map fun g => (sreg g 21).toNat) = some 41 := by decide +kernel
theorem test_scan_examples :
    ((lanesEx (wordOf 0x6A 0 9 3 0x7FF 16)).map fun g => lanes8 g 9) = some [5, 8, 8, 15, 17, 26, 27, 31] ∧
    ((lanesEx (wordOf 0x6A 1 9 3 0x7FF 16)).map fun g => lanes8 g 9) = some [0, 5, 8, 8, 15, 17, 26, 27] ∧
    ((lanesEx (wordOf 0x6A 2 9 3 0x7FF 17)).map fun g => lanes8 g 9) = some [5, 5, 5, 7, 7, 9, 9, 9] := by decide +kernel
theorem test_lane_examples :
    ((lanesEx (wordOf 0x65 2 10 3 0x581 0x7FF)).map fun g => lanes8 g 10) = some [3, 0, 7, 2, 9, 1, 4, 0] ∧
    ((lanesEx (wordOf 0x6B 0 0x702 0x701 0x7FF 0x7FF)).map fun g => (g.preds.getD 2 0).toNat) = some 0xFF ∧
    ((lanesEx (wordOf 0x6B 1 0x703 0x701 0x7FF 0x7FF)).map fun g => (g.preds.getD 3 0).toNat) = some 0 := by decide +kernel

/-- Chapter 13: the tree of FRED.ADD.F32 over 2^24, 1, 1 and 1. -/
theorem test_fred_example :
    ((result (probe 0xF (wordOf 0x69 0 0x208 5 0x7FF 1)
        [(5, 0, 0x4B800000), (5, 1, 0x3F800000), (5, 2, 0x3F800000), (5, 3, 0x3F800000)] [] [])).map
      fun g => (sreg g 8).toNat) = some 0x4B800001 := by decide +kernel

/-- Chapter 13: the byte transpose of XPATLD.T1 and XPERM.T1. -/
def transposeRegs : List (Nat × Nat) :=
  [0x03020100, 0x23222120, 0x43424140, 0x63626160, 0x07060504, 0x27262524, 0x47464544, 0x67666564].mapIdx
    fun i x => (16 + i, x)
def transposed (lanes : Nat) : Option (List Nat) :=
  match result (probe lanes (wordOf 0x63 0 0x7FF 0x210 0x7FF 1) [] transposeRegs []) with
  | none => none
  | some g =>
    let s := probe lanes (wordOf 0x64 0 10 9 0x7FF 1)
      [(9, 0, 0x03020100), (9, 1, 0x13121110), (9, 2, 0x23222120), (9, 3, 0x33323130)] [] []
    (result { s with groups := smod s.groups (gkey 0 0) fun x => { x with tables := g.tables } }).map
      fun g => (List.range 4).map fun l => (vreg g 10 l).toNat

theorem test_xperm_example :
    transposed 0xFFFFFFFF = some [0x30201000, 0x31211101, 0x32221202, 0x33231303] ∧
    (transposed 0xFFFFFFFB).map (fun l => [l.getD 0 0, l.getD 1 0, l.getD 3 0]) =
      some [0x30001000, 0x31001101, 0x33001303] := by decide +kernel

/-- Chapter 13: BPACK.E2M1 of 1.9, 1.6, -1.9 and 0.3 under the metadata word of R308 (feature 6 on). -/
theorem test_bpack_example :
    ((fun s : State => result { s with boot := { s.boot with featlock := true }, featacc := [0x7FF, 0, 0, 0] })
        (probe 1 (wordOf 0x61 0 9 4 0x203 9)
          [(4, 0, 0x3FF33333), (5, 0, 0x3FCCCCCD), (6, 0, 0xBFF33333), (7, 0, 0x3E99999A)] [(3, 0x7D000500)] [])).map
      (fun g => (vreg g 9 0).toNat) = some 0x2F78 := by decide +kernel

/-- R313: rounding 0x3F808000 to BF16 with two draws. -/
theorem test_stochastic_example :
    roundArith .bf16 .rs true 0x7FFFFFFF (decodeF .f32 0x3F808000) = 0x3F80 ∧
    roundArith .bf16 .rs true 0x80000000 (decodeF .f32 0x3F808000) = 0x3F81 := by decide +kernel

/-- Chapter 5: the base-delta block of 0x1000 + 3i takes 80 bytes. -/
theorem test_compress_example :
    (compressBlock 1 (packFields 32 ((List.range 64).map fun i => 0x1000 + 3 * i))).2 = 80 := by decide +kernel

/-- Chapter 14: STU.SP of three bytes in lanes 0 to 3 at 0x100 plus 0, 3, 6 and 9; the bytes from 0x100 on. -/
def stuExample : Option (List Nat) :=
  let s := probe 0xF (0x89 * 2 ^ 56 + 0xF7 * 2 ^ 47 + 4 * 2 ^ 36 + 0x208 * 2 ^ 25 + 2 * 2 ^ 14 + 0x587 * 8)
    [(2, 1, 3), (2, 2, 6), (2, 3, 9), (4, 0, 0x332211), (4, 1, 0x665544), (4, 2, 0x998877), (4, 3, 0xCCBBAA)] [(8, 0x100)] []
  let t := { s with wgs := smod s.wgs (wkey 0 0) fun w => { w with scratchLen := 4096 } }
  match decode (BitVec.ofNat 64 (0x89 * 2 ^ 56 + 0xF7 * 2 ^ 47 + 4 * 2 ^ 36 + 0x208 * 2 ^ 25 + 2 * 2 ^ 14 + 0x587 * 8)) with
  | .ok i => match exec i t with
    | .next u => some ((List.range 13).map fun k => (cellByte (coreSt u 0).sp (0x100 + k)).toNat)
    | _ => none
  | .error _ => none
theorem test_stu_example :
    stuExample = some [0x11, 0x22, 0x33, 0x44, 0x55, 0x66, 0x77, 0x88, 0x99, 0xAA, 0xBB, 0xCC, 0] := by decide +kernel

/-- A step runs the word that stands where it fetches: one of each group, ended or not. -/
theorem test_step_runs :
    [0x007B_FFFF_FFFF_FFF8, 0x067B_FFFF_FFFF_FFF8, 0x217B_8080_0203_7FF8, 0x407B_8080_0200_8000, 0x657B_8080_0200_BFF8,
      0x8013_8080_0FFF_FFFC, 0xA013_8080_0200_8080, 0xC07B_FFF4_21FF_C018, 0xE07B_FFFF_FE00_0918].all (fun w =>
        match step (State.reset.withFetchWord 64 w) with
        | .next t => t.agenda.isEmpty && decodeTableWord 64 w != none
        | _ => false) = true := by decide +kernel


/-! ### Witnesses: for each statement with hypotheses, states and operands that meet them -/

/-- The conditions of Ready, decided. -/
def ready (f : Form) (h : Hdr) (s : State) : Bool :=
  match cxOf s with
  | none => false
  | some cx => cx.run.exc.isNone && (checkForm f h cx s).isNone && !acqHeld cx && !hazard f cx
      && (decide (12 ≤ h.f.toNat) || decide (flagCount cx.g h.f.toNat < 63))

theorem ready_spec {f : Form} {h : Hdr} {s : State} (e : ready f h s = true) : ∃ cx, Ready f h cx s := by
  unfold ready at e
  split at e
  · exact absurd e (by simp)
  · rename_i cx hc
    simp only [Bool.and_eq_true, Bool.or_eq_true, Bool.not_eq_true', Option.isNone_iff_eq_none, decide_eq_true_eq] at e
    exact ⟨cx, hc, e.1.1.1.1, e.1.1.1.2, e.1.1.2, e.1.2, fun h12 => by rcases e.2 with h | h <;> omega⟩

/-- Whether the context of a state meets a test. -/
def onCx (s : State) (p : Cx → Bool) : Bool := ((cxOf s).map p).getD false

def h15 : Hdr := ⟨false, 15, 7⟩
def h2 : Hdr := ⟨false, 2, 7⟩
/-- Guarded by P1. -/
def hP1 : Hdr := ⟨false, 15, 1⟩

/-- All lanes at the issue of a word in a user group; V1 to V3, S4 to S7 and P1 hold values. -/
def s0 : State :=
  probe 0xFFFFFFFF 0 [(1, 0, 5), (2, 0, 7), (2, 1, 0xFFFFFFFF), (3, 0, 1)] [(4, 0x1000), (5, 0), (6, 2), (7, 0)] [(1, 0xF0)]
/-- The same with every feature accepted. -/
def sF : State := { s0 with featacc := [0x7FF, 0, 0, 0] }
/-- The same in the firmware slot. -/
def sW : State := { sF with wgs := smod s0.wgs (wkey 0 0) fun w => { w with firmware := true } }
/-- The same in a workgroup with local runs, barriers and the sweep and matrix engines. -/
def sL : State :=
  { sF with wgs := smod s0.wgs (wkey 0 0) fun w => { w with scratchOff := 65536, scratchLen := 4096, obLen := 4096, msLen := 4096, nbar := 3, barriers := List.replicate 3 Barrier.reset, sw := true, mx := true } }

theorem test_witness_decoding :
    (Instr.movi h15 .w64 ⟨.v 254, .z, 0x3FFFFF⟩).wf = true ∧
    encode (.movi h15 .w64 ⟨.v 254, .z, 0x3FFFFF⟩) = some 0x337B_8FEF_FFFF_FFF9 ∧
    decodeTableWord 64 0x337B_8FEF_FFFF_FFF9 = some (.movi h15 .w64 ⟨.v 254, .z, 0x3FFFFF⟩) ∧
    (0xC57B_FFFF_FFFF_FFF8 : W64).extractLsb' 56 8 = 0xC5 := by decide +kernel

/-- A NOP, a word of the opcode that is never assigned, an event, and a clause of two words and a literal. -/
theorem test_witness_step :
    (State.reset.withFetchWord 64 0x007B_FFFF_FFFF_FFF8).agenda = [.issue 0 0] ∧
    onCx (issueState 0 0 (State.reset.withFetchWord 64 0x007B_FFFF_FFFF_FFF8)) (fun cx =>
      decodeTableWord 64 (cx.run.words.getD cx.run.widx 0).toNat == some (.nop h15 ⟨.z, .z, .z, .z⟩)) = true ∧
    onCx (issueState 0 0 (State.reset.withFetchWord 64 0xC57B_FFFF_FFFF_FFF8)) (fun cx =>
      decodeTableWord 64 (cx.run.words.getD cx.run.widx 0).toNat == none) = true ∧
    (exec .eventLostClear { State.reset with env := Env.reset, focus := none } =
      .next { State.reset with evring := { State.reset.evring with ovf := false, lost := 0 } }) :=
  ⟨by decide +kernel, by decide +kernel, by decide +kernel, rfl⟩
theorem test_witness_advance :
    let r := { probeRun 0 with words := [0, 5, 0], header := 0xC50F_0000_0020_0000 }
    r.stalled = false ∧ r.ends = .going ∧ r.header.toNat.testBit 21 = true ∧ r.header.toNat.testBit 22 = false ∧
      r.widx < 2 ∧ 2 < r.words.length := by decide +kernel

theorem test_witness_memory :
    Memory.wf [] = true ∧ Memory.wf (putBytes [] 7 [1, 0, 2]) = true ∧ 0xBDFFFFFFFF + 1 ≤ firmwareBase ∧
    targetOf 0 = .hbm ∧ (5 : Nat) < 2 ^ 2048 := by decide +kernel

theorem test_witness_integers :
    ready (intForm ⟨.v 8, .v 1, .z, .z⟩ 1 1 0 0) h15 s0 = true ∧ ready (intForm ⟨.s 8, .imm 3, .z, .z⟩ 1 1 0 0) h15 s0 = true ∧
    ready (intForm ⟨.z, .v 2, .z, .z⟩ 2 2 0 0) h15 s0 = true ∧ ready (intForm ⟨.v 254, .v 2, .z, .z⟩ 2 2 0 0) h15 s0 = true ∧
    ready (intForm22 ⟨.v 8, .z, 7⟩ 1 0) h15 s0 = true ∧ ready (intForm22 ⟨.s 510, .z, 7⟩ 2 0) h15 s0 = true ∧
    ready (intForm22 ⟨.v 255, .v 1, 7⟩ 1 1) h15 s0 = true ∧ ready (intForm22 ⟨.v 8, .v 2, 7⟩ 2 2) h15 s0 = true := by
  decide +kernel
theorem test_witness_sel :
    ready { intForm ⟨.v 8, .v 1, .v 2, .z⟩ 1 1 1 0 with guarded := true, modOk := selGuardOk hP1 ⟨.v 8, .v 1, .v 2, .z⟩ } hP1 s0
      = true ∧
    ready { intForm ⟨.s 8, .s 4, .s 6, .z⟩ 2 2 2 0 with guarded := true, modOk := selGuardOk ⟨false, 15, 15⟩ ⟨.s 8, .s 4, .s 6, .z⟩ }
      ⟨false, 15, 15⟩ s0 = true := by decide +kernel
theorem test_witness_integers2 :
    ready (intForm ⟨.v 8, .v 1, .v 2, .z⟩ 1 1 1 0) h15 s0 = true ∧ ready (intForm ⟨.v 8, .v 2, .s 4, .z⟩ 2 2 2 0) h15 s0 = true ∧
    ready (intForm ⟨.v 8, .v 1, .v 2, .v 3⟩ 1 1 1 1) h15 s0 = true ∧
    ready (intForm ⟨.v 8, .v 1, .v 2, .v 4⟩ 2 1 1 2) h15 s0 = true ∧
    ready { unit := 0, modOk := true, ops := [(.v 8, .dst 2 true true), (.v 2, .src 2 false), (.v 1, .src 1 false)] } h15 s0
      = true := by decide +kernel
theorem test_witness_predicates :
    ready { unit := 0, ops := [(.p 1, .pdst), (.v 1, .src 1 false), (.imm 0, .src 1 false)] } h15 s0 = true ∧
    ready { unit := 0, ops := [(.p 7, .pdst), (.v 2, .src 2 false), (.s 4, .src 2 false)] } h15 s0 = true ∧
    ready { unit := 0, ops := [(.z, .pdst), (.p 1, .psrc), (.z, .psrc), (.z, .unused)] } h15 s0 = true ∧
    ready { unit := 0, ops := [(.p 1, .pdst), (.p 1, .psrc), (.z, .unused), (.z, .unused)] } h15 s0 = true ∧
    ready { unit := 0, ops := [(.v 8, .dst 1 true false), (.p 1, .psrc), (.z, .unused), (.z, .unused)] } h15 s0 = true ∧
    ready { unit := 0, ops := [(.p 1, .pdst), (.v 1, .src 1 false), (.z, .unused), (.z, .unused)] } h15 s0 = true := by
  decide +kernel

theorem test_witness_floats :
    ([FFmt.f32, .f64, .f16, .bf16].all fun f =>
      ready (fpFormM f .rn ⟨.v 8, .v 2, .v 4, 16⟩) h15 s0 && ready (fpFormM f .rs ⟨.v 8, .v 2, .v 4, 0⟩) h15 sF &&
      ready (fpForm f .rz (.v 8, true) (.v 2, true) (.v 4, true) (.v 6, true)) h15 s0 &&
      ready (fpForm f .rn (.v 8, true) (.v 2, true) (.v 4, true) (.z, false)) h15 s0 &&
      ready (fpForm f .rn (.v 8, true) (.v 2, true) (.z, false) (.z, false)) h15 s0 &&
      ready { unit := 0, ops := [(.p 1, .pdst), (.v 2, .src (fpWords f) false), (.v 4, .src (fpWords f) false), (.z, .unused)] }
        h15 s0) = true ∧
    ready (i20Form .ru ⟨.v 8, .v 1, 0x3F000, 0⟩ (.src 1 false)) h15 s0 = true ∧
    ready (i20Form .rn ⟨.v 8, .z, 0x3F000, 0⟩ .unused) h15 s0 = true := by decide +kernel
theorem test_witness_rounding :
    decodeF .f32 0x3F800000 = .fin false 8388608 (-23) ∧ decodeF .f32 0xFF800000 = .inf true ∧ decodeF .f32 0x7FC00000 = .nan ∧
    (0xFF800000 : Nat) < 2 ^ codeBits .f32 := by decide +kernel

theorem test_witness_conversions :
    tyOf 16 = some (.int 32) ∧ tyOf 1 = some (.fl .f32) ∧
    ready { unit := 0, feature := rsFeature .rs, ops := [(.v 8, .dst 1 true false), (.v 1, .src 1 false)] } h15 sF = true ∧
    ready { unit := 0, feature := rsFeature .rn, ops := [(.v 8, .dst 1 true false), (.v 4, .src 4 false), (.s 4, .src 1 false)] }
      h15 s0 = true ∧
    ready { unit := 0, ops := [(.v 8, .dst 4 true false), (.v 1, .src 1 false), (.s 4, .src 1 false)] } h15 s0 = true := by
  decide +kernel
theorem test_witness_lanes :
    ready { unit := 0, ops := [(.z, .unused), (.s 16, .sMul 8 504), (.z, .unused)] } h15 s0 = true ∧
    ready { unit := 0, ops := [(.v 8, .dst 1 true false), (.v 1, .src 1 false), (.z, .unused)] } h15 s0 = true ∧
    ready { unit := 0, ops := [(.v 8, .dst 1 true false), (.v 1, .src 1 false), (.v 2, .src 1 false), (.z, .unused)] } h15 s0 = true ∧
    ready { unit := 0, ops := [(.s 8, .dst 1 true true), (.v 1, .src 1 false), (.s 4, .src 1 true), (.z, .unused)] } h15 s0 = true ∧
    ready { unit := 0, ops := [(.v 8, .dst 2 true true), (.v 2, .src 2 false), (.s 4, .src 1 true), (.z, .unused)] } h15 s0 = true ∧
    ready { unit := 0, ops := [(.s 8, .dst 1 false true), (.p 1, .psrc), (.z, .unused), (.z, .unused)] } h15 s0 = true := by
  decide +kernel
theorem test_witness_reductions :
    ready { unit := 0, ops := [(.s 8, .dst 2 true true), (.v 2, .src 2 false), (.z, .unused)] } h15 s0 = true ∧
    ready { unit := 0, ops := [(.v 8, .dst 1 true false), (.v 1, .src 1 false), (.z, .unused)] } h15 s0 = true ∧
    ready { unit := 0, ops := [(.s 8, .dst (fpWords .f64) true true), (.v 2, .src (fpWords .f64) false), (.z, .unused)] } h15 s0
      = true := by decide +kernel

theorem test_witness_control :
    ready (ctlForm (unused4 ⟨.z, .z, .z, .z⟩)) h15 s0 = true ∧
    ready { ctlForm (unused4 ⟨.z, .z, .z, .z⟩) with ends := true } h15 s0 = true ∧
    ready { ctlForm [(.z, .unused), (.z, .unused)] with guarded := true, ends := true } hP1 s0 = true ∧
    ready { ctlForm [(.z, .unused), (.v 2, .src 2 false), (.z, .unused), (.z, .unused)] with guarded := true, ends := true } hP1 s0
      = true ∧
    ready { ctlForm [(.v 0, .vMul 2 true), (.z, .unused)] with guarded := true, ends := true } hP1 s0 = true ∧
    ready { ctlForm [(.v 2, .vMul 2 true), (.v 2, .src 2 false), (.z, .unused), (.z, .unused)] with guarded := true, ends := true }
      h15 s0 = true := by decide +kernel
/-- Links that hold addresses in every lane, and a link of 0. -/
theorem test_witness_returns :
    ready { ctlForm [(.z, .unused), (.v 10, .vMul 2 false), (.z, .unused), (.z, .unused)] with ends := true } h15
      (probe 1 0 [(10, 0, 0x2000)] [] []) = true ∧
    onCx (probe 1 0 [(10, 0, 0x2000)] [] []) (fun cx =>
      in64 cx (probe 1 0 [(10, 0, 0x2000)] [] []) (.v 10) 0 == 0x2000 && cx.run.lanes == 1) = true ∧
    onCx s0 (fun cx => in64 cx s0 (.v 10) 0 == 0 && cx.run.lanes.getLsbD 0) = true := by decide +kernel

def sJ (members : Mask) : State :=
  { s0 with groups := smod s0.groups (gkey 0 0) fun g => { g with members := setAt g.members 15 members } }
theorem test_witness_rejoin :
    ready (ctlForm [(.z, .unused), (.z, .unused), (.z, .unused)]) h15 s0 = true ∧
    ready { ctlForm [(.z, .unused), (.z, .unused), (.z, .unused)] with ends := true } h15 s0 = true ∧
    onCx (sJ 0xFFFFFFFF) (fun cx => cx.run.lanes &&& ~~~cx.g.members.getD 15 0 == 0) = true ∧
    onCx s0 (fun cx => cx.run.lanes &&& ~~~cx.g.members.getD 15 0 != 0) = true ∧
    ready (ctlForm [(.s 8, .dst 1 false true), (.z, .unused), (.z, .unused)]) h15 s0 = true ∧
    ready (ctlForm [(.z, .unused), (.s 4, .src 1 true), (.z, .unused)]) h15 s0 = true := by decide +kernel

def gSets (m a : Mask) (inh : Bool) : Group :=
  let g := newGroup 0 0 0 (0, 0, 32)
  { g with members := setAt g.members 15 m, arrivals := setAt g.arrivals 15 a, trap := { g.trap with inh := inh, tmask := 3 } }
theorem test_witness_sets :
    (let g := gSets 7 7 false
     15 < g.members.length ∧ g.arrivals.length = g.members.length ∧ g.members.getD 15 0 ≠ 0 ∧
       g.arrivals.getD 15 0 = g.members.getD 15 0 ∧ g.trap.inh = false) ∧
    (let g := gSets 7 7 true
     g.members.getD 15 0 &&& ~~~g.trap.tmask ≠ 0 ∧ g.trap.inh = true) ∧
    (let g := gSets 6 7 true
     g.arrivals.getD 15 0 &&& ~~~g.members.getD 15 0 = 1) := by decide +kernel

theorem test_witness_local :
    ready (ldForm false .b128 ⟨.v 8, .v 1, .z, .imm 0⟩) h2 sL = true ∧
    ready (stForm false .b64 ⟨.v 2, .v 1, .z, .imm 0⟩) hP1 sL = true ∧
    ready (stuForm false ⟨.v 2, .v 1, .z, .imm 7⟩) hP1 sL = true ∧
    onCx sL (fun cx => cx.g.ops.isEmpty && !vecHeld cx && decide (runOf cx.w .sp = (65536, 4096)) &&
      decide ((in32 cx sL (.v 1) 0).toNat = 5) && !localPoisoned sL cx.core .sp (65536 + 5) 16) = true := by decide +kernel
/-- An offset of 4096, the first past the run, is outside; so is the run of length 0 of another workgroup. -/
theorem test_witness_range :
    ready (ldForm false .b8 ⟨.v 8, .s 4, .z, .imm 0⟩) h2 sL = true ∧ ready (stForm false .b8 ⟨.v 1, .s 4, .z, .imm 0⟩) hP1 sL = true ∧
    ready (atomForm false 0 ⟨.v 8, .s 4, .v 1, 16⟩) h2 sL = true ∧
    onCx sL (fun cx => decide (cx.w.scratchLen = 4096) && decide ((in32 cx sL (.s 4) 0).toNat = 4096)) = true := by decide +kernel
theorem test_witness_atomics :
    ready (atomForm false 7 ⟨.v 8, .v 1, .v 4, 19⟩) h2 sL = true ∧ ready (atomForm false 0 ⟨.z, .v 1, .v 2, 1⟩) hP1 sL = true ∧
    atomOrder ⟨.v 8, .v 1, .v 4, 19⟩ = 0 ∧ atomSize (atomType ⟨.v 8, .v 1, .v 4, 19⟩) = 8 ∧
    (0xFFFFFFFF : Nat) < 2 ^ 32 := by decide +kernel

theorem test_witness_global :
    ready (ldForm true .b64 ⟨.v 8, .s 4, .v 1, .imm 8⟩) h2 s0 = true ∧ ready (stForm true .b32 ⟨.v 1, .s 4, .v 1, .imm 8⟩) hP1 s0 = true ∧
    ready (stuForm true ⟨.v 2, .s 4, .v 1, .imm 7⟩) hP1 s0 = true ∧ ready (atomForm true 7 ⟨.v 8, .s 4, .v 2, 0x491⟩) h2 s0 = true ∧
    ready { unit := 1, fcls := .res, ops := [(.v 8, .dst 2 true true), (.s 4, .src 2 true), (.z, .unused), (.z, .unused)] } h2 s0
      = true ∧
    ready { unit := 1, fcls := .opt, ops := [(.z, .unused), (.s 4, .src 2 true), (.s 6, .src 2 true), (.z, .unused)] } h15 s0 = true ∧
    ready { unit := 1, fcls := .res, ops := [(.v 8, .dst 2 true false), (.s 4, .src 2 false), (.s 6, .src 2 false)] } h2 s0 = true ∧
    onCx s0 (fun cx => !vecHeld cx && cx.g.ops.isEmpty && cx.w.sbuf.isEmpty && !buffers cx.w && s0.parked.isEmpty && s0.waits.isEmpty)
      = true := by decide +kernel
/-- The L1 and the L2 hold the line at 0x1000, the L2's copy writable. -/
def sC : State :=
  let s := modCore s0 0 fun c => { c with l1 := sset c.l1 (lineKey 1 0x1000) (0, List.replicate 128 0xAB) }
  modCluster s 0 fun c => { c with l2 := sset c.l2 (lineKey 1 0x1000) ⟨List.replicate 128 0xAB, 0, true, true, false, false, 15, 0, 0, false, 0, none, some 0⟩ }
theorem test_witness_cached :
    sfind (coreSt sC 0).l1 (lineKey 1 (128 * (0x1000 / 128))) = some (0, List.replicate 128 0xAB) ∧
    (List.replicate 128 (0xAB : Byte)).length = 128 ∧ frozen sC 1 0x1000 = false ∧
    nsHas (clusterSt sC 0).washing (sliceOf 0x1000) = false ∧
    ((l2Line sC 0 1 0x1004).map fun ln => ln.w && ln.data.length == 128) = some true ∧
    onCx sC (fun cx => decide (cx.w.asid = 1) && decide ((in64 cx sC (.s 4) 0).toNat = 0x1000)) = true := by decide +kernel

theorem test_witness_hints :
    ready { unit := 1, ops := (Opnd.z, Role.unused) :: addrForm true ⟨.z, .s 4, .z, .imm 0⟩ } h15 s0 = true ∧
    onCx s0 (fun cx => !vecHeld cx) = true ∧
    ready { unit := 1, priv := true, fcls := .opt, ops := [(.z, .unused), (.imm 4, .src 1 true), (.imm 1, .src 1 true), (.z, .unused)] }
      h15 sW = true ∧
    (coreSt sW 0).bankMode.length = 16 ∧ (coreSt sW 0).bankMode.getD 2 0 ≠ 1 ∧ sfind (coreSt sW 0).bankFrom 2 = none ∧
    switchOk sW 0 2 1 = true := by decide +kernel
theorem test_witness_fences :
    ready (fenceForm ⟨.z, .z, .z, 0x300⟩) h15 s0 = true ∧ uncommitted s0 (wkey 0 0) = false ∧ draining s0 (wkey 0 0) = false ∧
    onCx s0 (fun cx => fenceDue s0 cx.gk cx.g s0.nextOp cx.run.lanes true true && pathDone cx.g s0.nextOp 0) = true ∧
    ready { unit := 1, fcls := .opt, ops := [(.z, .unused), (.z, .unused), (.z, .unused)] } h15 s0 = true ∧
    keyAsid (lineKey 1 0x1000) = 1 := by decide +kernel
/-- An earlier load that is not done holds a fence; a restartable workgroup that has not committed buffers it. -/
theorem test_witness_fences_held :
    (let s := modGroup s0 (gkey 0 0) fun g => { g with ops := [⟨0, 2, .access, 0xFFFFFFFF, [], [], [], false, []⟩] }
     onCx s (fun cx => !fenceDue s cx.gk cx.g 1 cx.run.lanes true false)) = true ∧
    (let s := modWg s0 (wkey 0 0) fun w => { w with restartable := true, committed := false }
     uncommitted s (wkey 0 0)) = true := by decide +kernel

/-- A context of ASID 1 with a binding of 128 bytes at 0 to the object at 0x1000. -/
def ctx1 : Ctx := ⟨50, true, 3, 0, 0, 5, 0, 0, 0, 1000, 0, false, [⟨0, 128, 0x1000, 0⟩], [], [(0x5000, false)], 0, 0, 0, 0, 0, 0⟩
def sB : State := { s0 with ctxs := sset s0.ctxs 1 ctx1 }
theorem test_witness_bindings :
    ready { unit := 1, fcls := .res, ops := [(.s 8, .dst 1 false true), (.s 4, .src 2 true), (.s 6, .src 2 true), (.s 4, .src 2 true)] }
      h2 sB = true ∧
    ctxOf (ticked sB) 1 = some ctx1 ∧ ctx1.bindings.length < 64 ∧
    ready { unit := 1, fcls := .res, ops := [(.s 8, .dst 1 false true), (.s 4, .src 2 true), (.z, .unused), (.s 4, .src 2 true)] }
      h2 sB = true ∧
    (boundTo (ticked sB) 1 0x1000).find? (fun b => b.base == 0) = some ⟨0, 128, 0x1000, 0⟩ ∧
    (boundTo (ticked sB) 1 0x2000).all (fun b => b.base != 0) = true := by decide +kernel

/-- Barrier 2 of three, one arrival of two expected; barrier number 3 is the first outside. -/
def sBar : State :=
  modWg sL (wkey 0 0) fun w => { w with barriers := setAt w.barriers 2 { Barrier.reset with expected := 2, arrivals := 1 } }
theorem test_witness_barriers :
    ready (barForm ⟨.z, .imm 2, .imm 2, .z⟩ (.src 1 true) .none) h15 sBar = true ∧
    ready (barForm ⟨.z, .imm 3, .z, .z⟩ .unused .res) h2 sBar = true ∧
    ready (barForm ⟨.z, .imm 2, .imm 32, .z⟩ (.src 1 true) .res) h2 sBar = true ∧
    onCx sBar (fun cx => decide (cx.w.nbar = 3) && decide ((cx.w.barriers.getD 2 Barrier.reset).arrivals = 1) &&
      decide ((cx.w.barriers.getD 0 Barrier.reset).arrivals = 0) && cx.g.ops.isEmpty &&
      decide ((in32 cx sBar (.imm 32) 0).toNat = 32)) = true := by decide +kernel

/-- The records of chapter 15 in S16 to S23: one that OBRES takes, and one of format 15, which none has. -/
def legalRec : List Byte := [0, 0, 0, 0, 128, 0, 0, 0, 5, 0, 0, 0, 0, 0, 0, 0] ++ List.replicate 16 0
theorem test_witness_records :
    ready { unit := 2, ops := [(.z, .unused), (.s 16, .sMul 8 504), (.z, .unused)] } h15 sL = true ∧
    ready { unit := 2, ops := [(.z, .unused), (.z, .unused), (.z, .unused)] } h15 sL = true ∧
    onCx sL (fun cx => decide (cx.w.obrecs.length = 16) && decide (cx.w.obLen = 4096)) = true ∧
    legalRec.length = 32 := by decide +kernel
theorem test_witness_engines :
    ready { unit := 2, fcls := .opt, ops := [(.z, .unused), (.s 8, .sMul 8 504), (.z, .unused), (.z, .unused)] } h2 sL = true ∧
    ready { unit := 2, fcls := .res, ops := [(.v 8, .dst 2 true false), (.v 1, .src 1 false), (.z, .unused), (.z, .unused)] } h2 sL
      = true ∧
    ready { unit := 2, fcls := .opt, ops := [(.v 2, .src 2 false), (.v 1, .src 1 false), (.z, .unused), (.z, .unused)] } h15 sL = true ∧
    ready { unit := 2, fcls := .opt, feature := some 1, ops := [(.z, .unused), (.z, .unused), (.z, .unused)] } h15 sL = true ∧
    ready { unit := 2, fcls := .opt, ops := [(.z, .unused), (.s 32, .sMul 8 488), (.z, .unused), (.z, .unused)] } h2 sL = true ∧
    ready { unit := 2, fcls := .opt, feature := some 7, ops := [(.z, .unused), (.s 32, .sMul 4 500), (.z, .unused), (.z, .unused)] }
      h2 sL = true ∧
    onCx sL (fun cx => !windowFull cx 0 && !windowFull cx 1 && !windowFull cx 3 && !buffers cx.w && (windowOf cx.g 0).isEmpty &&
      !pathHeld cx.g 0 sL.nextOp && mxRoom sL cx.core) = true := by decide +kernel

/-- A sweep domain of ASID 1 declared at 0x1000, and its run begun. -/
def sSw (run : Nat) (started : Bool) : State :=
  modSw sL 0 fun x => { x with wg := some 0, declOk := true, started := started, run := run }
theorem test_witness_sweeps :
    ready (swForm .res [(.s 8, .dst 1 false true), (.s 4, .src 2 true), (.s 6, .src 1 true), (.s 7, .src 1 true)]) h2 (sSw 0 false)
      = true ∧
    ready (swForm .opt [(.z, .unused), (.s 4, .src 2 true), (.s 6, .src 2 true), (.z, .unused)]) h15 (sSw 0 false) = true ∧
    ready (swForm .res [(.v 8, .out true 4 0), (.s 12, .out false 1 511), (.z, .unused), (.z, .unused)]) h2 (sSw 1 true) = true ∧
    ready (swForm .opt [(.z, .unused), (.v 1, .src 1 false), (.z, .unused), (.z, .unused)]) h15 (sSw 1 true) = true ∧
    ready (swForm .opt [(.z, .unused), (.s 4, .src 2 true), (.v 1, .src 1 false), (.z, .unused)]) h15 (sSw 1 true) = true ∧
    ready (swForm .res [(.s 8, .out false 4 508), (.z, .unused), (.z, .unused), (.z, .unused)]) h2 (sSw 1 true) = true ∧
    onCx (sSw 0 false) (fun cx => cx.w.sw && !windowFull cx 2 && !buffers cx.w && decide ((in64 cx sL (.s 4) 0).toNat % 8 = 0)) = true ∧
    onCx (modWg s0 (wkey 0 0) fun w => { w with sw := false }) (fun cx => !cx.w.sw) = true ∧ (swOf (sSw 0 false) 0).started = false ∧ (swOf (sSw 1 true) 0).groups.length < 4 ∧
    onCx (sSw 1 true) (fun cx => !holdsElem cx (swOf (sSw 1 true) 0)) = true := by decide +kernel

def inHandler (m : Mask) : State :=
  modGroup s0 (gkey 0 0) fun g => { g with trap := { g.trap with inh := true, masked := true, tmask := m } }
theorem test_witness_traps :
    ready { unit := 3, holds := true, ops := [(.z, .unused), (.z, .unused)] } h15 s0 = true ∧
    ready { unit := 3, ends := true, ops := [(.z, .unused), (.z, .unused), (.z, .unused), (.z, .unused)] } h15 (inHandler 3) = true ∧
    onCx sW (fun cx => cx.w.firmware) = true ∧ onCx s0 (fun cx => !cx.w.firmware) = true ∧
    onCx (inHandler 3) (fun cx => cx.g.trap.inh && cx.run.lanes.getLsbD 0) = true := by decide +kernel
theorem test_witness_system :
    ready { unit := 3, ops := [(.v 8, .dst 1 true true), (.s 6, .src 1 true), (.z, .unused), (.z, .unused)] } h15 s0 = true ∧
    ready { unit := 3, ops := [(.v 8, .dst 2 true true), (.z, .unused), (.z, .unused), (.z, .unused)] } h15 s0 = true ∧
    ready { unit := 3, ops := [(.z, .unused), (.s 6, .src 1 true), (.s 7, .src 1 true), (.z, .unused)] } h15 (inHandler 3) = true ∧
    (newGroup 0 0 0 (0, 0, 32)).trap.rngsel < (newGroup 0 0 0 (0, 0, 32)).lanes.length := by decide +kernel

/-- The firmware slot: a physical address pair of 0x1000 in S4, a workgroup that is there, stopped and drained. -/
theorem test_witness_privileged :
    ready { unit := 3, priv := true, fcls := .res, ops := [(.v 8, .dst 2 true false), (.s 4, .src 2 false), (.z, .unused), (.z, .unused)] }
      h2 sW = true ∧
    ready { unit := 3, priv := true, fcls := .opt, ops := [(.v 2, .src 2 false), (.s 4, .src 2 false), (.z, .unused), (.z, .unused)] }
      h15 sW = true ∧
    ready { unit := 3, priv := true, fcls := .none, ops := [(.z, .unused), (.s 6, .src 1 true), (.z, .unused), (.z, .unused)] } h15 sW
      = true ∧
    ready { unit := 3, priv := true, fcls := .opt, ops := [(.z, .unused), (.s 4, .sMul 2 510), (.z, .unused), (.z, .unused)] } h15 sW
      = true ∧
    ready { unit := 3, priv := true, fcls := .opt, ops := [(.z, .unused), (.s 6, .src 1 true), (.s 7, .src 1 true), (.z, .unused)] } h15 sW
      = true ∧
    ready { unit := 3, priv := true, fcls := .opt, ops := [(.z, .unused), (.s 4, .sMul 4 508), (.z, .unused), (.z, .unused)] } h15 sW
      = true ∧
    reach sW 0x1000 = .ready ∧ rangePoisoned sW.poison 0x1000 8 = false ∧ targetOf 0xBE00000000 = .firmware ∧
    sfind sW.wgs (wkey 0 5) = none ∧
    (let s := modWg sL (wkey 0 0) fun w => { w with stopping := true }
     wgDrained { s with runs := [] } (wkey 0 0)) = true := by decide +kernel

theorem test_witness_issue :
    let f (g : BitVec 4) (ops : List (Opnd × Role)) : Option Bool :=
      (cxOf s0).map fun cx => illegal { unit := 0, ops := ops } ⟨false, 15, g⟩ cx s0
    f 3 [] = some true ∧ f 7 [(.bad 0x123, .src 1 false)] = some false ∧
    onCx s0 (fun cx => (checkForm { unit := 0, ops := [(.bad 0x123, .src 1 false)] } h15 cx s0) == some 2) = true ∧
    (let s := modGroup s0 (gkey 0 0) fun g => { g with vregs := 8 }
     onCx s fun cx => (checkForm { unit := 0, ops := [(.v 8, .src 1 false)] } h15 cx s) == some 3) = true ∧
    (let s := modGroup s0 (gkey 0 0) fun g => { g with ops := (List.range 63).map fun i => ⟨i, 2, .access, 0, [], [], [], false, []⟩ }
     onCx s fun cx => decide (63 ≤ flagCount cx.g 2)) = true := by decide +kernel

/-- A group with a handler at 0x8000, one with traps masked, and one with no handler. -/
theorem test_witness_exceptions :
    (let t := (newGroup 0 0 0 (0, 0, 32)).trap
     t.masked = false ∧ t.tvec0 = 0 ∧ t.tvec1 = 0 ∧ { t with tvec0 := (0x8000 : W32) }.tvec0.toNat ≠ 0) ∧
    (sfind s0.groups (gkey 0 0)).isSome = true ∧ (sfind s0.wgs (wgOf (gkey 0 0) (newGroup 0 0 0 (0, 0, 32)))).isSome = true ∧
    ((ctxOf sB 1).map fun c => c.killed) = some false := by decide +kernel

/-- A run that has recorded an exception, and a group whose register 0x051 names lane 0. -/
theorem test_witness_recorded :
    (let u := modRun s0 (rkey 0 0) fun r => { r with exc := some ⟨2, 0, 0⟩ }
     (sfind u.runs (rkey 0 0)).map fun r => r.exc) = some (some ⟨2, 0, 0⟩) ∧
    (newGroup 0 0 0 (0, 0, 32)).trap.rngsel < 32 ∧ (newGroup 0 0 0 (0, 0, 32)).lanes.length = 32 := by decide +kernel

theorem test_witness_runs :
    let r := { probeRun 0 with pend := [(0, Wr.v 8 31 7)], cycle := 4 }
    r.pend = [(0, .v 8 31 7)] ∧ 0 + 4 ≤ r.cycle ∧ { r with cycle := 3 }.cycle < 0 + 4 ∧
    { r with ends := .after }.ends = .after ∧ r.trapped = none ∧ r.exc = none := by decide +kernel

/-- A device that runs: feature lock with every feature, PHASE 6, the event ring set in host memory; context 1 whose page
table maps the lowest GiB to itself, with queue 5. -/
def q5 : Queue := ⟨1, 6, 0x10000, 0x20000, 1, 5, 0, 1, 0, 0, 0, true, none, 0, 0, none, [], false, false⟩
def dev : State :=
  let s := { State.reset with featacc := [0x7FF, 0, 0, 0], refclk := 1000000000, evring := ⟨true, 6, 2 ^ 50, 1, 0, 0, false, 0, 0, false⟩ }
  { s with boot := { s.boot with perst := false, pcie := true, started := true, phase := 6, featlock := true, owned := true, clustok := 0xFFFFFF, coresok := List.replicate 12 0xFFFFFFFF }, ctxs := [(1, { ctx1 with root := 0x1000, rstok := true })], queues := [(5, q5)], mem := putBytes (putBytes (putBytes [] 0x1000 (leBytes 8 0x2001)) 0x2000 (leBytes 8 0x3001)) 0x3000 (leBytes 8 0x1F) }
def devAt (env : Env) : State := { dev with env := env }
def phased (n : Nat) : State := { dev with boot := { dev.boot with phase := n } }
/-- A mailbox request in progress: its operation and its words. -/
def asking (op : Nat) (ws : List Nat) : State :=
  { dev with mailbox := { dev.mailbox with go := true, op := op, copy := (List.range 8).map fun i => BitVec.ofNat 64 (ws.getD i 0) } }

theorem test_witness_resets :
    dev.boot.power = true ∧ endpointUp dev = true ∧ releasing dev = false ∧ (phased 5).boot.phase = 5 ∧
    releasing { dev with owner := { dev.owner with go := true, op := 2 } } = true ∧ State.reset.boot.power = true ∧
    State.reset.boot.perst = true ∧ dev.boot.perst = false ∧ dev.boot.started = true := by decide +kernel
/-- The starting steps: the last pair of stacks, the last cluster, the last set of agents, and images that end early. -/
theorem test_witness_start :
    (let s := { phased 2 with boot := { (phased 2).boot with pairs := 7 }, env := { Env.reset with mask := 3 } }
     s.boot.phase = 2 ∧ s.env.mask % 4 = 3 ∧ s.boot.pairs < 8 ∧ s.boot.pairs = 7) ∧
    (let s := { phased 3 with boot := { (phased 3).boot with clusters := 23 }, env := { Env.reset with mask := 1, flag := true } }
     s.boot.phase = 3 ∧ s.boot.clusters < 24 ∧ s.env.flag = true ∧ s.env.mask % 65536 ≠ 0) ∧
    (imageFails { phased 1 with env := { Env.reset with blobs := [[]] } } []).isSome = true ∧
    (phased 1).env.blobs = [] ∧ (phased 1).boot.attLog.length < 64 := by decide +kernel
theorem test_witness_ownership :
    (let s := { devAt { Env.reset with bytes := List.replicate 32 7 } with owner := { dev.owner with go := true, op := 1 } }
     s.owner.go = true ∧ s.owner.op = 1 ∧ s.env.bytes.length = 32) ∧
    (let s := { dev with owner := { dev.owner with go := true, op := 2 } }
     s.owner.released = false ∧ releaseFails s = some 2 ∧ s.owner.fetched = false ∧ s.boot.owned = true) ∧
    releaseFails { phased 6 with boot := { dev.boot with owned := false } } = some 4 ∧
    (let s := { phased 5 with boot := { (phased 5).boot with featlock := false } }
     lockOk s = true ∧ featureOn s 7 = true ∧ lockOk { s with featacc := [0, 0, 0, 0] } = false) := by decide +kernel

theorem test_witness_registers :
    (let s := devAt { Env.reset with addr := 0x40038, bytes := List.replicate 8 1 }
     s.env.addr = 0x40000 + 8 * 7 ∧ s.mailbox.req.length = 8 ∧ s.mailbox.go = false) ∧
    (asking 0 []).mailbox.go = true ∧
    (let s := devAt { Env.reset with addr := 0x40040, bytes := [1, 0, 0, 0x80] }
     (ofLeBytes s.env.bytes).testBit 31 = true ∧ s.mailbox.op < 256) ∧
    (let s := { devAt { Env.reset with addr := 0x11C, bytes := [1, 0, 0, 0] } with boot := { dev.boot with featlock := false } }
     s.env.addr = 0x110 + 4 * 3 ∧ s.featacc.length = 4 ∧ s.boot.featlock = false) ∧
    dev.boot.apercfg.length = 16 ∧ dev.evring.cons < 2 ^ 64 ∧ dev.irons = [] ∧ dev.boot.ironPeriod < 1024 := by decide +kernel
/-- Aperture 15 on context 1, on an ASID with no context, and closed. -/
def devAper (c : Nat) : State :=
  { devAt { Env.reset with index := 15, addr := 0x40, size := 8, bytes := [1, 2] } with boot := { dev.boot with apercfg := setAt dev.boot.apercfg 15 (BitVec.ofNat 64 c) } }
theorem test_witness_apertures :
    (let s := devAper (2 ^ 63 + 1)
     liveCtx s 1 = true ∧ ([Access.read, .write].all fun a => match (hostLeaf 1 0x40 a s).1 with | .leaf _ => true | _ => false) = true ∧
       frozen s 1 0x40 = false ∧ s.retries = [] ∧ 0x40 % 128 + 8 ≤ 128) ∧
    liveCtx (devAper (2 ^ 63 + 7)) 7 = false ∧ (hostLeaf 1 (2 ^ 30) .read dev).1 = .fault ∧
    (heldBy { dev with holds := [⟨1, 0, 65536⟩] } 1 0x40).isSome = true := by decide +kernel

/-- Port 17, up, with one flit of sequence 5 in its window. -/
def upPort : Port := { Port.reset with state := 2, enable := true, window := [⟨5, 0, 0, 0, [], false, 0, [], none⟩], nextSeq := 6, sinceAck := 1 }
def devPort (p : Port) (env : Env) : State := { devAt { env with port := 17 } with ports := [(17, p)] }
theorem test_witness_ports :
    (devPort upPort Env.reset).env.port < 18 ∧ (portOf (devPort upPort Env.reset) 17).state = 2 ∧
    flitSound [] = false ∧ upPort.window ≠ [] ∧ upPort.sinceAck ≠ 0 ∧ { upPort with resend := some 5 }.resend ≠ none ∧
    (portOf (devPort { upPort with state := 1 } Env.reset) 17).state = 1 ∧
    (portOf (devPort { upPort with state := 3 } Env.reset) 17).state = 3 ∧ (portOf dev 17).state = 0 := by decide +kernel
/-- A flit of 256 bytes whose check bytes are right, of kind 1 and length 0 at sequence 0. -/
def soundFlit : List Byte :=
  let h : List Byte := leBytes 8 (2 ^ 36) ++ List.replicate 240 0
  h ++ leBytes 8 (crc64 h)
theorem test_witness_flit :
    flitSound soundFlit = true ∧ field (bytesAt soundFlit 0 8) 36 4 = 1 ∧ field (bytesAt soundFlit 0 8) 16 6 ≤ 30 ∧
    field (bytesAt soundFlit 0 8) 52 12 = 0 := by decide +kernel
theorem test_witness_checkpoint :
    asked (asking 0x0A [3, 0, 4096, 0, 1]) 0x0A = true ∧
    ckptBad (asking 0x0A [3, 0, 4096, 0, 1]) = true ∧
    (let s := { asking 0x0A [3, 0, 4096, 0, 1] with ports := [(0, { Port.reset with state := 2 })], routes := [(3, nsAdd [] 0)] }
     ckptBad s = false ∧ featureOn s 7 = true ∧ s.ckpt.busy = false) ∧
    (let s := { asking 0x0A [2 ^ 16 + 3] with ckpt := { Ckpt.reset with busy := true } }
     s.ckpt.busy = true ∧ s.ckpt.parts = [] ∧ flitsLeft s = false) := by decide +kernel

def askCtx : State := asking 0x01 [2 + 2 ^ 18 + 50 * 2 ^ 32, 0x1000, 0, 6, 0x8000, 0x10000, 1000, 3]
theorem test_witness_contexts :
    askCtx.mailbox.outcome = none ∧ askCtx.boot.owned = true ∧ ctxBad askCtx = false ∧ ctxOf askCtx 2 = none ∧
    askCtx.ctxs.length < 1024 ∧ featureOn askCtx 9 = true ∧ ctxBad (asking 0x01 [2]) = true ∧ (ctxOf (asking 0x02 [1]) 1).isSome = true ∧
    ctxOf (asking 0x02 [0xFFFE]) 0xFFFE = none := by decide +kernel
theorem test_witness_queues :
    (let s := asking 0x03 [7 + 2 ^ 32 + 6 * 2 ^ 48, 0x10000, 0x20000, 1]
     queueBad s = false ∧ liveCtx s 1 = true ∧ sfind s.queues 7 = none ∧
       (agentWrite (queueWho s 7 (newQueue s 7) 0) 1 0x20000 (List.replicate 128 0) s).1 = .ok) ∧
    (let s := asking 0x04 [5]
     liveQueue s 5 = true ∧ unread s 5 = false) ∧
    (let s := asking 0x08 [5]
     qctlMapped s 5 = true ∧ (agentNat (queueWho s 5 q5 0) 1 0x20000 8 s).1 = .ok) := by decide +kernel
theorem test_witness_signals :
    (let s := asking 0x05 [1, 0x3000]
     inHbm s 1 0x3000 = true ∧ (ctx1.signals.any fun g => g.1 == 0x3000) = false ∧ ctx1.signals.length < 8192) ∧
    (ctx1.signals.any fun g => g.1 == 0x5000) = true ∧ (64 * 2 ^ 16) % (64 * 2 ^ 16) = 0 ∧ 64 * 2 ^ 16 + 64 * 2 ^ 16 ≤ 2 ^ 50 ∧
    liveCtx (asking 0x15 [1]) 1 = true ∧ ({ asking 0x15 [1] with mailbox := { (asking 0x15 [1]).mailbox with outcome := some (0, 0) } } : State).mailbox.outcome = some (0, 0) := by decide +kernel
theorem test_witness_ranges :
    (let s := asking 0x10 [1, 65536, 65536]
     liveCtx s 1 = true ∧ s.holds.length < 8) ∧
    (let s := { asking 0x11 [1, 65536, 65536] with holds := [⟨1, 65536, 65536⟩] }
     firstBelow s.holds.length (fun k => s.holds[k]? == some ⟨1, 65536, 65536⟩) = some 0) ∧
    ({ dev with holds := List.replicate 8 ⟨1, 0, 65536⟩ } : State).holds.length = 8 ∧
    (pageLeaf (asking 0x13 [1, 0, 2 ^ 30]) 1 0).isSome = true ∧ pageLeaf dev 1 (2 ^ 30) = none ∧
    migrateBad dev 1 0 (2 ^ 30) 0 ⟨0, 30, 0, true, true, true, 0⟩ = true ∧
    migrateBad dev 1 0 65536 0 ⟨0, 16, 0, true, true, true, 0⟩ = false := by decide +kernel

/-- Queue 5 with a packet of each kind at its head. -/
def devHead (w : List Nat) : State :=
  { dev with env := { Env.reset with queue := 5, core := 80 }, queues := [(5, { q5 with head := some ⟨w, true, 0, 0, false⟩ })] }
theorem test_witness_packets :
    (let s := { dev with env := { Env.reset with queue := 5 } }
     sfind s.queues 5 = some q5 ∧ queueLive s 5 q5 = true ∧ q5.slotted = true ∧ q5.head = none ∧
       (agentNat (queueWho s 5 q5 0) 1 0x20000 8 s).1 = .ok) ∧
    (agentRead (queueWho dev 5 q5 0) 1 0x10000 64 dev).1 = .ok ∧
    (let ws := [6 * 2 ^ 56, 0, 0, 0, 0, 0, 0, 0]
     pktCheck dev 1 ws = none) ∧
    pktCheck dev 1 [0, 0, 0, 0, 0, 0, 0, 0] ≠ none ∧
    isSignal dev 1 0x5000 = true ∧ firstBelow 4096 (fun r => (sfind dev.board r).isNone) = some 0 := by decide +kernel
theorem test_witness_heads :
    (let s := devHead [3 * 2 ^ 56, 0x5000, 0, 1, 0, 0, 0, 0]
     100000 < s.refclk - 0 ∧ 100 * 1 ≤ s.refclk ∧ ((sfind s.queues 5).bind fun q => q.head).isSome = true) ∧
    (signalTest (queueWho dev 5 q5 0) 1 0x5000 .eq 0 dev).1 = true ∧ (signalTest (queueWho dev 5 q5 0) 1 0x5000 .eq 1 dev).1 = false ∧
    (signalOp (queueWho dev 5 q5 0) 1 0x5000 1 5 [] dev).1 = .ok ∧
    (observeDeps (queueWho dev 5 q5 0) 1 [(0, 0x5000), (1, 0), (2, 0), (3, 0), (4, 0)] 0 dev).1 = 31 ∧
    dmaRoom dev 1 (copyCore dev 5 80) = true ∧ (agentWrite (queueWho dev 5 q5 0) 1 0x4000 (leBytes 8 1) dev).1 = .ok := by
  decide +kernel
theorem test_witness_slots :
    (let q := { q5 with slotted := false, qstate := 0 }
     let s := { dev with queues := [(5, q)], env := { Env.reset with core := 5 }, mem := putBytes dev.mem 0x20000 (leBytes 8 1) }
     queueLive s 5 q = true ∧ (readWidx 5 s).1 = some 1) ∧
    slotsHeld dev (fun q => q.cluster == 5) < 31 ∧ slotsHeld dev (fun _ => true) < 128 ∧
    firstInOrder dev 5 = none ∧ 1000000 ≤ dev.refclk - q5.emptySince := by decide +kernel

/-- A launch record of two workgroups of one group each, and a placed workgroup of it. -/
def rec1 : LaunchRec :=
  ⟨1, 5, 0, 0, false, false, 0, 0, 0, 0, 0, 2, 1, 1, 0, 2, 0, 0, 0, 0, 0, 1, ⟨false, false, 0, 0, 0, 0, 0, [⟨0, 1, 8⟩], []⟩, []⟩
def devRec : State := { dev with board := [(0, rec1)], env := { Env.reset with core := 1 } }
theorem test_witness_claims :
    scanOrder devRec = [(0, rec1)] ∧ heldRecord devRec 1 = none ∧ savesOf devRec 0 = [] ∧ gangSize rec1 = 1 ∧
    coreLive devRec 1 = true ∧ (reserve 1 rec1.desc 0 (wgId devRec 0 rec1 0 0) devRec).isSome = true ∧
    ((reserve 1 rec1.desc 0 (wgId devRec 0 rec1 0 0) devRec).bind fun e => sfind e.2.board 0) = some rec1 := by decide +kernel
def rec4 : LaunchRec := { rec1 with brows := 1, bcols := 1, total := 1 }
def devGang : State := { dev with board := [(0, rec4)], env := { Env.reset with core := 0 } }
theorem test_witness_gangs :
    gangSize rec4 = 4 ∧ gangRows rec4 = 2 ∧ leadCore devGang (clusterOf 0) = some 0 ∧
    (firstOrigin 0 0 0 rec4 none devGang).isSome = true := by decide +kernel
def devWg : State :=
  match reserve 1 rec1.desc 0 (wgId devRec 0 rec1 0 0) devRec with
  | some (_, s) => { s with env := { Env.reset with core := 1 } }
  | none => devRec
theorem test_witness_release :
    (let s := modWg devWg (wkey 1 0) fun w => { w with ticket := 0 }
     (releaseSet s (wkey 1 0)).all (fun k => releasable s k) = true ∧ releaseSet s (wkey 1 0) ≠ []) := by
  decide +kernel
/-- The placed workgroup released, its slice at its end. -/
def devSlice : State := modWg devWg (wkey 1 0) fun w => { w with released := true }
theorem test_witness_slices :
    ((sfind devSlice.wgs (wkey 1 0)).map fun w => w.released && !w.stopping && !w.firmware && decide (w.sliceEnd ≤ devSlice.refclk + 100 * w.drain)
      && !contended devSlice 1 w) = some true ∧
    drainFor devSlice (wkey 1 0) = none ∧ gangOf devSlice (wkey 1 0) = [wkey 1 0] ∧ poolTakes devSlice (wkey 1 0) = true ∧
    mayRetire devSlice (wkey 1 0) = false := by decide +kernel
theorem test_witness_ironing :
    (turnCore dev 0 (clusterSt dev 0).turn).isSome = true ∧ dev.boot.ironEn = true ∧ (clusterSt dev 0).turnAt ≤ dev.refclk ∧
    holdsGang dev 0 = false ∧ (ironOf dev 0).skips < 2 ∧
    (let s := { dev with irons := [(3, { IronSt.reset with phase := 1 })] }
     (ironOf s 3).phase = 1 ∧ wgsOn s 3 = [] ∧ leaseOf s 3 = none) ∧ dev.boot.coresok.length = 12 := by decide +kernel

theorem test_witness_errors :
    targetOf 0x1000 = .hbm ∧ ((sfind sC.clusters 0).bind fun c => sfind c.l2 (lineKey 1 0x1000)).isSome = true ∧
    ((sfind devSlice.wgs (wkey 1 0)).map fun w => !w.firmware && !w.restartable) = some true ∧
    nsHas (nsAdd [] (0x1000 / 32)) (0x1000 / 32) = true ∧ recordAt dev 0xBE00000000 = none ∧
    ¬ (poolBase ≤ 0xBE00000000 ∧ 0xBE00000000 < poolBase + poolSize) := by decide +kernel
theorem test_witness_containment :
    (let s := { dev with kills := [⟨1, 0, 0, 0, 0, 0⟩], env := { Env.reset with asid := 1 } }
     s.kills.find? (fun k => k.asid == s.env.asid) = some ⟨1, 0, 0, 0, 0, 0⟩) ∧
    nsHas (nsAdd [] 7) 7 = true ∧ nsHas dev.retired 7 = false ∧
    (translate dev 1 0x40 .read).1.toOption.isSome = true ∧ (translate dev 1 (2 ^ 30) .read).1.toOption = none ∧
    (let c := modCluster dev 0 fun c => { c with washing := nsAdd [] 3 }
     nsHas (clusterSt c 0).washing 3 = true) := by decide +kernel
theorem test_witness_hang :
    (let s := { s0 with ctxs := dev.ctxs, env := Env.reset, groups := smod s0.groups (gkey 0 0) fun g => { g with watchdog := 400000000 } }
     ((sfind s.groups (gkey 0 0)).map fun g => (sfind s.wgs (wgOf (gkey 0 0) g)).isSome && decide (100000 * 4000 ≤ g.watchdog)) = some true
       ∧ (ctxOf s 1).isSome = true) := by decide +kernel

/-- A group with a finished load of V8 outstanding. -/
def devOp : State :=
  modGroup { s0 with env := { Env.reset with index := 9 }, runs := [] } (gkey 0 0) fun g =>
    { g with ops := [⟨9, 2, .access, 0, [vkey 8 0], [(vkey 8 0, 7)], [], true, []⟩] }
theorem test_witness_operations :
    (findOp devOp (gkey 0 0) 9).isSome = true ∧
    ((sfind devOp.groups (gkey 0 0)).map fun g => match findOp devOp (gkey 0 0) 9 with
      | some o => opDue devOp (gkey 0 0) g o && o.clobbered.isEmpty && inState g .exited == 0 && inState g .faultParked == 0
      | none => false) = some true ∧ devOp.parked = [] ∧ vkey 8 0 < 65536 := by decide +kernel
theorem test_witness_engines_complete :
    (let s := modMx s0 0 fun x => { x with queue := [⟨⟨9, gkey 0 0, 1, wkey 0 0, .msmst false []⟩, 0, 0, 0, 0, 0⟩] }
     (headMember s 0).isSome = true) ∧
    (let s := modCluster dev 0 fun c => { c with merges := [(0, ⟨1, 0, 1, []⟩)] }
     (sfind (clusterSt s 0).merges 0).isSome = true) ∧
    (modSw dev 0 fun x => { x with told := true }) ≠ dev ∧
    (swOf (modSw dev 0 fun x => { x with run := 2 }) 0).run = 2 := by decide +kernel
theorem test_witness_single_registers :
    (let s := inHandler 3
     let g := (sfind s.groups (gkey 0 0)).map fun g => { g with lanes := setAt g.lanes 31 { laneOf g 31 with st := .inactive }, trap := { g.trap with staged := some 8, lpcsel := 31 } }
     g.map (fun g => g.trap.inh && g.trap.staged == some 8 && decide (g.trap.lpcsel < 32) && decide (g.lanes.length = 32) &&
       !g.trap.tmask.getLsbD 31 && (laneOf g 31).st == .inactive)) = some true ∧
    (let s := modCore dev 0 fun c => { c with bankMode := setAt c.bankMode 15 1, bankFrom := [(15, 0)] }
     sfind (coreSt s 0).bankFrom 15 = some 0 ∧ (coreSt s 0).bankMode.getD 15 0 = 1) ∧
    6 ≤ (clusterSt dev 0).k ∧ (clusterSt dev 0).k ≤ 16 := by decide +kernel
/-- A group that is ready in quarter 1: its lanes at the clause at 0x4000, one NOP. -/
def devSel : State :=
  let s := { dev with mem := putBytes (putBytes dev.mem 0x4000 (leBytes 8 0xC50F000000000000)) 0x4008 (leBytes 8 0x007BFFFFFFFFFFF8), env := { Env.reset with core := 0, slot := 1 } }
  { s with wgs := sset s.wgs (wkey 0 0) { probeWg with slots := [1] }, groups := sset s.groups (gkey 0 1) (newGroup 0 0 0 (0, 0x4000, 32)) }
theorem test_witness_selection :
    sfind devSel.runs (rkey 0 1) = none ∧ quarterGroups devSel 0 1 = [gkey 0 1] ∧
    (sfind devSel.groups (gkey 0 1)).isSome = true ∧ (agOf devSel (gkey 0 1)).isSome = true ∧
    (attempt (gkey 0 1) { devSel with tick := 1 }).1 = true ∧
    nextWord (litmapOf 0xC50F000000000000) 1 0 = some 0 ∧ (ctxOf dev 1).isSome = true := by decide +kernel

/-! ### Authentication: signatures made with a 4,096-bit key outside the model (R45, R46, R51) -/

def keyModulus : Nat :=
  [0x000000000000000000000000000000000000000000000000000000000000000000000000000000000000000000000000ACE6D2EDB9C8E6C5,
   0xF86F784B96C5B7D36F570C67867A11DD90F74BCE19B013DA5CD6B23A17AD870EFFE27908D26471C55D365D6A266257D6381CAC192DDF659C,
   0xAA5036C1A337F45A28F25DC5F95302800B3D77C6F74BFB60B6E0EBD792D8E98D104368E558E87507C5D6FCF8D5C9C94D4B4B05856B6EBD94,
   0xBF0BEF067DB727A1B15DF3EC1E8EF95FAD3CAEE813EF01B4D1C3D574C3AAA78DF9219E73D2126717D74A92CE92516B6437561ABFB827636D,
   0x0DFCD3DA387378565BB57CB65ED5AFFB4D33912D9B9851EB0B1FEF744FBD4784447174147F59D7ACC21919D14141D0D93280DD99F9C4D3F1,
   0x56D80C899F379BEF036C75BD915CF6BBF0BC0FB0AAAEB04B5CCA58614FE70C419259D9623D1EA01A4764E01DDD587831429005FD010085CD,
   0x9B3ED3967000D3EC017FF5B71EA517801CAA1458FEDA2D2EB9D74BE2B764524EB088A5E84EBFA073A58CB60F0390218CB17387131C760BB1,
   0xDFBE6C0501BBA6BA0B7DBE6682FA8258D4D772563DED2734801033FDFF06C0EF6570F678AF16D38B85E9D025086F2329B17F82EE1A840E88,
   0xE805AE2ACE594F9EC5B5F04156FCE7944E68EB7B1866D8499B55CDCF271E459B375E1CBC2917CDEAF6F786008201B1923DFF6F2CA8C5EC43,
   0x9B81547BA8B9EEA9E863E3048D1B31CFBF3B00C9D7E244FE8D99A4B2A45FFAA3DAF09BCC3731F64973B74559011277607827493311859FBD].foldl (fun a x => a * 2 ^ 448 + x) 0
def recordSig : Nat :=
  [0x00000000000000000000000000000000000000000000000000000000000000000000000000000000000000000000000063D298A7A186DF35,
   0x85C97D85F9AE5D2E430E3EC419880B76BDECE4A2AD80B7BC4FDE01173D3D30C738F65DB67935B0100EB269AC71A8365C887308C5323ED80C,
   0xD149B2B8929D1DCB63EB66027BD5011FC544F09D3E8C6F7BE7AFD8D2233808538EF09A246E44AEF0C53E44AE494D7C77159360517B0A0D37,
   0x6915ED9603373413F6EAA34921F82943CD1286AE237B91C4F777C7FC4CB309A69ABB5C479782E94A852931A04D6C1CC1EA64438112F023F6,
   0x4BA994C85376C9D33A3E12AC1A9AC485C98107938421B6D6E33D5C3ED243CF48E452C2D0CFF2A503442B467B28929A5ADF625EE38F2007C9,
   0xB4FA2E202D51560E31BCDB7543FA6798928ABB9C7DFAC7277270FF54E7F86B445C24283EE7089F210A01796D5293D351D98D3F49AEFCA5DD,
   0x165911596EF43B4CDC036760DF10603642267FCE9A26DC3400CD6C983AD2484B67B6CC38B19F8FB8D116FBEF5762A6C4FE234EC86F88EBFA,
   0x683708822CE169769DA09F254A23B955C0FE12A8AE67CABC41CE394F6D13FA4D238CDC3391FB8FEC6AE3CFCBFE4432AF8C846216D64DBF73,
   0x02E8FFAD9F96ADD685D46EEDED9F6D56141A6B39852DEAE939077E9B43F49A696F4B341352237D26E9ECDD7CB020708DCE83A8EC018DB762,
   0xA8532F4100DC2A921123379C02AA3EE27865A217A60A0858AE1CC2BF16FE5D1B07C81F058A1B8B0B93C6980953F8C41A99E8B8B1E77FAF36].foldl (fun a x => a * 2 ^ 448 + x) 0
def imageSig1 : Nat :=
  [0x000000000000000000000000000000000000000000000000000000000000000000000000000000000000000000000000709D51A6C89B4636,
   0xB69795AC3E30C480D9C05146C775FAC13ED80862606750C4776F5CB1FFA89FB08E836612A9B53872958F9141AA2CFB0A0F392D5614CBBF1A,
   0xE5971019A300F0D811E8D2D0C7DBC90ED969D733D0D6C3E9CBFE5B706D6D2FE099AD7B91E369E5E7E2F0F1F0115D96B64AB463388DE0C3CE,
   0x44DFBBE8C89A9E65CC7B123F076C4A6A08A80212803D241345B861C3990BE197310185830FEBB5B3F66A33268939AC20E99AA6443017F226,
   0xC26B3A9E585A9A0F0BAA2FF9A86B0BF56F22DF9AEF9B8E8B6D813AC1A6064808CFA6A513A6687E09470D13572F122915CC386E9387A2FB63,
   0xB3FDBC3DEAFBF6BB18E261278499FBF1CFCA6B485F3559AB4FE0F05EA19762E8B93E54B4724010AEF81CD820D65268AAA10800C64DA13B7D,
   0x8BB9C42FE7DB3F1D3277562277B93747508F7C5028F64B73AF2B326D076E0B51D9E5A16CD5BF8160C0DE1219B94CF900B02BB8CD328A1A4E,
   0x2DE88AF6AF3D98DD3330BE023E852813F6CEC8538514D162AB623844381CB7B8A9AF5727E4A252A3F54298A4F0BD520743CA1EAAA421BFA4,
   0x19A8784552FC47BF1CF219927BEF0B51C8DEB20D6786D2E8AC2AED0DF5C1B31237372237842A1439AC9CF28EE23E02572A9466673D14978E,
   0xD4F5EC95F3818998AA2ED0D6CB683E1E6FA8E69BB310FEA5919B2CC21C0AC80CBF8BBC651944D757EE47A5B164A798B1BC53613206FFBC78].foldl (fun a x => a * 2 ^ 448 + x) 0
def imageSig2 : Nat :=
  [0x0000000000000000000000000000000000000000000000000000000000000000000000000000000000000000000000004B81155807D3B9B6,
   0x5177783C497534D2C78055CE3978D4E3BB0908EDBD8ABB3956A6878BA69AC272E70B41D972C972C464DB45FF26626D154B06DB7DE4FB8733,
   0x8A3C3CBD962300862482DBA6E4B8D15878ECEC914564D43405A2504A50E2418066A568B9CAF75C3FB7412A7DB4A7E5607791D4F9970C3BA8,
   0xC229C4C3998CB0523EEBA05E0911E95A0235F1034A387847B6E6792966433E858F8DE4A8096AA9ED17429D5D76B08520963BB5D5F4D981BF,
   0xC83C0E22AC8FA636650C2D91C6FFF47808E11DDEA7D59B6C40B7978A0C48F9855818873EB3A6A4101C257A3A1945C7740A2084744C2747AF,
   0xD422BA626B19DE710993FAB6A4BAD8A049E2A5F9469F75B397F2C3B215A76A9A1942D6F21CE998F3434333F4A7F015F446BF4293FA422C2C,
   0xF43B4B4B3DBFA8BDD31ED536F733437D085D415D9F7B994902F28F10DC701E12973DB24CC518592D3B1E74344A95C0A06C5CCB3E38DAB54B,
   0x7ACB5115CE89826FD5317A29CDFBA6C43B42C083C6DCC3694C7652EF05AD9A1E61021129E87B5F5BD535754AF3BCE8B6A18A81C7868F04EF,
   0x1E23916F2367A5C8869AD73FA3F4C8FDE4E1C8BDE6E504702BC4FD060E2028312FB924F4D2979129AF7D51BB9071F417839BF04EE316EBEA,
   0xB38162E129382017906DB81AB5BBE99F99BD21DE3C04A8BEC86E32DDA8FB52E9C9305F78C2A343E4A8D2034BE5AEBEF2761890014AA639A0].foldl (fun a x => a * 2 ^ 448 + x) 0
def imageSig3 : Nat :=
  [0x00000000000000000000000000000000000000000000000000000000000000000000000000000000000000000000000088F6A3AC8D29369A,
   0xE787D466F696482D2C566BFBA16D4FC36EC9E36BA547AFD06B33C0BBF2341E25D49E2142F54E86AECA964043F88DF0ABFC989EFFF3ED9A97,
   0x8B5A82F7CFE9C91F4873725DEF226B3363048B024CB9A0B44A8B8E9D41DBA2AFDB55FD874B9264275FCBD3CA9E83334A1B223E839E7C6F54,
   0xB52F24CE5864A2A1026AFB4EE4B1B31586C1BA41CFAFB6400669213F32935FC64117EB198BB3A0FA6A460A578D95F0596E1FA33CAD7061AD,
   0xE8531283BA404A04E61CF3F9AE97CD9ECB4234056B04868D84A7506A96CB6BA8DB2BBB622C677415BEC514B485002DAFF8B83A1CA1C5D1DB,
   0x54F1D4E358F57FE929B6D1D302A875D09B2A622C7D65DCFF7088C75E5917B0FA4828206B9B0090877AB84B00EE9D98A972906E15F2766766,
   0x8181C796B02A059E6DA36302C2D62A70F28775549AE3F706841DC198B795A04FB87B5943EB19ECE6C650AA6558FBDA18109A59540A3AD9D9,
   0x131A288758B2C4168394BB2FAC0DEB44AE9C71CB24352732F009B01D7B095D111CB033C22A3586AC75F93D80F50FFCCFF3EB6D158F89E20F,
   0x917E8875928DBA6578ED25D4AFFF601091C23C0BBC33BE79574424D864F58C2ED719202DADC6C6822583550FF0DFCDBD8234EE116B3CAC94,
   0xEB7A1CEF0A049A0508E7E4114982D3904AEAD22DD0FD604F2F0C415534F71E319305B9176EE451E316F9901962E100D91563E7B914AF27A2].foldl (fun a x => a * 2 ^ 448 + x) 0
def imageSig4 : Nat :=
  [0x0000000000000000000000000000000000000000000000000000000000000000000000000000000000000000000000007ED2407741BCEA5B,
   0x9C4A94425FBFB4529AB31A89B8F17E063111133A7B5FE89E69A569E8A517D4D16624E1B9E9F4F20D1E2D4C4EADBB3D1AEC20EA7DF81CBA53,
   0xA1371459D98DB4428930A216BE25EF0ACDA5E18C8CA48B0EF647154851967DE2EFD7DCAA9DB73A93A67B6FAFDD9114EA8CBCD72A9B80AA3F,
   0xC161958123ABED0F5B0534EA56E851C1861F4CA0C20F8D57794CED865C8843D5ADB9E61F5B30FE30224694F2CEB350D02C43F835DCFFFCC3,
   0x7E1828360C9837E375CB5FBA93DF1ED28A9EA5D44AE1C294A877C2F969ED7EB07CA5DA365C8695D61DF9F9D036883E507A407D785A8A665B,
   0xAA7F8AF5E2EE2A20156B329753F759B6D06F750B44ADA64E769F6BB84BCCC45E3D82689FF047399B631C0A92D75C7170EE8A577CCBAD8FF1,
   0x7DB8D7A2D899FB04CAE76BB940E97CBEF400A305B5122AF59606383F8D861899568E9C99096B3B82D5E19EAD8FE59FD5CB918290E4DDC0D0,
   0x387C5CD765BFEE7A4F9511792F99D7ACA0F8FCE78F8DF12A54DF960D5293093F7630D47FA5BA69455B032968A1FCC2CDDAC8F262BB4A649D,
   0xBEB83E2DCDF2548EEA175018350726BF8B11626F07213E6E88C45A9675F0E41990E6D402E5F0CD8959C28F79E48DA5595D94E24D71DB9AE1,
   0xC4A4AE7B1E5AD5F69574E602C5CFFC0F527D23672C1CC7A2634C0FAA0145100ED5CEBCFD5507CDFE3EF5B3653C7F4F60C2BE41C6C92DD622].foldl (fun a x => a * 2 ^ 448 + x) 0

/-- The published example: the SHA-512 of "abc" begins ddaf35a1 93617aba. -/
theorem test_sha512 : (sha512 [0x61, 0x62, 0x63]).take 8 = [0xdd, 0xaf, 0x35, 0xa1, 0x93, 0x61, 0x7a, 0xba] := by decide +kernel

/-- A device owned by the key, with a nonce fetched, and the release record that its owner signed. -/
def ownedDev : State :=
  let nonce : List Byte := (List.range 32).map (BitVec.ofNat 8)
  { dev with owner := { dev.owner with serial := 0x1234, epoch := 3, nonce := nonce, fetched := true, go := true, op := 2, keys := [sha512 (leBytes 512 keyModulus)], relrec := leBytes 4 0x56504F52 ++ leBytes 12 1 ++ leBytes 16 0x1234 ++ leBytes 16 3 ++ nonce ++ leBytes 512 keyModulus ++ leBytes 512 recordSig ++ List.replicate 176 0 } }

theorem test_witness_releasePasses : ownedDev.owner.go = true ∧ ownedDev.owner.op = 2 ∧ ownedDev.owner.released = false ∧
    releaseFails ownedDev = none := by decide +kernel

/-- The four images of the key's maker, accepted in the provisioning state. -/
def makerImage (kind : Nat) : List Byte :=
  leBytes 4 0x56504831 ++ leBytes 4 1 ++ leBytes 4 kind ++ leBytes 4 0 ++ leBytes 8 4 ++ sha512 [0x63, 0x6F, 0x64, 0x65] ++
    leBytes 512 keyModulus ++ leBytes 512 ([imageSig1, imageSig2, imageSig3, imageSig4].getD (kind - 1) 0) ++
    List.replicate 1024 0 ++ [0x63, 0x6F, 0x64, 0x65]
def makerDev : State :=
  { phased 1 with owner := { dev.owner with makerHash := sha512 (leBytes 512 keyModulus) }, boot := { (phased 1).boot with owned := false } }

theorem test_witness_imagePasses1 : imageFails makerDev (makerImage 1) = none := by decide +kernel
theorem test_witness_imagePasses2 : imageFails makerDev (makerImage 2) = none := by decide +kernel
theorem test_witness_imagePasses3 : imageFails makerDev (makerImage 3) = none := by decide +kernel
theorem test_witness_imagePasses4 : imageFails makerDev (makerImage 4) = none := by decide +kernel
/-- The four images of start step 2 pass, of one maker, in one state. -/
theorem test_witness_imagePasses : imageFails makerDev (makerImage 1) = none ∧ imageFails makerDev (makerImage 2) = none ∧
    imageFails makerDev (makerImage 3) = none ∧ imageFails makerDev (makerImage 4) = none :=
  ⟨test_witness_imagePasses1, test_witness_imagePasses2, test_witness_imagePasses3, test_witness_imagePasses4⟩
theorem test_witness_imageKinds :
    ([1, 2, 3, 4].all fun k => bytesAt (makerImage k) 8 4 == k) = true ∧ makerDev.boot.attLog.length + 4 ≤ 64 ∧
    makerDev.boot.phase = 1 ∧ makerDev.boot.started = true := by decide +kernel

/-! ### Memory that serves at once -/

/-- The line of sC as its L2 holds it. -/
def lineC : L2Line := ⟨List.replicate 128 0xAB, 0, true, true, false, false, 15, 0, 0, false, 0, none, some 0⟩
theorem test_witness_quiet : Quiet sC := ⟨by decide +kernel, by decide +kernel, by decide +kernel⟩
theorem test_witness_l2 : ∀ a ∈ [Access.read, .write, .atomic, .wait], L2Serves sC 0 1 0x1000 a lineC ∧ lineC.poison = 0 := by
  intro a ha
  simp only [List.mem_cons, List.not_mem_nil, or_false] at ha
  rcases ha with rfl | rfl | rfl | rfl <;>
    exact ⟨⟨by decide +kernel, by decide +kernel, rfl, rfl, by decide +kernel, by decide +kernel, by decide +kernel⟩, rfl⟩
/-- The translation unit of 0x1000 holds a leaf of 1 GiB for ASID 1. -/
def leafT : TlbEnt := ⟨1, 0, ⟨0, 30, 0, true, true, true, 0⟩⟩
def sT : State := { s0 with units := [(unitOf 0x1000, { UnitSt.reset with tlb1 := [leafT] })] }
theorem test_witness_ctrl : Quiet sT ∧ CtrlServes sT 0 1 0x1000 0x1000 .atomic ∧ isObject sT 1 0x1000 = false :=
  ⟨⟨by decide +kernel, by decide +kernel, by decide +kernel⟩,
    ⟨by decide, ⟨leafT, by decide +kernel, rfl, by decide +kernel, by decide, by decide +kernel⟩, by decide,
      by decide +kernel, by decide +kernel, by decide +kernel, by decide +kernel, by decide +kernel⟩, by decide +kernel⟩

/-- Where no lane holds the guard; atomics at a scope below die and at die scope; acquires, releases and waits. -/
theorem test_witness_guards :
    onCx sL (fun cx => guardMask cx ⟨false, 15, 2⟩ == 0 && guardMask cx hP1 != 0) = true ∧
    ([0, 1, 2, 3, 4, 5, 6, 7].all fun k => ready (atomForm true k ⟨.v 8, .s 4, .v 2, 0x210⟩) h2 sC &&
      ready (atomForm true k ⟨.v 8, .s 4, .v 2, 0x411⟩) h2 sT) = true ∧
    atomOrder ⟨.v 8, .s 4, .v 2, 0x210⟩ = 0 ∧ atomScope ⟨.v 8, .s 4, .v 2, 0x210⟩ = 2 ∧
    atomScope ⟨.v 8, .s 4, .v 2, 0x411⟩ = 4 ∧
    onCx sC (fun cx => cx.g.ops.isEmpty && !buffers cx.w && guardMask cx h2 != 0 && (lanesOf (guardMask cx h2)).all fun l =>
      decide ((in64 cx sC (.s 4) l).toNat = 0x1000)) = true ∧
    ready { unit := 1, fcls := .res, ops := [(.v 8, .dst 2 true true), (.s 4, .src 2 true), (.z, .unused), (.z, .unused)] } h2 sT
      = true ∧
    ready { unit := 1, fcls := .opt, ops := [(.z, .unused), (.s 4, .src 2 true), (.s 6, .src 2 true), (.z, .unused)] } h2 sT = true ∧
    ready { unit := 1, fcls := .res, ops := [(.v 8, .dst 1 true false), (.s 4, .src 2 false), (.s 6, .src 1 false)] } h2 sC = true ∧
    waitHolds .ne 0xABABABAB 2 = true := by decide +kernel

/-- A multicast read of one line into the scratch run, with the merge window open, joined and closed. -/
def sMc (win : Nat) : State :=
  modCluster { sC with wgs := sL.wgs } 0 fun c => { c with mergewin := win }
theorem test_witness_multicast :
    ready { unit := 1, fcls := .res, ops := [(.z, .unused), (.s 4, .src 2 true), (.imm 1, .src 1 true), (.imm 0, .src 1 true)] } h2
      (sMc 0) = true ∧
    (mergeInto (clusterSt (sMc 0) 0) 1 0x1000 1 (gkey 0 0) 1).isNone = true ∧
    (mergeInto (clusterSt (sMc 256) 0) 1 0x1000 1 (gkey 0 0) 1).isSome = true ∧
    onCx (sMc 256) (fun cx => decide ((runOf cx.w .sp).2 = 4096) && !localHeld cx false (ticked (sMc 256)) && !vecHeld cx) = true ∧
    (4096 : Nat) < 4096 / 128 * 128 + 128 * 1 ∧ min (0 : Nat) 64 = 0 := by decide +kernel

theorem test_witness_hints_served :
    onCx sC (fun cx => (lanesOf cx.run.lanes).all fun l => decide ((in64 cx sC (.s 4) l).toNat = 0x1000)) = true ∧
    (sfind (coreSt sC 0).l1 (lineKey 1 0x1000)).isSome = true ∧ lanesOf 1 = [0] := by decide +kernel
/-- A workgroup whose store buffer still drains. -/
def sDrain : State :=
  modWg s0 (wkey 0 0) fun w => { w with restartable := true, committed := true, sbuf := [⟨gkey 0 0, 0, 1, .fence 4, 0, false⟩] }
theorem test_witness_draining : draining sDrain (wkey 0 0) = true ∧ uncommitted sDrain (wkey 0 0) = false ∧
    ready (fenceForm ⟨.z, .z, .z, 0x300⟩) h2 sDrain = true := by decide +kernel

/-- An object at 0x1000 that translates to local memory, and a free range of 128 bytes. -/
def sBind : State := { sT with ctxs := sset s0.ctxs 1 ctx1 }
theorem test_witness_bind :
    bindStatus (ticked sBind) 1 0x8000 128 0x1000 = 0 ∧ bindStatus (ticked sBind) 1 0x8000 64 0x1000 = 2 ∧
    bindStatus (ticked sBind) 1 0x1000 128 0x1000 = 3 ∧
    64 ≤ (List.replicate 64 (⟨0, 128, 0x1000, 0⟩ : Binding)).length := by decide +kernel

/-! ### Engines -/

/-- An INT8 operation of 2 × 8 by 3, single or bonded, with A in the operand buffer or in registers, at S32; two records. -/
def mmaWords (bond src : Nat) : List Nat :=
  [src * 2 ^ 30 + bond * 2 ^ 26 + 2 ^ 16, 8 * 2 ^ 14 + 2, 2 ^ 18, 3, 0, 2 ^ 19 + 1, 0, 2 ^ 19 + 1]
def recInt8 (base : Nat) : List Byte := leBytes 4 base ++ leBytes 4 2048 ++ [10, 0, 1, 0] ++ List.replicate 20 0
def sMma (bond src : Nat) : State :=
  modGroup (modWg sL (wkey 0 0) fun w => { w with obrecs := [recInt8 0, recInt8 2048] ++ List.replicate 14 [] }) (gkey 0 0)
    fun g => { g with sreg := ((List.range 8).map fun i => (32 + i, (mmaWords bond src).getD i 0)).foldl (fun m e => sput 0 m e.1 (BitVec.ofNat 32 e.2)) g.sreg }
/-- Bonded: core 0 and its south neighbour, core 4, as a tile of two rows. -/
def leaseB : Lease :=
  { members := [(0, 0, 0), (4, 1, 0)], rows := 2, cols := 1, record := 0, ticket := 0, retired := [], released := [], trows := 2
    tcols := 1, cmds := [], flips := 0, cut := [] }
def sBond : State :=
  [0, 4].foldl (fun s c => modMx s c fun x => { x with bonded := true, itr := 2, cfg0 := tileCfg 2 1 (c / 4) 0 })
    { sMma 1 0 with leases := [leaseB] }
/-- What the words of an MMA at S32 say at its issue. -/
def mmaTest (s : State) (p : Cx → MBlock → List Byte → List Byte → Bool) : Bool :=
  onCx s fun cx =>
    let b := mblock (sBlock cx (ticked s) (.s 32) 8)
    p cx b (cx.w.obrecs.getD b.ares []) (cx.w.obrecs.getD b.bres [])
theorem test_witness_mma :
    ready { unit := 2, fcls := .opt, ops := [(.z, .unused), (.s 32, .sMul 8 504), (.z, .unused), (.z, .unused)] } h2 (sMma 0 0) = true ∧
    mmaTest (sMma 0 0) (fun cx b ra rb => !mmaIllegal cx b ra rb 1 1 0 0 && decide (mmaOutside cx.w b ra rb 1 0 0 = none) &&
      b.asrc != 2 && cx.g.window.isEmpty) = true ∧
    issueTile (sMma 0 0) 0 = (1, 1, 0, 0) ∧ mmaTest (sMma 1 0) (fun cx b ra rb => mmaIllegal cx b ra rb 1 1 0 0) = true ∧
    mmaTest (sMma 0 2) (fun cx b ra rb => !mmaIllegal cx b ra rb 1 1 0 0 && decide (mmaOutside cx.w b ra rb 1 0 0 = none) &&
      b.asrc == 2 && readsA 0 && !regHazard cx b.areg (regWords b (recFmt ra)) && (windowOf cx.g 0).isEmpty && !pathHeld cx.g 0 (sMma 0 2).nextOp &&
      mxRoom (sMma 0 2) 0) = true ∧
    mmaTest (modGroup (sMma 0 2) (gkey 0 0) fun g =>
      { g with trap := { g.trap with hchk := true }, ops := [⟨0, 2, .access, 1, [32], [], [], false, []⟩] })
      (fun cx b ra _ => regHazard cx b.areg (regWords b (recFmt ra)) && decide (regWords b (recFmt ra) = min 32 (((b.k * fmtBits (recFmt ra) + 7) / 8 + 3) / 4)) && !windowFull cx 0) = true ∧
    mmaTest (modWg (sMma 0 0) (wkey 0 0) fun w => { w with msLen := 16 })
      (fun cx b ra rb => decide (mmaOutside cx.w b ra rb 1 0 0 = some 32)) = true := by decide +kernel
theorem test_witness_bonds :
    (bondLegal sBond 0) = some leaseB ∧ leaseB.rows % 2 ^ 1 = 0 ∧ leaseB.cols % 2 ^ 0 = 0 ∧ leaseB.cols % 2 ^ 1 ≠ 0 ∧
    bondLegal (sMma 0 0) 0 = none ∧
    ready { unit := 2, fcls := .opt, ops := [(.z, .unused), (.z, .unused), (.z, .unused)] } h2 sBond = true := by decide +kernel
/-- The single operation at the head of its engine, its slice of B loaded: its next row can be worked. -/
def sHead : State :=
  loadStep 0 (match exec (.mma h2 ⟨.z, .s 32, .z, .z⟩) (sMma 0 0) with | .next t => t | _ => sMma 0 0)
theorem test_witness_rows :
    (stepReady sHead 0).isSome = true ∧ ((headMember sHead 0).map fun m => m.w.stopping) = some false ∧ stepsLeft sHead 0 = 8 ∧
    (mxOf sHead 0).rx = [] ∧
    ((stepReady sHead 0).map fun e => !wrongShape e.1 (e.2.2.fromWest ++ e.2.2.fromNorth) &&
      !operandPoisoned sHead e.1 e.1.recA e.1.block.a e.1.block.asrc [e.1.ent.row] (e.1.lo e.1.cfg.bi) (e.1.hi e.1.cfg.bi)) = some true := by
  decide +kernel
theorem test_witness_load_done : loadStep 0 sHead = sHead := by decide +kernel
/-- A token on the link from core 0 to core 4: sound; with a bit turned; with no room for it. -/
def tokB : Token := mkToken 0 0 0 2 0 (List.replicate 32 1) [] []
def sTok (k : Nat) (mask : Nat) : State :=
  modMx (modMx { sBond with env := { Env.reset with core := 4, port := 0, kind := 2, mask := mask } } 0
    fun x => { x with tx := [(4, tokB)] }) 4 fun x => { x with rx := List.replicate k tokB }
theorem test_witness_tokens :
    linkEnd (sTok 0 0) 4 0 = some 0 ∧ nextToken (mxOf (sTok 0 0) 0) 4 0 2 = some (tokB, []) ∧ tokenSound tokB = true ∧
    tokB.header % 8 = 2 ∧ (tokB.payload.mapIdx fun i b => b ^^^ ([] : List Byte).getD i 0) = tokB.payload ∧
    tokenSound { tokB with header := tokB.header ^^^ 0x100 } = false ∧ (channel (mxOf (sTok 15 0) 4) 0 2).length < 16 ∧
    16 ≤ (channel (mxOf (sTok 16 0) 4) 0 2).length := by decide +kernel

/-- A copy of four words from the scratch run to the operand buffer, and a link transfer. -/
def copyWords : List Nat :=
  [2 ^ 30 + 2 * 2 ^ 28 + 16 * 2 ^ 10 + 16 * 2 ^ 5, 0, 0, 2 ^ 16 + 4, 1, 2 ^ 16 + 4, 1, 0, 0, 0, 0, 0, 0, 0, 0, 0, 0, 0, 0, 0, 0, 0, 0, 0]
def linkWords : List Nat := [0x10000, 0, 0x20000, 0, 128, 0, 0x30000, 0, 1, 0, 0, 0]
theorem test_witness_copies :
    cpyLegal (cblock copyWords) true = true ∧ cpyLegal (cblock []) true = false ∧
    onCx sL (fun cx => decide (cpyOutside cx.w (cblock copyWords) = none)) = true ∧
    onCx s0 (fun cx => (cpyOutside cx.w (cblock copyWords)).isSome) = true ∧
    ((cblock copyWords).conv && (cblock copyWords).rnd == 4) = false ∧
    (let b := cblock (setAt copyWords 0 (copyWords.getD 0 0 + 2 ^ 24 + 4 * 2 ^ 20)); cpyLegal b true && b.conv && b.rnd == 4) = true ∧
    lxferLegal linkWords = true ∧ lxferLegal [] = false ∧ dmaRoom sL 1 0 = true ∧ dmaRoom sL 3 0 = true := by decide +kernel

/-- A declaration of four elements, its run decided; and an engine with nothing before a command. -/
def decl4 : SwDecl := ⟨0x1000, 0, 0, 1, 8, 1, 1, 0, 8, [4, 1, 1], [0, 0, 0], [[1, 0, 0]], 0, 0, 1, 0, 0, 0, 0, 4, 0⟩
def sDec (run : Nat) : State :=
  modSw sL 0 fun x => { x with wg := some 0, declOk := true, started := true, run := run, decl := some decl4, groups := [gkey 0 0] }
/-- The same with a batch whose lanes all hold element 0. -/
def sHold : State := modSw (sDec 1) 0 fun x => { x with batches := [⟨gkey 0 0, 0, (List.range 32).map fun l => (l, 0), 0⟩] }
theorem test_witness_decided :
    onCx (sDec 3) (fun cx => cx.g.ops.isEmpty && cx.g.window.isEmpty && !windowFull cx 2 && !holdsElem cx (swOf (sDec 3) 0)) = true ∧
    (swOf (sDec 3) 0).held = [] ∧ swRoom (sDec 3) 0 = true ∧ (swOf (sDec 3) 0).decl = some decl4 ∧
    (swOf (sDec 3) 0).notices = [] ∧ (swOf (sDec 3) 0).pulls = [] ∧
    ready (swForm .res [(.v 8, .out true 4 0), (.s 12, .out false 1 511), (.z, .unused), (.z, .unused)]) h2 (sDec 3) = true ∧
    onCx (sDec 3) (fun cx => decide (decl4.blk = (in64 cx (sDec 3) (.s 4) 0).toNat % 2 ^ 57) && decide (3 < swCount decl4)) = true ∧
    onCx sHold (fun cx => [1, 2, 3].all fun k => (List.range 32).all fun l => commitLegal cx (swOf sHold 0) k l (2 ^ 21)) = true := by
  decide +kernel

/-! ### The firmware slot's records -/

/-- A slot-table record of one group at the start of the firmware region: workgroup 5 of ASID 1, slot 9 of quarter 1. -/
def tabBytes : List Byte :=
  leBytes 2 1 ++ [5, 1] ++ List.replicate 124 0 ++ [9, 0, 0, 1] ++ List.replicate 508 0
def sTab : State :=
  let s := { sW with ctxs := sB.ctxs, mem := putBytes (putBytes (putBytes sW.mem 0xBE00000000 tabBytes) 0xBE40000000 [1, 0]) 0xBE4000001C [1] }
  { s with images := [(0xBE40000000, saveImage s (wkey 0 0) { probeWg with slots := [9] })] }
/-- The workgroup of the record stands, stopped and with nothing under way; restartable and not committed; not stopped. -/
def sStop (re st : Bool) : State :=
  { sTab with wgs := sset sTab.wgs (wkey 0 7) { probeWg with slots := [], restartable := re, committed := false, stopping := st } }
theorem test_witness_records_tab :
    slotTabBad sTab 0 0xBE00000000 (slotTab (memBytes sTab 0xBE00000000 640)) = false ∧
    slotTabBad sTab 0 0xBE00000020 (slotTab (memBytes sTab 0xBE00000020 640)) = true ∧
    (slotTab (memBytes sTab 0xBE00000000 640)).n = 1 ∧
    recordThere sTab 0xBE40000000 = true ∧ ofLeBytes (memBytes sTab (0xBE40000000 + 0x1C) 4) = 1 ∧
    ofLeBytes (memBytes sTab 0xBE50000000 2) = 0 ∧ targetOf (0xBE40000000 + 256 - 1) = .firmware ∧
    targetOf 0x1000 ≠ .firmware ∧ targetOf 0x1000 ≠ .peer ∧ sfind sTab.wgs (wkey 0 7) = none := by
  decide +kernel
/-- GSAVE of the workgroup whole, as one that starts over, and of one that has not stopped. -/
theorem test_witness_saves :
    ([false, true].all fun re => wgDrained (sStop re true) (wkey 0 7) && uncommitted (sStop re true) (wkey 0 7) == re &&
      targetOf (0xBE40000000 + recordSize (sStop re true) (wkey 0 7) - 1) == .firmware) = true ∧
    ((sfind (sStop true false).wgs (wkey 0 7)).map fun w => w.stopping) = some false := by decide +kernel

/-! ### Start, ownership, ports -/

theorem test_witness_agents :
    (let s := { phased 5 with boot := { (phased 5).boot with agentCode := [1] } }
     s.boot.loaded = false ∧ s.boot.perst = false ∧ s.boot.started = true ∧ coreLive s 383 = true ∧ s.boot.agentCode ≠ []) ∧
    (phased 4).boot.sets + 1 ≠ 6 ∧ ({ (phased 4).boot with sets := 5 } : Boot).sets = 5 ∧
    makerDev.boot.attLog.length + [makerImage 1].length ≤ 64 ∧ bytesAt (makerImage 1) 8 4 ≠ 2 ∧
    ({ dev.boot with owned := false } : Boot).power = true ∧ ({ dev.owner with released := true } : Owner).released = true := by
  decide +kernel

/-- A flit of a header, its check bytes right. -/
def flitOf (h : Nat) : List Byte :=
  let bs : List Byte := leBytes 8 h ++ List.replicate 240 0
  bs ++ leBytes 8 (crc64 bs)
theorem test_witness_flits :
    ([0, 2 ^ 32, 7 * 2 ^ 36, 31 * 2 ^ 16 + 2 ^ 36, 4 * 2 ^ 36].all fun h => flitSound (flitOf h)) = true ∧
    field (bytesAt (flitOf (2 ^ 32)) 0 8) 32 2 ≠ 0 ∧ 6 ≤ field (bytesAt (flitOf (7 * 2 ^ 36)) 0 8) 36 4 ∧
    30 < field (bytesAt (flitOf (31 * 2 ^ 16 + 2 ^ 36)) 0 8) 16 6 ∧ field (bytesAt (flitOf (4 * 2 ^ 36)) 0 8) 36 4 = 4 ∧
    (0 + 4096 - 1) % 4096 ≥ 2048 ∧ (0 + 4096 - 4095) % 4096 < 2048 ∧ Port.reset.window = [] := by decide +kernel
/-- The seam, its oldest flit sent seventeen times for a requester. -/
def seamPort : Port :=
  { upPort with resend := some 5, stuck := 5, consec := 16, window := [⟨5, 1, 0, 0, [], false, 0, [], some ⟨1, 3, 0, 0, false, none⟩⟩] }
theorem test_witness_seam :
    (let s := { dev with ports := [(18, seamPort)], env := { Env.reset with port := 18 } }
     (portOf s 18).resend = some 5 ∧ (portOf s 18).stuck = 5 ∧ 16 ≤ (portOf s 18).consec ∧
       (((portOf s 18).window.find? fun f => f.seq == 5).bind fun x => x.req) = some ⟨1, 3, 0, 0, false, none⟩) ∧
    upPort.window.head?.map (fun f => f.seq) = some 5 ∧
    (firstBelow upPort.window.length fun j => (upPort.window[j]?.map fun f => f.seq) == some 7) = none ∧
    (15 : Nat) % 16 = 15 ∧ ¬ (0xEE % 16 = 15 ∨ 0xEE / 16 = 15) ∧ (2 ^ 31 + 2 ^ 30 : Nat).testBit 30 = true := by decide +kernel

/-! ### Requests -/

theorem test_witness_killed :
    (let s := { asking 0x01 [1 + 50 * 2 ^ 32, 0x1000, 0, 6, 0x8000, 0x10000, 1000, 3] with ctxs := [(1, { ctx1 with killed := true })] }
     ctxBad s = false ∧ ((ctxOf s 1).map fun c => c.killed) = some true) ∧
    (s0.mailbox.op ≠ 0x15 ∨ (1 : Nat) ≠ 0) := by decide +kernel
/-- A page of 2 MiB at 2^30, and a migration of it, to the device's memory or to peer 1. -/
def devPage : State := { dev with mem := putBytes (putBytes dev.mem 0x3008 (leBytes 8 0x4001)) 0x4000 (leBytes 8 0x20001F) }
def mig (pa phase : Nat) : Migration := ⟨1, 2 ^ 30, 21, pa, 0, phase, none, []⟩
def leaf2 : Leaf := ⟨0x200000, 21, 0, true, true, true, 0x20001F⟩
def devPeer (st : Nat) : State :=
  { devPage with routes := [(1, nsAdd [] 0)], ports := [(0, { Port.reset with state := st })] }
def peerPa : Nat := 2 * 2 ^ 50 + 2 ^ 40
theorem test_witness_migration :
    (pageLeaf devPage 1 (2 ^ 30)) = some leaf2 ∧ migrateBad devPage 1 (2 ^ 30) 0x400000 0 leaf2 = false ∧
    physReach devPage (pageBlocks (mig 0x400000 1) leaf2) = .ready ∧ peerOf peerPa = 1 ∧
    (physReach (devPeer 3) ((pageBlocks (mig peerPa 1) leaf2).take 2)) = .held (peerHold 0 1) ∧
    physReach (devPeer 4) ((pageBlocks (mig peerPa 1) leaf2).take 2) = .linkDown peerPa := by decide +kernel
theorem test_witness_cutover :
    (leafEntry devPage (2 ^ 30) 4 0x1000).isSome = true ∧ liveCtx devPage 1 = true ∧
    liveCtx { devPage with ctxs := [] } 1 = false := by decide +kernel

/-! ### Packets -/

/-- A descriptor of one role of one group, 8 registers, in memory; a launch of one workgroup at the head of queue 5. -/
def descBytes : List Byte := [1] ++ List.replicate 39 0 ++ leBytes 2 1 ++ leBytes 2 8 ++ List.replicate 212 0
def launchWords : List Nat := [2 ^ 56, 0x8000, 1 + 2 ^ 32, 1, 0, 0, 0, 0]
def devLaunch : State := { devHead launchWords with mem := putBytes dev.mem 0x8000 descBytes }
theorem test_witness_launch :
    (agentRead (queueWho devLaunch 5 q5 0) 1 0x8000 256 devLaunch).1 = .ok ∧
    (agentRead (queueWho devLaunch 5 q5 0) 1 0x8000 256 devLaunch).2.2 = descBytes ∧ descBad descBytes = false ∧
    descRefused (descOf descBytes) launchWords 50 = false ∧
    (copyBanks (queueWho devLaunch 5 q5 0) 1 0 (bankAddrs (descOf descBytes) 0) devLaunch).1 = .ok ∧
    pktCheck devLaunch 1 launchWords = none := by decide +kernel
theorem test_witness_registered :
    (let s := devHead [3 * 2 ^ 56, 0x6000, 0, 1, 0, 0, 0, 0]
     ((sfind s.queues 5).bind fun q => q.head.map fun h => signalGone s q h) = some true) ∧
    (let s := devHead [3 * 2 ^ 56, 0x5000, 0, 1, 0, 0, 0, 0]
     ((sfind s.queues 5).bind fun q => q.head.map fun h => signalGone s q h) = some false) ∧
    pktSignals [3 * 2 ^ 56, 0x5000, 0, 1, 0, 0, 0, 0] = [0x5000] ∧ isSignal dev 1 0x5000 = true ∧
    (2 ^ 55 : Nat).testBit 55 = true ∧ ([⟨0, 1, 0, 0, 0, 0, false, false, 0⟩] : List OutPkt) ≠ [] := by decide +kernel
/-- A barrier-and packet that waits for one signal; a marker that waits for nothing. -/
theorem test_witness_waiting :
    ((pktDeps [5 * 2 ^ 56, 0x5000, 0, 0, 0, 0, 0, 0]).filter fun d => d.2 != 0 && !(0 : Nat).testBit d.1) ≠ [] ∧
    (6 * 2 ^ 56 : Nat) / 2 ^ 56 % 256 ≠ 3 ∧ (6 * 2 ^ 56 : Nat).testBit 55 = false ∧
    slotsHeld dev (fun q => q.cluster == 5) < 31 ∧ (firstInOrder { dev with queues := [(5, { q5 with slotted := false, order := some 0 })] } 5) = some 5 ∧
    (31 : Nat) ≤ slotsHeld { dev with queues := (List.range 31).map fun k => (k, q5) } (fun q => q.cluster == 5) ∧
    (sfind dev.queues 5) = some q5 ∧ (∀ e ∈ dev.queues, e.1 = 5 → e.2 = q5) := by decide +kernel

/-! ### Scheduling -/

/-- A record of gangs of 8 rows, its hold request made, held or refused; the first save-list entry is no member's. -/
def rec8 : LaunchRec := { rec1 with brows := 3, total := 1 }
def devTall (answer : Nat) : State :=
  { dev with board := [(0, rec8)], env := { Env.reset with core := 0 }, claims := if answer = 3 then [] else [(0, ⟨0, 1, 0, answer, none⟩)] }
theorem test_witness_holds :
    gangRows rec8 = 8 ∧ (firstOrigin 0 0 0 rec8 none (devTall 3)).isSome = true ∧ leadCore (devTall 3) 0 = some 0 ∧
    coreLive (devTall 3) 0 = true ∧ clusterOf 0 < 4 ∧ sfind (devTall 3).claims 0 = none := by decide +kernel
/-- The mirror's half free, and a core of it fenced; a gang of 8 rows whose members all stand reserved. -/
def devHeld : State :=
  match firstOrigin 0 0 0 rec8 none (devTall 3) with
  | some (_, _, s) => match reserveAt 0 0 rec8 none true (0, 0) s with
    | some (_, t) => { t with claims := [(0, ⟨0, 1, 0, 1, none⟩)] }
    | none => s
  | none => devTall 3
theorem test_witness_answers :
    (reserveAt 0 0 rec8 none true (0, 0) (devTall 0)).isSome = true ∧
    reserveAt 0 0 rec8 none true (0, 0) { devTall 0 with boot := { dev.boot with coresok := List.replicate 12 0 } } = none ∧
    (pendingMembers devHeld 0 0).length = 8 ∧
    (match nameGang 0 none (pendingMembers devHeld 0 0) { devHeld with claims := [] } with | .placed _ => true | _ => false) = true ∧
    ((sfind (devTall 2).claims 0).map fun h => h.answer) = some 2 := by decide +kernel
theorem test_witness_measure :
    (let s := { devRec with refclk := 1000000, fails := [⟨1, 0, some 0, 0, false⟩] }
     (scanOrder s).head? = some (0, rec1) ∧ ((failOf s 1 0).bind fun f => f.since) = some 0 ∧ 100000 ≤ s.refclk - 0) ∧
    ((reserve 1 rec1.desc 0 (wgId devRec 0 rec1 0 0) devRec).map fun e => e.1) = some (wkey 1 0) ∧ rec1.total ≤ 2 := by decide +kernel

/-- Contention with another context's record; a core that waits for its pass; a full save pool; a workgroup that is done. -/
def devContended : State :=
  { devSlice with board := [(0, rec1), (1, { rec1 with asid := 2 })], ctxs := dev.ctxs ++ [(2, ctx1)], fails := [⟨1, 1, none, devSlice.refclk, false⟩] }
def devFull : State :=
  { devSlice with images := [(poolBase, { saveImage devSlice (wkey 1 0) probeWg with size := poolSize })] }
def devDone : State := { devSlice with groups := [] }
theorem test_witness_contention :
    ((sfind devContended.wgs (wkey 1 0)).map fun w => contended devContended 1 w) = some true ∧
    (ironOf { devSlice with irons := [(1, { IronSt.reset with phase := 1 })] } 1).phase = 1 ∧
    poolTakes devFull (wkey 1 0) = false ∧ mayRetire devDone (wkey 1 0) = true ∧ wgBuffers devDone (wkey 1 0) = false ∧
    ((sfind devDone.wgs (wkey 1 0)).map fun w => w.sbuf.isEmpty && !w.sw && !w.bonded) = some true ∧
    ((sfind devDone.wgs (wkey 1 0)).bind fun w => sfind devDone.board w.record).isSome = true ∧ rec1.done + 1 ≠ rec1.total ∧
    ({ rec1 with done := 1 } : LaunchRec).done + 1 = rec1.total ∧
    (drainFor { devSlice with drains := [⟨1, 0, none, 5000, false⟩] } (wkey 1 0)).isSome = true := by decide +kernel
theorem test_witness_passes :
    (let s := { dev with irons := [(3, { IronSt.reset with phase := 2 })] }
     (ironOf s 3).phase = 2 ∧ s.boot.ironEn = true ∧ (s.irons.all fun e => decide (e.2 ≠ IronSt.reset)) = true) ∧
    holdsGang { dev with leases := [leaseB] } 0 = true ∧ 2 ≤ ({ IronSt.reset with skips := 2 } : IronSt).skips := by decide +kernel

/-! ### Containment -/

theorem test_witness_lines :
    (let c := modCluster sC 0 fun c => { c with l2 := c.l2.map fun e => (e.1, { e.2 with dirty := 1 }) }
     ((sfind (clusterSt c 0).l2 (lineKey 1 0x1000)).map fun ln => (sectorsTouched ln.dirty).testBit 0) = some true) ∧
    ((sfind (clusterSt sC 0).l2 (lineKey 1 0x1000)).map fun ln => ln.dirty) = some 0 ∧
    (leaseOf sBond 0).isSome = true ∧
    ((sfind (modWg s0 (wkey 0 0) fun w => { w with restartable := true }).wgs (wkey 0 0)).map fun w =>
      !w.firmware && w.restartable && !w.committed && decide (w.attempt < 2)) = some true ∧
    ({ dev.boot with fatals := [(1, 2)] } : Boot).fatals = [(1, 2)] ∧ dev.kills = [] ∧
    (sfind ({ dev with quarantined := [(7, 1)] } : State).quarantined 7) = some 1 ∧ nsHas dev.retired 7 = false := by decide +kernel
theorem test_witness_pending :
    (let s := modGroup s0 (gkey 0 0) fun g => { g with recovery := 200000000 }
     ((sfind s.groups (gkey 0 0)).map fun g => decide (200000000 ≤ g.recovery)) = some true) := by decide +kernel

/-! ### Completion, selection -/

/-- A lane's wait whose condition has held, in a state where its operation stands. -/
def devWait : State :=
  let w : WaitRec := ⟨gkey 0 0, 9, 0, some 0, 1, 0x1000, 0, false, .eq, 7, 2, false, .v 8, some 7, 0⟩
  { modGroup sC (gkey 0 0) (fun g => { g with ops := [⟨9, 2, .waita false, 1, [vkey 8 0], [], [], false, []⟩] }) with
    waits := [w], env := { Env.reset with index := 9 } }
theorem test_witness_waits :
    (match devWait.waits.find? fun w => w.group == gkey 0 0 && w.op == 9 && w.lane == 0 && w.sat.isSome with
      | some w => w.sat == some 7 && !w.acq && !waitPoison devWait w
      | none => false) = true ∧ (agOf devWait (gkey 0 0)).isSome = true := by decide +kernel
/-- A copy command at its first of two segments, and past its last. -/
def entC (pos : Nat) : DmaEnt := ⟨⟨9, gkey 0 0, 1, wkey 0 0, .cpy copyWords 1⟩, none, pos, [], false⟩
def devCopy (pos : Nat) : State := { putDma sL 1 0 [entC pos] with env := { Env.reset with size := 1 } }
def entL (pos : Nat) : DmaEnt := ⟨⟨9, gkey 0 0, 1, wkey 0 0, .lxfer [0x10000, 0x20000, 128, 0x30000, 1, 0]⟩, none, pos, [], false⟩
theorem test_witness_commands :
    dmaOf (devCopy 0) 1 0 = [entC 0] ∧ dmaStopping (devCopy 0) (entC 0) = false ∧ cmdSegs (entC 0).cmd.cmd = 1 ∧
    (cmdWord (entC 0).cmd.cmd).1 = 0 ∧ (entC 1).pos = cmdSegs (entC 1).cmd.cmd ∧
    (runSeg (engOf 1 (entC 0)) (entC 0).cmd.cmd 0 (devCopy 0)).1 = .ok ∧ cmdSegs (entL 0).cmd.cmd ≠ 0 := by decide +kernel
theorem test_witness_clocks :
    (let s := { dev with sensors := [(63, 100)] }
     s.sensors.any fun x => x.1 / 64 == 0 && decide (100 ≤ x.2)) = true ∧ dev.sensors = [] ∧
    (clusterSt dev 0).stretches = 0 ∧ (mxOf dev 0).queue = [] ∧ (mxOf dev 0).rx = [] ∧
    (mxOf sHead 0).steps < (mxOf sHead 0).limit ∧
    (let s := modMx sHead 0 fun x => { x with steps := x.limit }
     (mxOf s 0).limit ≤ (mxOf s 0).steps ∧ (stepReady s 0).isSome = true) ∧
    (let c := modCore dev 0 fun c => { c with bankMode := setAt c.bankMode 15 0, bankFrom := [(15, 1)], owed := true }
     sfind (coreSt c 0).bankFrom 15 = some 1 ∧ (coreSt c 0).bankMode.getD 15 0 ≠ 1) := by decide +kernel

/-! ### Steps, conversions -/

/-- An engine whose partition has stalled: it watches, and one fetch of a command is to be replayed. -/
def sStalled (k : Nat) : State := modSw s0 0 fun x => { x with wg := some 0, run := 2, patch := [⟨.readStat, k, 0⟩] }
theorem test_witness_settled : (sStalled 0).troubles = [] ∧
    (∀ e ∈ (sStalled 0).sw, e.2.held = [] ∧ (e.2.run = 2 → ∀ p ∈ e.2.patch, p.kind = 0)) ∧
    (swOf (sStalled 0) 0).run = 2 ∧ (swOf (sStalled 0) 0).patch ≠ [] := by decide +kernel
/-- A step from memory in its canonical form, and the form after it. -/
theorem test_witness_canonical : MemCanonical sC ∧ sC.cores ≠ [] ∧
    (match step { sC with agenda := [.event .eventLostClear Env.reset] } with | .next _ => true | _ => false) = true := by
  refine ⟨⟨by decide +kernel, by decide +kernel⟩, by decide +kernel, by decide +kernel⟩

/-- 3 and -3/2 as integers and half-integers; 2^-20 as a power of two and of four. -/
theorem test_witness_exact :
    (-160 : Int) ≤ 0 ∧ (3 : Int) * 2 ^ ((0 : Int) + 160).toNat = 3 * 2 ^ 160 ∧ (-126 : Int) ≤ 3 ∧
    (-(140 : Int)) * 2 ^ ((0 : Int) + 160).toNat = -140 * 2 ^ 160 ∧
    (-(3 : Int)) * 2 ^ ((-1 : Int) + 160).toNat = (2 * (-2) + 1) * 2 ^ 159 ∧
    (-149 : Int) ≤ -40 + (20 : Nat) ∧ (-40 : Int) + (20 : Nat) = 2 * (-10) := by decide
theorem test_witness_integer_results :
    decodeTy (.fl .f32) 0x7FC00000 = .nan ∧ decodeTy (.fl .f32) 0xFF800000 = .inf true ∧ decodeTy (.nat 8) 200 = .fin false 200 0 ∧
    decodeTy (.fl .f32) 0xC0200000 = .fin true 10485760 (-22) ∧ 2 * (-(10485760 : Int) - -2 * 2 ^ 22) = -(2 ^ 22) ∧
    decodeTy (.fl .e5m2) 0xFC = .inf true ∧ (Ty.fl .f32) ≠ .fl .e5m2 ∧ decodeTy (.fl .e4m3) 0x7F = .nan ∧
    ([FFmt.f64, .f32, .tf32, .bf16, .f16, .e5m2, .e4m3, .e3m2, .e2m3, .e2m1].all fun f => decodeTy (.fl f) 1 != .nan) = true := by
  decide +kernel
/-- Scale words: E = 255, a zero scale, an enabled spare of 9/8 with scale 1, and the value that only code 8 encodes there. -/
theorem test_witness_blocks :
    (0xFF000000 : W32).toNat / 2 ^ 24 = 255 ∧ (0x00000390 : W32).toNat / 2 ^ 24 = 0 ∧ (0x00000390 : W32).toNat / 2 ^ 12 % 2 ^ 12 = 0 ∧
    (0x7F000390 : W32).toNat / 2 ^ 4 % 2 ^ 8 % 128 ≠ 0 ∧ decodeBlock .e2m1 true 0x7F000390 8 ≠ .nan ∧
    ((List.range 16).all fun c => c == 8 || fpCmp (decodeBlock .e2m1 true 0x7F000390 c) (decodeBlock .e2m1 true 0x7F000390 8) != .eq)
      = true ∧
    decodeF .e5m2 0x7C = .inf false ∧ decodeF .e4m3 0x7F = .nan ∧ decodeF .e2m1 7 ≠ .nan := by
  decide +kernel

/-! ### Memory -/

theorem test_witness_own : onCx sC (fun cx => !onPeer sC (agCx cx sC) 0x1000 && cx.w.sbuf.isEmpty) = true := by decide +kernel
/-- A hint of lane 0 in a held range, at a line without R permission, and at one that it may keep. -/
def sHint (held r : Bool) : State :=
  let s := modRun sC (rkey 0 0) fun r => { r with lanes := 1 }
  let t := modCluster s 0 fun c => { c with l2 := c.l2.map fun e => (e.1, { e.2 with r := r }) }
  { t with holds := if held then [⟨1, 0, 65536⟩] else [] }
theorem test_witness_hint_dropped :
    onCx (sHint true true) (fun cx => lanesOf cx.run.lanes == [0] && (in64 cx (sHint true true) (.s 4) 0).toNat == 0x1000) = true ∧
    heldBy (sHint true true) 1 0x1000 ≠ none ∧ ((l2Line (sHint false false) 0 1 0x1000).map fun ln => ln.r) = some false ∧
    heldBy (sHint false true) 1 0x1000 = none ∧ ((l2Line (sHint false true) 0 1 0x1000).map fun ln => ln.r) = some true ∧
    ([sHint true true, sHint false false].all fun s =>
      ready { unit := 1, ops := (Opnd.z, Role.unused) :: addrForm true ⟨.z, .s 4, .z, .imm 0⟩ } h15 s) = true := by decide +kernel

/-! ### Engine commands -/

/-- A matrix-side run of 8 bytes: lane 0 reads and writes past it. -/
def sShort : State := modWg sL (wkey 0 0) fun w => { w with msLen := 8 }
theorem test_witness_outside :
    ready { unit := 2, fcls := .res, ops := [(.v 8, .dst 2 true false), (.v 1, .src 1 false), (.z, .unused), (.z, .unused)] } h2 sShort
      = true ∧
    ready { unit := 2, fcls := .opt, ops := [(.v 2, .src 2 false), (.v 1, .src 1 false), (.z, .unused), (.z, .unused)] } h15 sShort
      = true ∧
    onCx sShort (fun cx => cx.run.lanes.getLsbD 0 && decide (cx.w.msLen < (in32 cx sShort (.v 1) 0).toNat + 4) &&
      (lanesOf cx.run.lanes).all fun l => decide (max 5 cx.w.msLen ≤ max (in32 cx sShort (.v 1) l).toNat cx.w.msLen)) = true := by
  decide +kernel
/-- A full window for the matrix engine, in a bond. -/
def fullWindow (s : State) (e : Nat) : State :=
  modGroup s (gkey 0 0) fun g =>
    { g with window := (List.range 4).map fun k => ⟨e, true, 0, 1, ⟨k, gkey 0 0, 1, wkey 0 0, .bondRel⟩⟩ }
theorem test_witness_bond_full :
    onCx (fullWindow sBond 0) (fun cx => windowFull cx 0) = true ∧ bondLegal (fullWindow sBond 0) 0 = some leaseB ∧
    ready { unit := 2, fcls := .opt, ops := [(.z, .unused), (.z, .unused), (.z, .unused)] } h2 (fullWindow sBond 0) = true := by
  decide +kernel

/-- Sweep engines at whose state a command raises, and at whose it does not. -/
def sSweep (f : SwSt → SwSt) : State := modSw (sDec 1) 0 f
def batch0 : Batch := ⟨gkey 0 0, 0, (List.range 32).map fun l => (l, l), 0⟩
theorem test_witness_sweep_raises :
    ([sSweep fun x => { x with declOut := 2 }, sSweep fun x => { x with started := false, run := 1, dec := 0 },
      sSweep fun x => { x with started := false, run := 2, dec := 0 }].all fun s =>
      ready (swForm .opt [(.z, .unused), (.s 4, .src 2 true), (.s 6, .src 2 true), (.z, .unused)]) h15 s &&
      onCx s fun cx => cx.w.sw && !windowFull cx 2) = true ∧
    (swOf (sSweep fun x => { x with started := false, run := 2, dec := 1 }) 0).dec ≠ 0 ∧
    ([sSweep fun x => { x with started := false }, sSweep fun x => { x with batches := [batch0] },
      sSweep fun x => { x with groups := [1, 2, 3, 4] }].all fun s =>
      ready (swForm .res [(.v 8, .out true 4 0), (.s 12, .out false 1 511), (.z, .unused), (.z, .unused)]) h2 s &&
      onCx s fun cx => cx.w.sw && !windowFull cx 2 &&
        (!(swOf s 0).started || holdsElem cx (swOf s 0) || !(swOf s 0).groups.contains cx.gk)) = true ∧
    onCx (sDec 1) (fun cx => cx.g.ops.isEmpty && cx.g.window.isEmpty && !holdsElem cx (swOf (sDec 1) 0) && swRoom (sDec 1) 0 &&
      (swOf (sDec 1) 0).groups.contains cx.gk) = true ∧ (swOf (sDec 1) 0).run ≠ 3 := by decide +kernel
/-- A commit in lanes that hold nothing; in lanes that hold elements 0 to 31, with words whose kind is and is not 3. -/
def sBatch : State := sSweep fun x => { x with batches := [batch0] }
theorem test_witness_commits :
    ready (swForm .opt [(.z, .unused), (.v 1, .src 1 false), (.z, .unused), (.z, .unused)]) h15 sBatch = true ∧
    onCx (sDec 1) (fun cx => lanesElem cx (swOf (sDec 1) 0) 0 == none && cx.run.lanes.getLsbD 0) = true ∧
    onCx sBatch (fun cx => (lanesOf cx.run.lanes).all fun l => lanesElem cx (swOf sBatch 0) l == some l) = true ∧
    (0 : Nat) / 2 ^ 21 % 8 ≠ 3 ∧ (3 * 2 ^ 21 : Nat) / 2 ^ 21 % 8 = 3 ∧
    onCx sBatch (fun cx => decide (batch0.group = cx.gk) && cx.g.ops.isEmpty && !batch0.sent.getLsbD 31 &&
      batch0.lanes.find? (fun e => e.1 == 31) == some (31, 31)) = true := by decide +kernel
/-- SWWAKE of indexes 0 and 5 of a declaration of 4 elements; of 0 and 1 of it. -/
theorem test_witness_wakes :
    ready (swForm .opt [(.z, .unused), (.s 4, .src 2 true), (.v 1, .src 1 false), (.z, .unused)]) h15 (sDec 1) = true ∧
    onCx (sDec 1) (fun cx => cx.run.lanes.getLsbD 0 && decide (swCount decl4 ≤ (in32 cx (sDec 1) (.v 1) 0).toNat) &&
      decide (decl4.blk = (in64 cx (sDec 1) (.s 4) 0).toNat % 2 ^ 57) &&
      (lanesOf cx.run.lanes).all fun l => decide ((in32 cx (sDec 1) (.v 3) l).toNat < swCount decl4)) = true := by decide +kernel

/-! ### Heat, apertures, ports, requests, claims -/

theorem test_witness_heat :
    (∃ e ∈ ([(5, 115)] : List (Nat × Nat)), 115 ≤ e.2) ∧ (∀ e ∈ ([(5, 114), (63, 100)] : List (Nat × Nat)), e.2 < 115) := by decide
/-- A page at 2^30 that lies in peer 3, which no port, a port in recovery and a port that is up lead to. -/
def devFar (st : Option Nat) : State :=
  { dev with
    mem := putBytes dev.mem 0x3008 (leBytes 8 (2 ^ 51 + 3 * 2 ^ 40 + 0x1F))
    routes := if st = none then [] else [(3, nsAdd [] 0)]
    ports := match st with | some k => [(0, { Port.reset with state := k })] | none => [] }
theorem test_witness_far :
    ([Access.read, .write].all fun a => (hostLeaf 1 (2 ^ 30) a (devFar none)).1 == .lost &&
      (hostLeaf 1 (2 ^ 30) a (devFar (some 3))).1 == .wait &&
      match (hostLeaf 1 (2 ^ 30) a (devFar (some 2))).1 with | .leaf _ => true | _ => false) = true ∧
    heldBy (devFar none) 1 (2 ^ 30) = none ∧
    ((translate (devFar (some 3)) 1 (2 ^ 30) .read).1.toOption).isSome = true := by decide +kernel

/-- Two flits in the window, sequences 5 and 6; acknowledgements and data flits that take 5 out. -/
def twoPort (r : Option Nat) : Port :=
  { upPort with window := upPort.window ++ [⟨6, 1, 0, 0, [], false, 0, [], none⟩], nextSeq := 7, resend := r }
theorem test_witness_acknowledged :
    ([5 * 2 ^ 40, 4 * 2 ^ 36 + 5 * 2 ^ 40, 2 ^ 36 + 5 * 2 ^ 40, 2 ^ 36 + 5 * 2 ^ 40 + 9 * 2 ^ 52].all fun h =>
      flitSound (flitOf h) && field (bytesAt (flitOf h) 0 8) 40 12 == 5) = true ∧
    (let place (p : Port) (x : Nat) := firstBelow p.window.length fun j => (p.window[j]?.map fun f => f.seq) == some x
     place (twoPort none) 5 = some 0 ∧ place (twoPort (some 6)) 5 = some 0 ∧ (twoPort (some 6)).resend.bind (place (twoPort (some 6))) = some 1 ∧
       (twoPort (some 5)).resend.bind (place (twoPort (some 5))) = some 0 ∧ place (twoPort (some 5)) 6 = some 1 ∧
       place (twoPort (some 5)) 9 = none) ∧
    (let s := devPort (twoPort none) { Env.reset with flag := true }
     s.ckpt.busy = false ∧ s.ckpt.parts = [] ∧ s.parked = [] ∧ s.wgs = [] ∧ s.sw = [] ∧ s.retries = [] ∧ s.hostReads = [] ∧
       (portOf s 17).outq = []) ∧
    (portOf (devPort { twoPort none with discarding := true } Env.reset) 17).discarding = true ∧
    (portOf (devPort { upPort with state := 3 } Env.reset) 17).state ≠ 2 := by decide +kernel

theorem test_witness_walks :
    (match (walk dev 1 0x40 4 0x1000 []).1 with | .ok _ => true | _ => false) = true ∧
    ((walk dev 1 (2 ^ 30) 4 0x1000 []).1.toOption.isNone) = true ∧
    (match (walk { dev with poison := nsAdd [] (0x3000 / 32) } 1 0x40 4 0x1000 []).1 with
      | .error x => decide (x.kind = 0) | _ => false) = true ∧
    ((ctxOf dev 1).map fun c => c.root) = some 0x1000 ∧ (sfind dev.queues 5) = some q5 ∧
    (BitVec.ofNat 64 (5 + 2 ^ 63)).toNat.testBit 63 = true ∧
    unread { dev with mem := putBytes dev.mem 0x20000 (leBytes 8 1) } 5 = true ∧ unread dev 5 = false := by decide +kernel
theorem test_witness_claims_gone :
    (let s : State := { devTall 1 with board := [] }
     ((sfind s.claims 0).map fun h => (sfind s.board h.record).isNone) = some true) ∧
    untaken { rec1 with ticket := 2 } = false ∧ savesOf devRec 0 = [] ∧
    (scanOrder { devRec with board := [(0, { rec1 with ticket := 2 })] }).map (fun e => e.1) = [0] ∧ untaken rec1 = true := by
  decide +kernel

/-! ### Completion -/

/-- The engine's own data in the lowest GiB, which context 1's page table maps: a partition of one element. -/
def declL : SwDecl :=
  { decl4 with blk := 0x4000, cbase := 0x5000, watch := 0x6000, ptab := 0x7000, dstat := 0x8000, wplane := 0x9000, ext := [1, 1, 1], count := 1 }
def words8 (m : List Host.Cell) (ws : List (Nat × Nat)) : List Host.Cell := ws.foldl (fun m e => putBytes m e.1 (leBytes 8 e.2)) m
/-- Its sweep under way with element 0 watched; its plane says that element 0 is to be woken, or the domain is decided. -/
def sLive (run plane ctx dst : Nat) (f : SwSt → SwSt) : State :=
  let s := { sL with ctxs := dev.ctxs, mem := words8 dev.mem [(0x5000, ctx), (0x6000, 0xB000), (0x6008, 5), (0x8000, dst), (0x9000, plane), (0xB000, 5)] }
  let t := modCore s 0 fun c => { c with sp := putBytes (putBytes c.sp 65536 [1]) (65536 + 128) [1] }
  modSw t 0 fun x => f { x with wg := some 0, declOk := true, started := true, run := run, decl := some declL, groups := [gkey 0 0], waddr := 0xA000 }
def wake0 : Notice := ⟨0, ⟨domOf declL, 0, 0x9000, 0, gkey 0 0, 0⟩⟩
def sWoken (run : Nat) : State := sLive run 1 (3 * 2 ^ 21) 0 fun x => { x with notices := [wake0] }
theorem test_witness_wakes_taken :
    ([1, 2].all fun run =>
      let s := sWoken run
      let r := swRmw (swEng s 0) .atomic (declL.wplane % 2 ^ 57) 8 (fun _ => some 0) s
      let c := readCtx (swEng r.2.1 0) declL 0 r.2.1
      (swOf s 0).notices == [wake0] && (swOf s 0).starting.isNone && (swOf s 0).decl == some declL && (swOf s 0).run == run &&
        r.1 == .ok && r.2.2 == 1 && !runDecided r.2.1 0 declL && !inBatch (swOf r.2.1 0) 0 && mapBit r.2.1 0 declL false 0 &&
        c.1 == .ok && c.2.2 / 2 ^ 21 % 8 == 3) = true ∧
    wake0.wake.dom = domOf declL ∧ wake0.wake.part = declL.part ∧ declL.count ≤ 64 ∧ (swOf (sLive 1 0 0 0 id) 0).notices = [] := by
  decide +kernel
/-- A watched element whose slot has what it waits for, and one whose slot has not. -/
def sWatch (run n : Nat) : State := { sLive run 0 (2 * 2 ^ 21) 0 id with mem := words8 (sLive run 0 (2 * 2 ^ 21) 0 id).mem [(0xB000, n)] }
theorem test_witness_watches :
    ([4, 5].all fun n =>
      let z := modSw (sWatch 2 n) 0 fun x => { x with satisfied := [] }
      let c := readCtx (swEng z 0) declL 0 z
      let b := slotDone (swEng c.2.1 0) declL (c.2.2 / 2 ^ 13 % 256) c.2.1
      mapBit z 0 declL false 0 && mapBit z 0 declL true 0 && c.1 == .ok && (swOf c.2.1 0).patch.isEmpty && b.1 == .ok &&
        b.2.2 == decide (5 ≤ n)) = true ∧
    (swOf (sWatch 2 5) 0).run = 2 ∧ runDecided (sWatch 2 5) 0 declL = false ∧ (swOf (sWatch 2 5) 0).patch = [] ∧
    (swOf (sWatch 1 5) 0).run ≠ 2 ∧ swStopping (sWatch 2 5) 0 = false ∧
    mapBit (modCore (sWatch 2 5) 0 fun c => { c with sp := [] }) 0 declL false 0 = false := by decide +kernel
/-- A partition told of a decision: the domain is decided with every partition done, or it is not decided. -/
def sTold (dst : Nat) : State := sLive 1 0 0 dst fun x => { x with told := true }
theorem test_witness_told :
    (let s := sTold (2 ^ 63 + 1)
     let r := swRmw (swEng s 0) .atomic declL.dstat 8 (fun _ => none) s
     let u1 := acquireScope r.2.1 0 (swEng r.2.1 0).asid 4
     let u2 := modSw u1 0 fun x => { x with dec := 1 }
     let w := swRmw (swEng u2 0) .write (swOf s 0).waddr 8 (fun _ => some (1 * 2 ^ 62 + (swOf s 0).cval))
       (releaseScope u2 0 (swEng u2 0).asid 4)
     (swOf s 0).told = true ∧ (swOf s 0).dec = 0 ∧ r.1 = .ok ∧ r.2.2.testBit 63 = true ∧ r.2.2 % 2 ^ 16 = declL.pcount ∧
       swOf u1 0 = swOf s 0 ∧ w.1 = .ok ∧ swOf w.2.1 0 = swOf u2 0) ∧
    (let r := swRmw (swEng (sTold 0) 0) .atomic declL.dstat 8 (fun _ => none) (sTold 0)
     r.1 = .ok ∧ r.2.2.testBit 63 = false) ∧
    (swOf (sLive 1 0 0 0 id) 0).told = false := by decide +kernel
/-- A pull that the engine holds while its operation is looked at. -/
theorem test_witness_pull_completes :
    (let s := { sLive 1 0 0 0 fun x => { x with pulls := [⟨9, gkey 0 0, 1, wkey 0 0, .swpull (.v 8) (.s 12) 1⟩] } with env := { Env.reset with index := 9 } }
     let t := modGroup s (gkey 0 0) fun g => { g with ops := [⟨9, 2, .engine 2 1, 1, [], [], [], false, []⟩] }
     let u := settleSweep 0 (takeNotices 0 t)
     (∃ c ∈ (swOf t 0).pulls, c.group = gkey 0 0 ∧ c.op = t.env.index) ∧ (sfind u.groups (gkey 0 0)).isSome = true ∧
       (findOp u (gkey 0 0) 9).isSome = true) := by decide +kernel

/-- A load that stands at the core, NAKed, of the line that the L1 holds. -/
def nakLoad : Parked := ⟨gkey 0 0, 9, .load .b32 (.v 8), [⟨0, 0x1000, [], 0⟩], 1, 0, 0, .nak⟩
def sNak : State :=
  { modGroup sC (gkey 0 0) (fun g => { g with ops := [⟨9, 2, .access, 1, [vkey 8 0], [], [], false, []⟩] }) with parked := [nakLoad] }
theorem test_witness_nak_resend :
    (match agOf sNak (gkey 0 0) with
      | some a =>
        let r := tryAccess { a with clause := nakLoad.clause } nakLoad.op nakLoad.acc nakLoad.lanes { sNak with parked := [{ nakLoad with lanes := [] }] }
        r.left.isEmpty && decide (r.eaten = none) && r.st.parked == [{ nakLoad with lanes := [] }]
      | none => false) = true ∧
    (let u : State := { sNak with parked := [] }
     u.waits = [] ∧ ((findOp u (gkey 0 0) 9).map fun o => decide (o.flag ≠ 15)) = some true) := by decide +kernel
/-- A window of one command for the copy unit, which has room, has none, or is behind a fence. -/
def oneWindow (e : Nat) (ops : List POp) (s : State) : State :=
  modGroup s (gkey 0 0) fun g => { g with ops := ops, window := [⟨e, true, 0, 1, ⟨9, gkey 0 0, 1, wkey 0 0, .cpy copyWords 1⟩⟩] }
def fullQueue : State := putDma sL 1 0 ((List.range 32).map fun k => ⟨⟨k, gkey 0 0, 1, wkey 0 0, .cpy copyWords 1⟩, none, 0, [], false⟩)
theorem test_witness_engine_resend :
    ((sfind sL.groups (gkey 0 0)).map fun g => (windowOf g 1).isEmpty) = some true ∧
    ((sfind (oneWindow 1 [] sL).groups (gkey 0 0)).map fun g => !pathHeld g 1 9 && (g.window.map fun w => w.engine) == [1]) = some true ∧
    engRoom (oneWindow 1 [] sL) 0 1 = true ∧ engRoom (oneWindow 1 [] fullQueue) 0 1 = false ∧
    ((sfind (oneWindow 1 [⟨3, 2, .fenceX 0 1, 0, [], [], [], false, []⟩] sL).groups (gkey 0 0)).map fun g => pathHeld g 1 9) = some true := by
  decide +kernel
/-- A member of a bond whose head operation meets a slice of another shape, and one whose tokens agree. -/
def sOther : State :=
  let s := match exec (.mma h2 ⟨.z, .s 32, .z, .z⟩) sBond with | .next t => t | _ => sBond
  modMx s 0 fun x => { x with rx := [mkToken 0 0 0 0 0 (List.replicate 32 1) [] [9, 9, 9]] }
theorem test_witness_shapes :
    (otherShape sOther 0).isSome = true ∧ (otherShape sHead 0).isNone = true := by decide +kernel
/-- A write of a command that its peer has not acknowledged. -/
def unackedPort (x : DmaEnt) (e : Nat) : Port :=
  { upPort with window := [⟨5, 1, 2, 1, [], false, 0, [], some ⟨1, 0, 0, 0, false, some (dmaName e x)⟩⟩] }
theorem test_witness_unacked :
    ([1, 3].all fun e => let x := if e = 1 then entC 1 else entL 1
      unacked { devCopy 1 with ports := [(0, unackedPort x e)] } (dmaName e x) && !unacked (devCopy 1) (dmaName e x)) = true := by
  decide +kernel
/-- A copy and a link transfer of two segments at their first: their sources straddle a boundary of 4 KiB. -/
def segC : DmaEnt := ⟨⟨9, gkey 0 0, 1, wkey 0 0, .cpy (setAt copyWords 1 4088) 1⟩, none, 0, [], false⟩
def segL : DmaEnt := ⟨⟨9, gkey 0 0, 1, wkey 0 0, .lxfer [0x10FC0, 0x20000, 128, 0x30000, 1, 0]⟩, none, 0, [], false⟩
def sSegs : State :=
  putDma (putDma { modWg sL (wkey 0 0) fun w => { w with scratchLen := 8192 } with ctxs := dev.ctxs, mem := dev.mem, env := { Env.reset with size := 1 } } 1 0 [segC]) 3 0 [segL]
theorem test_witness_segments :
    dmaOf sSegs 1 0 = [segC] ∧ dmaOf sSegs 3 0 = [segL] ∧ dmaStopping sSegs segC = false ∧ dmaStopping sSegs segL = false ∧
    segC.pos + 1 < cmdSegs segC.cmd.cmd ∧ segL.pos + 1 < cmdSegs segL.cmd.cmd ∧ sSegs.env.size = 1 ∧ sSegs.env.index = 0 ∧
    (runSeg (engOf 1 segC) segC.cmd.cmd 0 sSegs).1 = .ok ∧ (runSeg (engOf 3 segL) segL.cmd.cmd 0 sSegs).1 = .ok := by decide +kernel

/-! ### Clocks and selection -/

/-- The firmware slot and two groups of quarter 0; the group in slot 4 waits longer. -/
def devPick : State :=
  let g (n age : Nat) : Group := { newGroup 0 n 0 (0, 0x4000, 32) with waitAge := age }
  { devSel with groups := sset (sset devSel.groups (gkey 0 0) (g 0 3)) (gkey 0 4) (g 0 7), wgs := sset devSel.wgs (wkey 0 0) { probeWg with slots := [0, 1, 4] } }
theorem test_witness_choice :
    (quarterGroups devPick 0 0) = [gkey 0 0, gkey 0 4] ∧ (quarterGroups devPick 0 0).Pairwise (· < ·) ∧
    ((quarterGroups devPick 0 0).all fun k => (attempt k { devPick with tick := 1 }).1) = true ∧
    waitAgeOf devPick (gkey 0 0) < waitAgeOf devPick (gkey 0 4) ∧ (attempt (gkey 0 fwSlot) devPick).1 = false ∧
    sfind devPick.runs (rkey 0 0) = none ∧ (quarterGroups devPick 0 3) = [] ∧
    (sfind s0.runs (rkey 0 0)).isSome = true ∧ dev.evring.owed = false ∧ (clusterSt dev 0).droop = false ∧
    (clusterSt (modCluster dev 0 fun c => { c with droop := true }) 0).droop = true := by decide +kernel

end Sys2Proof.Tests
end

section
/-! PROOFS. The host's registers (R6, R495), the apertures (R15, R16) and what reset leaves. -/

namespace Sys2Proof.Proofs

open Machine

/-! ### Little-endian bytes and masked bits -/

@[simp] theorem length_leBytes (n x : Nat) : (leBytes n x).length = n := by
  induction n generalizing x with
  | zero => rfl
  | succ n ih => simp [leBytes, ih]

theorem ofLeBytes_leBytes (n x : Nat) (h : x < 2 ^ (8 * n)) : ofLeBytes (leBytes n x) = x := by
  induction n generalizing x with
  | zero => simp only [leBytes, ofLeBytes]; omega
  | succ n ih =>
    rw [Nat.mul_add, Nat.pow_add] at h
    simp only [leBytes, ofLeBytes, BitVec.toNat_ofNat]
    rw [ih _ (by omega)]
    omega

theorem modAt_eq_setAt {α : Type} (l : List α) (k : Nat) (f : α → α) (y : α) (h : ∀ x, f x = y) :
    modAt l k f = setAt l k y := by
  induction l generalizing k with
  | nil => rfl
  | cons x l ih => cases k <;> simp [modAt, setAt, h, ih]

/-- A write of all bits of a register leaves nothing of its old value. -/
theorem mergeBits_whole {n old : Nat} (x : Nat) (h : old < 2 ^ n) : mergeBits old x (2 ^ n - 1) = x := by
  rw [mergeBits, Nat.and_two_pow_sub_one_eq_mod, Nat.mod_eq_of_lt h]; omega

/-- The bit above all others of a number of `n + 1` bits, alone. -/
theorem and_topBit {n x : Nat} (h : x < 2 ^ (n + 1)) : x &&& 2 ^ n = 2 ^ n * (x / 2 ^ n) := by
  apply Nat.eq_of_testBit_eq
  intro i
  rw [Nat.testBit_and, Nat.testBit_two_pow, Nat.testBit_two_pow_mul, Nat.testBit_div_two_pow]
  obtain hlt | rfl | hgt := Nat.lt_trichotomy i n
  · rw [decide_eq_false (by omega : ¬n = i), decide_eq_false (by omega : ¬n ≤ i), Bool.and_false, Bool.false_and]
  · rw [decide_eq_true rfl, decide_eq_true (Nat.le_refl i), Nat.sub_add_cancel (Nat.le_refl i), Bool.and_true, Bool.true_and]
  · have hi : x < 2 ^ i := Nat.lt_of_lt_of_le h (Nat.pow_le_pow_right (by decide) hgt)
    rw [Nat.sub_add_cancel (Nat.le_of_lt hgt), Nat.testBit_lt_two_pow hi, Bool.false_and, Bool.and_false]

theorem and_aperMask {x : Nat} (h : x < 2 ^ 64) : x &&& aperMask = x % 2 ^ 57 + x / 2 ^ 63 * 2 ^ 63 := by
  have hsplit : x &&& aperMask = x &&& 2 ^ 63 ||| x &&& (2 ^ 57 - 1) := by
    rw [← Nat.and_or_distrib_left]; rfl
  have hlow : x &&& (2 ^ 57 - 1) < 2 ^ 63 := by rw [Nat.and_two_pow_sub_one_eq_mod]; omega
  rw [hsplit, and_topBit h, ← Nat.two_pow_add_eq_or_of_lt hlow, Nat.and_two_pow_sub_one_eq_mod, Nat.add_comm, Nat.mul_comm]

/-! ### Which register a write reaches -/

theorem regOf_request : ∀ i, i < 8 → regOf (0x40000 + 8 * i) = some (0x40000 + 8 * i, 8) := by decide
theorem regOf_featacc : ∀ n, n < 4 → regOf (0x110 + 4 * n) = some (0x110 + 4 * n, 4) := by decide
theorem regOf_apercfg : ∀ n, n < 16 → regOf (0x20000 + 16 * n) = some (0x20000 + 16 * n, 8) := by decide

/-- A write of the first bytes of a register, or of all of it, is a write of that register alone. -/
theorem bar0Write_register {s : State} {off size : Nat} {bs : List Byte} (hup : endpointUp s = true)
    (hfull : bar0Full s = true) (hreg : regOf off = some (off, size)) (hne : bs ≠ []) (hsize : bs.length ≤ size) :
    bar0Write off bs s = writeReg off (ofLeBytes bs) (2 ^ (8 * bs.length) - 1) s := by
  obtain ⟨b, bs, rfl⟩ := List.exists_cons_of_ne_nil hne
  have hn : min (b :: bs).length (off + size - off) = (b :: bs).length := by omega
  simp only [bar0Write, hup, hfull, Bool.not_true, Bool.false_eq_true, if_false, Bool.true_or, if_true]
  rw [List.length_cons, bar0Put, hreg]
  simp only [hn, List.take_length, List.drop_length, Nat.sub_self, Nat.mul_zero, Nat.pow_zero, Nat.mul_one, bar0Put]
  rfl

/-- Bytes at offsets with no register are ignored (R495). -/
theorem bar0Put_noRegister (fuel : Nat) {off : Nat} {bs : List Byte} (s : State)
    (h : ∀ k, k < bs.length → regOf (off + k) = none) : bar0Put fuel off bs s = s := by
  induction bs generalizing fuel off with
  | nil => cases fuel <;> rfl
  | cons b bs ih =>
    cases fuel with
    | zero => rfl
    | succ fuel =>
      have h0 : regOf off = none := h 0 (by simp)
      have hrest : ∀ k, k < bs.length → regOf (off + 1 + k) = none := fun k hk => by
        rw [Nat.add_assoc, Nat.add_comm 1]; exact h (k + 1) (by simpa using hk)
      simpa only [bar0Put, h0] using ih fuel hrest

theorem bar0Write_noRegister {s : State} {off : Nat} {bs : List Byte} (hup : endpointUp s = true)
    (hfull : bar0Full s = true) (h : ∀ k, k < bs.length → regOf (off + k) = none) : bar0Write off bs s = s := by
  simp only [bar0Write, hup, hfull, Bool.not_true, Bool.false_eq_true, if_false, Bool.true_or, if_true,
    bar0Put_noRegister _ s h]

theorem bar0Full_of_phase {s : State} (h : s.boot.phase = 5 ∨ s.boot.phase = 6) : bar0Full s = true := by
  simpa [bar0Full] using h

/-! ### What a register does with the bits written -/

theorem writeReg_request {i : Nat} (x m : Nat) (s : State) (hi : i < 8) : writeReg (0x40000 + 8 * i) x m s =
    if s.mailbox.go then s
    else { s with mailbox := { s.mailbox with
      req := modAt s.mailbox.req i fun v => BitVec.ofNat 64 (mergeBits v.toNat x m) } } := by
  have hk : (0x40000 + 8 * i - 0x40000) / 8 = i := by omega
  simp (disch := omega) only [writeReg, if_neg, if_pos, hk]

theorem writeReg_featacc {n : Nat} (x m : Nat) (s : State) (hn : n < 4) : writeReg (0x110 + 4 * n) x m s =
    if s.boot.featlock then s
    else { s with featacc := modAt s.featacc n fun v => BitVec.ofNat 32 (mergeBits v.toNat x m) } := by
  have hk : (0x110 + 4 * n - 0x110) / 4 = n := by omega
  simp (disch := omega) only [writeReg, if_neg, if_pos, hk]

theorem writeReg_apercfg {n : Nat} (x m : Nat) (s : State) (hn : n < 16) : writeReg (0x20000 + 16 * n) x m s =
    { s with boot := { s.boot with
      apercfg := modAt s.boot.apercfg n fun v => BitVec.ofNat 64 (mergeBits v.toNat x m &&& aperMask) } } := by
  have hk : (0x20000 + 16 * n - 0x20000) / 16 = n := by omega
  simp (disch := omega) only [writeReg, if_neg, if_pos, hk]

/-- A request begins when GO is written 1 (R54, R57). -/
theorem writeDrvcmd_go {x : Nat} {s : State} (hgo : s.mailbox.go = false) (hop : s.mailbox.op < 256)
    (hx : x.testBit 31 = true) : writeDrvcmd x (2 ^ 32 - 1) s =
      { s with mailbox := { s.mailbox with op := x % 256, go := true, copy := s.mailbox.req, outcome := none } } := by
  have hm : mergeBits s.mailbox.op (x % 256) ((2 ^ 32 - 1) % 256) = x % 256 := mergeBits_whole (n := 8) _ hop
  simp only [writeDrvcmd, hgo, hm, hx, Bool.false_eq_true, if_false, if_true]

/-- A write of IRONCTL while no core is ironed (R151, R152). -/
theorem writeIronctl_idle {x : Nat} {s : State} (hirons : s.irons = []) (hper : s.boot.ironPeriod < 1024) :
    writeIronctl x (2 ^ 32 - 1) s =
      { s with boot := { s.boot with ironEn := x.testBit 31, ironPeriod := x % 1024 } } := by
  have hold : bit1 s.boot.ironEn 31 + s.boot.ironPeriod < 2 ^ 32 := by
    unfold bit1; split <;> omega
  obtain ⟨⟩ := s
  simp only at hirons hold
  subst hirons
  simp only [writeIronctl, mergeBits_whole _ hold, writeIronEn, clearTables, List.map_nil, ite_self, List.filterMap_nil]

/-! ### The events that write registers -/

theorem exec_registerWrite (s : State) : exec .registerWrite s = .next (bar0Write s.env.addr s.env.bytes s) := rfl
theorem exec_eventConsumerWrite (s : State) :
    exec .eventConsumerWrite s = .next (bar0Write 0x40058 (leBytes 8 s.env.value) s) := rfl
theorem exec_eventLostClear (s : State) : exec .eventLostClear s = .next (bar0Write 0x40060 (leBytes 4 (2 ^ 31)) s) := rfl
theorem exec_ceCountClear (s : State) : exec .ceCountClear s = .next (bar0Write 0x50008 (leBytes 4 (2 ^ 31)) s) := rfl
theorem exec_ironctlWrite (s : State) :
    exec .ironctlWrite s = .next (bar0Write 0x50010 (leBytes 4 s.env.value) s) := rfl
theorem exec_apercfgWrite {s : State} (h : s.env.index < 16) :
    exec .apercfgWrite s = .next (bar0Write (0x20000 + 16 * s.env.index) (leBytes 8 s.env.value) s) :=
  congrArg Host.Outcome.next (if_pos h)

section
variable {s : State} (hup : endpointUp s = true) (hph : s.boot.phase = 5 ∨ s.boot.phase = 6)
include hup hph

/-- A number written over the whole of a register of `n` bytes. -/
theorem bar0Write_leBytes {off n v : Nat} (hreg : regOf off = some (off, n)) (hn : 0 < n) (hv : v < 2 ^ (8 * n)) :
    bar0Write off (leBytes n v) s = writeReg off v (2 ^ (8 * n) - 1) s := by
  have hne : leBytes n v ≠ [] := List.ne_nil_of_length_pos (by simpa using hn)
  rw [bar0Write_register hup (bar0Full_of_phase hph) hreg hne (by simp), ofLeBytes_leBytes n v hv, length_leBytes]

/-- Bytes written over the whole of a register. -/
theorem bar0Write_bytes {off n : Nat} {bs : List Byte} (hreg : regOf off = some (off, n)) (hn : 0 < n)
    (hbs : bs.length = n) : bar0Write off bs s = writeReg off (ofLeBytes bs) (2 ^ (8 * n) - 1) s := by
  rw [bar0Write_register hup (bar0Full_of_phase hph) hreg (List.ne_nil_of_length_pos (by omega)) (by omega), hbs]

/-- R54: a request register takes what is written, or is frozen while its GO is 1. -/
theorem registerWrite_request {i : Nat} (ha : s.env.addr = 0x40000 + 8 * i) (hi : i < 8) (hb : s.env.bytes.length = 8) :
    (s.mailbox.go = true → exec .registerWrite s = .next s) ∧
    (s.mailbox.go = false → exec .registerWrite s = .next { s with mailbox := { s.mailbox with
      req := setAt s.mailbox.req i (BitVec.ofNat 64 (ofLeBytes s.env.bytes)) } }) := by
  have hword (v : W64) : BitVec.ofNat 64 (mergeBits v.toNat (ofLeBytes s.env.bytes) (2 ^ (8 * 8) - 1)) =
      BitVec.ofNat 64 (ofLeBytes s.env.bytes) := by rw [mergeBits_whole _ v.isLt]
  rw [exec_registerWrite, ha, bar0Write_bytes hup hph (regOf_request i hi) (by decide) hb, writeReg_request _ _ _ hi,
    modAt_eq_setAt _ _ _ _ hword]
  exact ⟨fun hgo => by rw [if_pos hgo], fun hgo => by rw [if_neg (by simp [hgo])]⟩

theorem registerWrite_drvcmd (ha : s.env.addr = 0x40040) (hb : s.env.bytes.length = 4) (hgo : s.mailbox.go = false)
    (hop : s.mailbox.op < 256) (hx : (ofLeBytes s.env.bytes).testBit 31 = true) :
    exec .registerWrite s = .next { s with mailbox := { s.mailbox with
      op := ofLeBytes s.env.bytes % 256, go := true, copy := s.mailbox.req, outcome := none } } := by
  rw [exec_registerWrite, ha, bar0Write_bytes hup hph (off := 0x40040) rfl (by decide) hb, ← writeDrvcmd_go hgo hop hx]
  rfl

theorem registerWrite_featacc {n : Nat} (ha : s.env.addr = 0x110 + 4 * n) (hn : n < 4) (hb : s.env.bytes.length = 4)
    (hlock : s.boot.featlock = false) :
    exec .registerWrite s =
      .next { s with featacc := setAt s.featacc n (BitVec.ofNat 32 (ofLeBytes s.env.bytes)) } := by
  have hword (v : W32) : BitVec.ofNat 32 (mergeBits v.toNat (ofLeBytes s.env.bytes) (2 ^ (8 * 4) - 1)) =
      BitVec.ofNat 32 (ofLeBytes s.env.bytes) := by rw [mergeBits_whole _ v.isLt]
  rw [exec_registerWrite, ha, bar0Write_bytes hup hph (regOf_featacc n hn) (by decide) hb, writeReg_featacc _ _ _ hn,
    if_neg (by simp [hlock]), modAt_eq_setAt _ _ _ _ hword]

section
variable {off : Nat} (hb : s.env.bytes.length = 4) (ha : s.env.addr = off)
include hb ha

theorem registerWrite_readOnly {size : Nat} (hreg : regOf off = some (off, size)) (hsize : 4 ≤ size)
    (hw : ∀ x m, writeReg off x m s = s) : exec .registerWrite s = .next s := by
  have hne : s.env.bytes ≠ [] := List.ne_nil_of_length_pos (by omega)
  rw [exec_registerWrite, ha, bar0Write_register hup (bar0Full_of_phase hph) hreg hne (by omega), hw]

theorem registerWrite_nowhere (hreg : ∀ k, k < 4 → regOf (off + k) = none) : exec .registerWrite s = .next s := by
  rw [exec_registerWrite, ha, bar0Write_noRegister hup (bar0Full_of_phase hph) (by rwa [hb])]

end

/-- R6, R495: what is written to a read-only register, or where there is none, is ignored. -/
theorem registerWrite_ignored (hb : s.env.bytes.length = 4)
    (ha : s.env.addr ∈ [0x0, 0x4, 0xC, 0x124, 0x30010, 0x40048, 0x60000]) : exec .registerWrite s = .next s := by
  simp only [List.mem_cons, List.not_mem_nil, or_false] at ha
  obtain h | h | h | h | h | h | h := ha
  · exact registerWrite_readOnly hup hph hb h (size := 4) rfl (by decide) fun _ _ => rfl
  · exact registerWrite_readOnly hup hph hb h (size := 4) rfl (by decide) fun _ _ => rfl
  · exact registerWrite_nowhere hup hph hb h (by decide)
  · exact registerWrite_nowhere hup hph hb h (by decide)
  · exact registerWrite_readOnly hup hph hb h (size := 16) rfl (by decide) fun _ _ => rfl
  · exact registerWrite_readOnly hup hph hb h (size := 4) rfl (by decide) fun _ _ => rfl
  · exact registerWrite_nowhere hup hph hb h (by decide)

/-- R15, R16: APERCFGn keeps EN, BASE and ASID of what is written. -/
theorem apercfgWrite_sets (hi : s.env.index < 16) (hv : s.env.value < 2 ^ 64) :
    exec .apercfgWrite s = .next { s with boot := { s.boot with
      apercfg := setAt s.boot.apercfg s.env.index
        (BitVec.ofNat 64 (s.env.value % 2 ^ 57 + s.env.value / 2 ^ 63 * 2 ^ 63)) } } := by
  have hword (v : W64) : BitVec.ofNat 64 (mergeBits v.toNat s.env.value (2 ^ (8 * 8) - 1) &&& aperMask) =
      BitVec.ofNat 64 (s.env.value % 2 ^ 57 + s.env.value / 2 ^ 63 * 2 ^ 63) := by
    rw [mergeBits_whole _ v.isLt, and_aperMask hv]
  rw [exec_apercfgWrite hi, bar0Write_leBytes hup hph (regOf_apercfg _ hi) (by decide) hv, writeReg_apercfg _ _ _ hi,
    modAt_eq_setAt _ _ _ _ hword]

theorem eventConsumerWrite_sets (hv : s.env.value < 2 ^ 64) (hc : s.evring.cons < 2 ^ 64) :
    exec .eventConsumerWrite s = .next { s with evring := { s.evring with cons := s.env.value } } := by
  have hm : mergeBits s.evring.cons s.env.value (2 ^ 64 - 1) = s.env.value := mergeBits_whole _ hc
  rw [exec_eventConsumerWrite, bar0Write_leBytes hup hph rfl (by decide) hv]
  exact congrArg (fun c => Host.Outcome.next { s with evring := { s.evring with cons := c } }) hm

theorem eventLostClear_clears :
    exec .eventLostClear s = .next { s with evring := { s.evring with ovf := false, lost := 0 } } := by
  rw [exec_eventLostClear, bar0Write_leBytes hup hph rfl (by decide) (by decide)]
  rfl

theorem ceCountClear_clears : exec .ceCountClear s = .next { s with boot := { s.boot with ceCount := 0 } } := by
  rw [exec_ceCountClear, bar0Write_leBytes hup hph rfl (by decide) (by decide)]
  rfl

theorem ironctlWrite_sets (hv : s.env.value < 2 ^ 32) (hirons : s.irons = []) (hper : s.boot.ironPeriod < 1024) :
    exec .ironctlWrite s =
      .next { s with boot := { s.boot with ironEn := s.env.value.testBit 31, ironPeriod := s.env.value % 1024 } } := by
  rw [exec_ironctlWrite, bar0Write_leBytes hup hph rfl (by decide) hv, ← writeIronctl_idle hirons hper]
  rfl

end

/-! ### Apertures (R15, R16, R27, R139) -/

theorem hostLeaf_of_held {s : State} {asid va : Nat} (a : Access) (h : (heldBy s asid va).isSome = true) :
    hostLeaf asid va a s = (.fault, s) := if_pos h

/-- Where a translation leads decides what becomes of a host access (R22, R27). -/
theorem hostLeaf_of_translate {s t : State} {asid va : Nat} {a : Access} {l : Leaf} (hheld : heldBy s asid va = none)
    (ht : translate s asid va a = (.ok l, t)) : (hostLeaf asid va a s).1 = match reach t (leafPa l va) with
      | .ready => .leaf l
      | .linkDown _ => .lost
      | _ => .wait := by
  have hreq : request asid 0 va (leafPa l va) t =
    (reach t (leafPa l va), (request asid 0 va (leafPa l va) t).2) := rfl
  rw [hostLeaf, hheld, ht]
  simp only [Option.isSome_none, Bool.false_eq_true, if_false]
  rw [hreq]
  cases reach t (leafPa l va) <;> rfl

section
variable {asid va n : Nat} {s t : State} (fuel : Nat) (hn : 0 < n) (hfit : va % 128 + n ≤ 128)
include hn hfit

/-- A host read within one line: what the line's leaf leads to. -/
theorem hostGet_leaf {l : Leaf} (h : hostLeaf asid va .read s = (.leaf l, t)) :
    hostGet asid (fuel + 2) va n s = (.ok (((ctrlReadLine t l.ck (leafPa l va)).1.drop (leafPa l va % 128)).take n,
      (ctrlReadLine t l.ck (leafPa l va)).2 &&& sectorsTouched (byteMask (leafPa l va % 128) n) != 0), t) := by
  have hk : min n (128 - va % 128) = n := by omega
  rw [hostGet, if_neg (by omega), h]
  simp only [hk, Nat.sub_self, hostGet, if_true, List.append_nil, Bool.or_false]

omit hfit in
/-- A host read that stops at its first line. -/
theorem hostGet_stops {r : HostRes} (hr : ∀ l, r ≠ .leaf l) (h : hostLeaf asid va .read s = (r, t)) :
    hostGet asid (fuel + 2) va n s = (.error r, t) := by
  rw [hostGet, if_neg (by omega), h]
  cases r with
  | leaf l => exact absurd rfl (hr l)
  | fault | lost | wait => rfl

end

/-- Bytes within one line are one piece. -/
theorem linePieces_within (fuel : Nat) {a : Nat} {bs : List Byte} (hne : bs ≠ []) (hfit : a % 128 + bs.length ≤ 128) :
    linePieces (fuel + 2) a bs = [(a, bs)] := by
  obtain ⟨b, bs, rfl⟩ := List.exists_cons_of_ne_nil hne
  have hlen : (b :: bs).length ≤ 128 - a % 128 := by omega
  simp only [linePieces, List.take_of_length_le hlen, List.drop_of_length_le hlen]

section
variable {asid va : Nat} {bs : List Byte} {s t : State}

theorem hostPut_leaf {l : Leaf} (h : hostLeaf asid va .write s = (.leaf l, t)) : hostPut asid [(va, bs)] s =
    (none, [], noteWrite (leafPa l va) bs.length (ctrlWrite t l.ck (leafPa l va) bs)) := by
  rw [hostPut, h]; rfl

theorem hostPut_stops {r : HostRes} (hr : ∀ l, r ≠ .leaf l) (h : hostLeaf asid va .write s = (r, t)) :
    hostPut asid [(va, bs)] s = (some r, [(va, bs)], t) := by
  rw [hostPut, h]
  cases r with
  | leaf l => exact absurd rfl (hr l)
  | fault | lost | wait => rfl

/-- A host write that nothing keeps back is done now. -/
theorem hostWriteVa_now {port : Nat} (hretries : s.retries = []) (hfirst : frozen s asid va = false)
    (hlast : frozen s asid (va + bs.length - 1) = false) :
    hostWriteVa port asid va bs s = hostWriteNow port asid va bs s := by
  simp [hostWriteVa, hfirst, hlast, hretries]

section
variable (port : Nat) (hne : bs ≠ []) (hfit : va % 128 + bs.length ≤ 128)
include hne hfit

theorem hostWriteNow_leaf {l : Leaf} (h : hostLeaf asid va .write s = (.leaf l, t)) :
    hostWriteNow port asid va bs s = noteWrite (leafPa l va) bs.length (ctrlWrite t l.ck (leafPa l va) bs) := by
  rw [hostWriteNow, linePieces_within _ hne hfit, hostPut_leaf h]

theorem hostWriteNow_fault (hport : port % 32 ≠ 16) (h : hostLeaf asid va .write s = (.fault, t)) :
    hostWriteNow port asid va bs s = aperFault port 1 asid va t := by
  rw [hostWriteNow, linePieces_within _ hne hfit, hostPut_stops (by simp) h]
  exact if_neg hport

theorem hostWriteNow_wait (h : hostLeaf asid va .write s = (.wait, t)) :
    hostWriteNow port asid va bs s = { t with retries := t.retries ++ [(port, asid, va, bs)] } := by
  rw [hostWriteNow, linePieces_within _ hne hfit, hostPut_stops (by simp) h]
  simp only [List.flatMap_cons, List.flatMap_nil, List.append_nil]

theorem hostWriteNow_lost (h : hostLeaf asid va .write s = (.lost, t)) : hostWriteNow port asid va bs s = t := by
  rw [hostWriteNow, linePieces_within _ hne hfit, hostPut_stops (by simp) h]

end

end

section
variable {s : State} {n off c : Nat} (hc : (s.boot.apercfg.getD n 0).toNat = c)
include hc

theorem aperture_closed (h : c.testBit 63 = false ∨ liveCtx s (c % 2 ^ 16) = false) : aperture s n off = none := by
  subst hc
  refine if_neg fun hopen => ?_
  simp only [Bool.and_eq_true] at hopen
  obtain ⟨⟨_, hen⟩, hlive⟩ := hopen
  rcases h with h | h
  · exact absurd (hen.symm.trans h) (by decide)
  · exact absurd (hlive.symm.trans h) (by decide)

theorem aperture_open (hph : s.boot.phase = 5 ∨ s.boot.phase = 6) (hn : n < 16) (hen : c.testBit 63 = true)
    (hlive : liveCtx s (c % 2 ^ 16) = true) :
    aperture s n off = some (c % 2 ^ 16, (c % 2 ^ 57 / 2 ^ 16 * 2 ^ 16 + off) % 2 ^ 57) := by
  subst hc
  refine if_pos ?_
  simp only [Bool.and_eq_true, decide_eq_true_eq]
  exact ⟨⟨⟨bar0Full_of_phase hph, hn⟩, hen⟩, hlive⟩

end

theorem exec_hostApertureRead (s : State) : exec .hostApertureRead s = execHostApertureRead s := rfl
theorem exec_hostApertureWrite (s : State) : exec .hostApertureWrite s = execHostApertureWrite s := rfl

section
variable {s t : State} {asid va : Nat} (hup : endpointUp s = true)
include hup

/-- Behind a closed aperture reads find all ones and writes are dropped. -/
theorem aperture_closed_acts (h : aperture s s.env.index s.env.addr = none) :
    exec .hostApertureRead s = .next { s with completion := some (0 :: List.replicate s.env.size 0xFF) } ∧
      exec .hostApertureWrite s = .next s := by
  simp only [exec_hostApertureRead, exec_hostApertureWrite, execHostApertureRead, execHostApertureWrite, hup, h,
    Bool.not_true, Bool.false_eq_true, if_false, and_self]

/-- A write through an open aperture is a write at its virtual address. -/
theorem apertureWrite_open (h : aperture s s.env.index s.env.addr = some (asid, va)) : exec .hostApertureWrite s =
    .next (hostWriteVa (s.env.index + 32 * s.env.addr) asid va s.env.bytes s) := by
  simp only [exec_hostApertureWrite, execHostApertureWrite, hup, h, Bool.not_true, Bool.false_eq_true, if_false]

section
variable (h : aperture s s.env.index s.env.addr = some (asid, va)) (hn : 0 < s.env.size)
include h hn

theorem apertureRead_leaf {l : Leaf} (hfit : va % 128 + s.env.size ≤ 128)
    (hl : hostLeaf asid va .read s = (.leaf l, t)) :
    let d := ctrlReadLine t l.ck (leafPa l va)
    let bad := d.2 &&& sectorsTouched (byteMask (leafPa l va % 128) s.env.size) != 0
    exec .hostApertureRead s = .next { t with
      completion := some ((if bad then 2 else 0) :: (d.1.drop (leafPa l va % 128)).take s.env.size) } := by
  simp only [exec_hostApertureRead, execHostApertureRead, hup, h, Bool.not_true, Bool.false_eq_true, if_false,
    hostGet_leaf _ hn hfit hl]

theorem apertureRead_fault (hl : hostLeaf asid va .read s = (.fault, t)) : exec .hostApertureRead s =
    .next { aperFault (s.env.index + 32 * s.env.addr) 0 asid va t with
      completion := some (0 :: List.replicate s.env.size 0xFF) } := by
  simp only [exec_hostApertureRead, execHostApertureRead, hup, h, Bool.not_true, Bool.false_eq_true, if_false,
    hostGet_stops _ hn (by simp) hl]

theorem apertureRead_wait (hl : hostLeaf asid va .read s = (.wait, t)) : exec .hostApertureRead s =
    .next { t with completion := none, hostReads := t.hostReads ++ [s.env] } := by
  simp only [exec_hostApertureRead, execHostApertureRead, hup, h, Bool.not_true, Bool.false_eq_true, if_false,
    hostGet_stops _ hn (by simp) hl]

theorem apertureRead_lost (hl : hostLeaf asid va .read s = (.lost, t)) : exec .hostApertureRead s =
    .next { t with completion := some (0 :: List.replicate s.env.size 0xFF) } := by
  simp only [exec_hostApertureRead, execHostApertureRead, hup, h, Bool.not_true, Bool.false_eq_true, if_false,
    hostGet_stops _ hn (by simp) hl]

end

end

/-! ### The registers and apertures together -/

/-- Settles O50: each register, and each end of an aperture's access, by its own lemma above. -/
theorem registersAndAperturesAct : Obligations.RegistersAndAperturesAct := by
  refine ⟨fun s hup hph => ?registers, fun s hup hph hidx => ?apertures, fun s asid va a l t => hostLeaf_of_translate⟩
  case registers =>
    refine ⟨fun i ha hi hb _ => registerWrite_request hup hph ha hi hb, fun ha hb hgo hop hx => ?_,
      fun n ha hn hb _ hlock => registerWrite_featacc hup hph ha hn hb hlock,
      registerWrite_ignored hup hph, fun n hi hn _ hv => ?_, eventConsumerWrite_sets hup hph,
      eventLostClear_clears hup hph, ceCountClear_clears hup hph, ironctlWrite_sets hup hph⟩
    · exact ⟨_, registerWrite_drvcmd hup hph ha hb hgo hop hx, rfl, rfl, rfl, rfl, rfl⟩
    · subst hi; exact apercfgWrite_sets hup hph hn hv
  case apertures =>
    refine ⟨fun h => aperture_closed_acts hup (aperture_closed rfl h), fun hen hlive hn hfit => ?reads,
      fun hen hlive hheld hn _ => ?held, fun hen hlive hretries hfirst hne hfit hlast => ?writes⟩
    all_goals have ho := aperture_open (off := s.env.addr) rfl hph hidx hen hlive
    case reads =>
      exact ⟨fun l t => apertureRead_leaf hup ho hn hfit, fun t => apertureRead_fault hup ho hn,
        fun t => apertureRead_wait hup ho hn, fun t => apertureRead_lost hup ho hn⟩
    case held => exact apertureRead_fault hup ho hn (hostLeaf_of_held _ hheld)
    case writes =>
      rw [apertureWrite_open hup ho, hostWriteVa_now hretries hfirst hlast]
      exact ⟨fun l t hl => congrArg _ (hostWriteNow_leaf _ hne hfit hl),
        fun t hl => congrArg _ (hostWriteNow_fault _ hne hfit (by omega) hl),
        fun t hl => congrArg _ (hostWriteNow_wait _ hne hfit hl),
        fun t hl => congrArg _ (hostWriteNow_lost _ hne hfit hl)⟩

/-! ### What reset and release leave -/

theorem portOf_reset (n : Nat) : portOf State.reset n = Port.reset := rfl
theorem coreSt_reset (core : Nat) : coreSt State.reset core = CoreSt.reset := rfl
theorem mxOf_reset (core : Nat) : mxOf State.reset core = MxSt.reset := rfl
theorem clusterSt_reset (cl : Nat) : clusterSt State.reset cl = ClusterSt.reset := rfl

theorem memCanonical_reset : MemCanonical State.reset := ⟨Laws.wf_reset, by simp [State.reset]⟩

theorem apercfg_reset {n : Nat} (h : n < 16) : State.reset.boot.apercfg[n]? = some 0 :=
  List.getElem?_replicate_of_lt h

theorem coresok_reset {n : Nat} (h : n < 12) : State.reset.boot.coresok[n]? = some 0 :=
  List.getElem?_replicate_of_lt h

/-- Every lane of a released group stands unblocked at its role's entry (R98, R212). -/
theorem laneOf_newGroup (wg num ubase : Nat) (n : GroupNeed) {l : Nat} (h : l < 32) :
    laneOf (newGroup wg num ubase n) l = ⟨⟨BitVec.ofNat 57 n.2.1, 0⟩, .unblocked, 0, 1, false, 0, 0⟩ := by
  rw [laneOf, List.getD_eq_getElem?_getD]
  exact congrArg (·.getD noLane) (List.getElem?_replicate_of_lt h)

theorem trap_newGroup (wg num ubase : Nat) (n : GroupNeed) : (newGroup wg num ubase n).trap = Trap.reset := rfl

/-- Settles O4, field by field: a map that lists nothing gives the reset value at every key. -/
theorem resetLeaves : Obligations.ResetLeaves := by
  unfold Obligations.ResetLeaves
  intro s
  refine ⟨rfl, rfl, rfl, rfl, rfl, fun n => apercfg_reset, fun n => coresok_reset, fun n _ => ?port, ?rest⟩
  case port => rw [portOf_reset]; decide
  -- FEATACC and FEATLOCK, the mailbox, the event ring, CKPTSTAT, the error and ironing registers, the ownership mailbox
  refine ⟨rfl, rfl, rfl, rfl, rfl, rfl, rfl, rfl, rfl, rfl, rfl, rfl, rfl, rfl, rfl, rfl, rfl, rfl, rfl, rfl, rfl, rfl, rfl,
    fun core => ?core, fun cl => ?cluster, rfl, rfl, rfl, rfl, rfl, memCanonical_reset, fun wg num ubase n => ?group⟩
  case core => rw [coreSt_reset, mxOf_reset]; decide
  case cluster => rw [clusterSt_reset]; rfl
  case group =>
    intro g
    have htrap : g.trap = Trap.reset := trap_newGroup wg num ubase n
    rw [htrap]
    refine ⟨rfl, rfl, rfl, rfl, rfl, rfl, rfl, rfl, rfl, rfl, rfl, rfl, rfl, rfl, fun l hl => ?_⟩
    rw [laneOf_newGroup wg num ubase n hl]
    exact ⟨rfl, rfl, rfl⟩

end Sys2Proof.Proofs
end

section
/-! PROOFS. SYSW and what the write of a system register leaves (R109, R157, R238, R269, R312, R473). -/

namespace Sys2Proof.Proofs
open Machine

/-! ### Lanes and masks -/

/-- What an update of the lanes of a mask leaves in a lane that the group has. -/
theorem laneOf_onLanes {g : Group} {l : Nat} (m : Mask) (f : Lane → Lane) (h : l < g.lanes.length) :
    laneOf (onLanes g m f) l = if m.getLsbD l then f (laneOf g l) else laneOf g l := by
  simp [laneOf, onLanes, h]

theorem getLsbD_laneBit_self {l : Nat} (h : l < 32) : (laneBit l).getLsbD l = true := by
  rw [laneBit, BitVec.getLsbD_ofNat, Nat.testBit_two_pow_self, decide_eq_true h, Bool.and_true]

/-! ### Masked words (R238) -/

theorem toNat_and_clearLow3 (x : W32) : (x &&& 0xFFFFFFF8).toNat = x.toNat / 8 * 8 := by
  have hmask : (0xFFFFFFF8 : W32).toNat = 2 ^ 3 * (2 ^ 29 - 1) := by decide
  have hdiv : x.toNat / 8 * 8 = 2 ^ 3 * (x.toNat / 2 ^ 3) := by omega
  rw [BitVec.toNat_and, hmask, hdiv]
  apply Nat.eq_of_testBit_eq
  intro i
  rw [Nat.testBit_and, Nat.testBit_two_pow_mul, Nat.testBit_two_pow_mul, Nat.testBit_two_pow_sub_one, Nat.testBit_div_two_pow]
  by_cases hi : 3 ≤ i
  · have hback : i - 3 + 3 = i := by omega
    rw [decide_eq_true hi, Bool.true_and, Bool.true_and, hback]
    by_cases htop : i - 3 < 29
    · rw [decide_eq_true htop, Bool.and_true]
    · have hx : x.toNat < 2 ^ i := Nat.lt_of_lt_of_le x.isLt (Nat.pow_le_pow_right (by decide) (by omega))
      rw [Nat.testBit_lt_two_pow hx, Bool.false_and]
  · rw [decide_eq_false hi, Bool.false_and, Bool.and_false, Bool.false_and]

theorem toNat_and_low25 (x : W32) : (x &&& 0x01FFFFFF).toNat = x.toNat % 2 ^ 25 := by
  have hmask : (0x01FFFFFF : W32).toNat = 2 ^ 25 - 1 := by decide
  rw [BitVec.toNat_and, hmask, Nat.and_two_pow_sub_one_eq_mod]

/-! ### SYSW at its issue (R473) -/

theorem exec_sysw (h : Hdr) (o : R4) (s : State) : exec (.sysw h o) s = execSysw h o s := rfl

/-- The registers that are writable: some always, some in a handler, some in the firmware slot. -/
theorem sysWritable_iff (cx : Cx) (num : Nat) : sysWritable cx num = true ↔
    num ∈ [0x040, 0x041, 0x048, 0x04B, 0x050, 0x051] ∨
    (num ∈ [0x044, 0x045, 0x049, 0x04A] ∧ cx.g.trap.inh = true) ∨
    (num ∈ [0x060, 0x061, 0x070, 0x080, 0x090] ∧ cx.w.firmware = true) := by
  unfold sysWritable
  split <;> simp_all

/-- A system register's pending write marks no destination: the groups stay as they are (R221). -/
theorem sfind_groups_fixWrites_sys (cx : Cx) (num : Nat) (x : W32) (s : State) (k : Nat) :
    sfind (fixWrites cx [.sys num x] s).groups k = sfind s.groups k := by
  unfold fixWrites
  split
  · rfl
  · have hid : (fun g : Group => { g with ops := g.ops.map fun o =>
        { o with clobbered := o.clobbered ++ (List.filterMap wrKey [Wr.sys num x]).filter fun k => o.dests.contains k } }) = id := by
      have hnil : List.filterMap wrKey [Wr.sys num x] = [] := rfl
      funext g
      simp [hnil]
    simp only [hid, Laws.modGroup_groups, Laws.modRun_groups, Laws.sfind_smod, Option.map_id, id]
    split
    · subst_vars; rfl
    · rfl

theorem sfind_runs_fixWrites_sys (cx : Cx) (num : Nat) (x : W32) (s : State) (k : Nat) :
    sfind (fixWrites cx [.sys num x] s).runs k = if k = cx.rk then
      (sfind s.runs cx.rk).map fun r => { r with pend := r.pend ++ [(r.cycle, .sys num x)] } else sfind s.runs k := by
  unfold fixWrites
  split <;> simp [Laws.sfind_smod]

theorem fixWrites_frame (cx : Cx) (ws : List Wr) (s : State) :
    { fixWrites cx ws s with runs := s.runs, groups := s.groups } = s := by
  unfold fixWrites
  split <;> rfl

section
variable {h : Hdr} {cx : Cx} {s : State} {o : R4}
variable (r : Ready { unit := 3, ops := [(o.d, .unused), (o.a, .src 1 true), (o.b, .src 1 true), (o.c, .unused)] } h cx s)
include r

theorem sysw_illegal (hw : sysWritable cx (sysNum cx (ticked s) o.a) = false) : ∃ t, exec (.sysw h o) s = .next t ∧
    Only cx s t { cx.run with exc := some ⟨1, cx.run.widx, 0⟩ } cx.g :=
  ⟨_, by rw [exec_sysw, execSysw, Laws.issue_ready r, if_neg (by simp [hw])], Laws.only_raise r.focus r.clean 1 0⟩

theorem sysw_writes (hw : sysWritable cx (sysNum cx (ticked s) o.a) = true) : exec (.sysw h o) s =
    .next (sysWrite cx (sysNum cx (ticked s) o.a) (in32 cx s o.b (elected cx)) (ticked s)) := by
  rw [exec_sysw, execSysw, Laws.issue_ready r, if_pos hw]
  rfl

/-- A register's write joins the run's pending writes, and nothing else of the state changes. -/
theorem sysw_pends (num : Nat) (x : W32) :
    let t := fixWrites cx [.sys num x] (ticked s)
    sfind t.runs cx.rk = some { cx.run with pend := cx.run.pend ++ [(cx.run.cycle, .sys num x)] } ∧
      (∀ k, k ≠ cx.rk → sfind t.runs k = sfind s.runs k) ∧ (∀ k, sfind t.groups k = sfind s.groups k) ∧
      { t with tick := s.tick, runs := s.runs, groups := s.groups } = s := by
  have hr : sfind (ticked s).runs cx.rk = some cx.run := (Laws.cxOf_spec r.focus).1
  refine ⟨?_, fun k hk => ?_, fun k => sfind_groups_fixWrites_sys cx num x _ k, ?_⟩
  · rw [sfind_runs_fixWrites_sys, if_pos rfl, hr]; rfl
  · rw [sfind_runs_fixWrites_sys, if_neg hk]; rfl
  · exact congrArg (fun u : State => { u with tick := s.tick }) (fixWrites_frame cx [.sys num x] (ticked s))

end

/-- Any register but the mode word is written as it is given. -/
theorem sysWrite_of_ne {num : Nat} (cx : Cx) (x : W32) (s : State) (h : num ≠ 0x04B) :
    sysWrite cx num x s = fixWrites cx [.sys num x] s := by
  unfold sysWrite
  split
  · exact absurd rfl h
  · rfl

/-- The mode word's HCHK is written where feature 10 is on. -/
theorem sysWrite_mode (cx : Cx) (x : W32) (s : State) : ∃ y, y.getLsbD 2 = (x.getLsbD 2 && featureOn s 10) ∧
    sysWrite cx 0x04B x s = fixWrites cx [.sys 0x04B y] s := by
  refine ⟨if featureOn s 10 then x else x &&& 0xFFFFFFFB, ?_, rfl⟩
  split <;> simp_all

/-! ### What a landed write leaves -/

theorem capOf_eq (cap : Nat) : capOf cap = if cap < 8 then 8 else if 64 < cap then 64 else cap / 8 * 8 := by
  unfold capOf
  split
  · omega
  · split <;> omega

theorem field_eq (x lo n : Nat) : field x lo n = x / 2 ^ lo % 2 ^ n := by
  rw [field, Nat.shiftRight_eq_div_pow]

@[simp] theorem mxOf_modMx (s : State) (k : Nat) (f : MxSt → MxSt) : mxOf (modMx s k f) k = f (mxOf s k) := by
  simp [mxOf, modMx]

@[simp] theorem coreSt_modCore (s : State) (k : Nat) (f : CoreSt → CoreSt) : coreSt (modCore s k f) k = f (coreSt s k) := by
  simp [coreSt, modCore, putCore]

@[simp] theorem clusterSt_modCluster (s : State) (k : Nat) (f : ClusterSt → ClusterSt) :
    clusterSt (modCluster s k f) k = f (clusterSt s k) := by
  simp [clusterSt, modCluster, putCluster]

/-- From 0x060 on a landed write is of the core or its cluster, below it is of the group. -/
theorem landWr_coreSys {num : Nat} (gk wk : Nat) (x : W32) (s : State) (h : 0x060 ≤ num) :
    landWr gk wk (.sys num x) s = landCoreSys (keyCore gk) num x s := if_neg (Nat.not_lt.mpr h)

theorem mxOf_writeMxgov (k : Nat) (x : W32) (s : State) :
    let cap := x.toNat / 2 ^ 16 % 128
    let most := if cap < 8 then 8 else if 64 < cap then 64 else cap / 8 * 8
    mxOf (writeMxgov k x s) k =
      { mxOf s k with cap := cap, budget := if (mxOf s k).budget ≤ most then (mxOf s k).budget else most } := by
  intro cap most
  have hcap : field x.toNat 16 7 = cap := field_eq _ _ _
  rw [writeMxgov, mxOf_modMx, hcap, capOf_eq, Nat.min_def]

theorem mxOf_clearStall (k : Nat) (x : W32) (s : State) : mxOf (landCoreSys k 0x061 x s) k =
    { mxOf s k with stall := if x.getLsbD 31 then 0 else (mxOf s k).stall } := by
  simp only [landCoreSys]
  split
  · rw [mxOf_modMx]
  · rfl

section
variable (g : Group) (x : W32)

/-- TEPC keeps its OFS where its address stays (R238, R323). -/
theorem addr_keepPc (p : Pc) (a : Va) : (if a = p.addr then p else (⟨a, 0⟩ : Pc)).addr = a := by
  split
  · exact Eq.symm ‹_›
  · rfl

theorem landSys_tepc0 : (landSys 0x044 x g).trap.tepc.addr.toNat =
    g.trap.tepc.addr.toNat / 2 ^ 32 * 2 ^ 32 + x.toNat / 8 * 8 := by
  have ha := g.trap.tepc.addr.isLt
  have hx := x.isLt
  simp only [landSys, addr_keepPc, BitVec.toNat_ofNat, toNat_and_clearLow3]
  omega

theorem landSys_tepc1 : (landSys 0x045 x g).trap.tepc.addr.toNat =
    g.trap.tepc.addr.toNat % 2 ^ 32 + x.toNat % 2 ^ 25 * 2 ^ 32 := by
  simp only [landSys, addr_keepPc, BitVec.toNat_ofNat, toNat_and_low25]
  omega

theorem landSys_lpc0 : (landSys 0x049 x g).trap.staged = some (BitVec.ofNat 32 (x.toNat / 8 * 8)) := by
  have hx : x &&& 0xFFFFFFF8 = BitVec.ofNat 32 (x.toNat / 8 * 8) := by
    rw [← toNat_and_clearLow3, BitVec.ofNat_toNat, BitVec.setWidth_eq]
  exact congrArg some hx

/-- RNGVAL sets the generator of the lane that RNGSEL names, never to 0 (R312). -/
theorem landSys_rngval (hsel : g.trap.rngsel < 32) (hlen : g.lanes.length = 32) :
    (laneOf (landSys 0x051 x g) g.trap.rngsel).gen = if x = 0 then 1 else x := by
  simp only [landSys, laneOf_onLanes _ _ (hlen ▸ hsel), getLsbD_laneBit_self hsel, if_true]

/-- LPC1 moves a parked lane outside TMASK and takes the staged half (R241). -/
theorem landSys_lpc1 {y : W32} (hst : g.trap.staged = some y) (hsel : g.trap.lpcsel < 32) (hlen : g.lanes.length = 32)
    (hmask : g.trap.tmask.getLsbD g.trap.lpcsel = false) (hpark : (laneOf g g.trap.lpcsel).st = .parked) :
    let u := landSys 0x04A x g
    u.trap.staged = none ∧ (laneOf u g.trap.lpcsel).rewritten = true ∧
      (laneOf u g.trap.lpcsel).pc.addr = BitVec.ofNat 57 (y.toNat + x.toNat % 2 ^ 25 * 2 ^ 32) := by
  have hlane : laneOf { g with trap := { g.trap with staged := none } } g.trap.lpcsel = laneOf g g.trap.lpcsel := rfl
  have hkeep (p : Pc) (a : Va) : (if p.addr = a then p else (⟨a, 0⟩ : Pc)).addr = a := by
    split
    · assumption
    · rfl
  simp only [landSys, hmask, hst, hlane, hpark, Bool.false_eq_true, if_false, toNat_and_low25]
  rw [laneOf_onLanes _ _ (by exact hlen ▸ hsel), if_pos (getLsbD_laneBit_self hsel), hlane, hpark]
  exact ⟨rfl, by simp, hkeep _ _⟩

end

/-- Settles O42: what SYSW pends at its issue, and what each register's write leaves when it lands. -/
theorem systemRegistersWrite : Obligations.SystemRegistersWrite := by
  intro h cx s o
  refine ⟨fun r => ?issue, fun x => ?core, fun g x => ?group⟩
  case issue =>
    intro num x always handler firmware writable
    have hiff : sysWritable cx num = true ↔ writable := sysWritable_iff cx num
    refine ⟨fun hw => sysw_illegal r (Bool.eq_false_iff.mpr (hw ∘ hiff.mp)), fun hw hne => ?_, fun hmode => ?_⟩
    · exact ⟨_, (sysw_writes r (hiff.mpr hw)).trans (congrArg _ (sysWrite_of_ne cx x _ hne)), sysw_pends r num x⟩
    · obtain ⟨y, hbit, hy⟩ := sysWrite_mode cx x (ticked s)
      have hwrite : sysWrite cx num x (ticked s) = fixWrites cx [.sys 0x04B y] (ticked s) := by rw [hmode, hy]
      have hw : sysWritable cx num = true := by rw [hmode]; rfl
      exact ⟨_, y, (sysw_writes r hw).trans (congrArg _ hwrite), hbit, (sysw_pends r 0x04B y).1⟩
  case core =>
    intro landed k cap most mx core
    have hland (num : Nat) (hn : 0x060 ≤ num) : landed num = landCoreSys k num x s := landWr_coreSys cx.gk cx.wk x s hn
    rw [hland 0x060 (by decide), hland 0x061 (by decide), hland 0x070 (by decide), hland 0x080 (by decide),
      hland 0x090 (by decide)]
    exact ⟨mxOf_writeMxgov k x s, mxOf_clearStall k x s, coreSt_modCore s k _, rfl,
      congrArg ClusterSt.mergewin (clusterSt_modCluster s (clusterOf k) _)⟩
  case group =>
    exact ⟨toNat_and_clearLow3 x, toNat_and_low25 x, rfl, rfl, rfl, landSys_rngval g x, landSys_tepc0 g x, landSys_tepc1 g x,
      landSys_lpc0 g x, fun y hst hsel hlen hmask hpark => landSys_lpc1 g x hst hsel hlen hmask hpark⟩

end Sys2Proof.Proofs
end

section
/-! PROOFS. Operations, waits, multicast windows and resends (R108, R165, R176, R211, R219, R436). -/

namespace Sys2Proof.Proofs
open Machine

/-! ### Masks of lanes and outstanding operations -/

theorem getLsbD_laneBit {i : Nat} (l : Nat) (h : i < 32) : (laneBit i).getLsbD l = decide (l = i) := by
  by_cases hl : l = i
  · subst hl
    rw [getLsbD_laneBit_self h, decide_eq_true rfl]
  · rw [laneBit, BitVec.getLsbD_ofNat, Nat.testBit_two_pow_of_ne (Ne.symm hl), Bool.and_false, decide_eq_false hl]

theorem getLsbD_maskOf (p : Nat → Bool) (l : Nat) : (maskOf p).getLsbD l = (decide (l < 32) && p l) := by
  have key (ls : List Nat) (m : Mask) (hls : ∀ i ∈ ls, i < 32) :
      (ls.foldl (fun m l => if p l then m ||| laneBit l else m) m).getLsbD l =
        (m.getLsbD l || (decide (l ∈ ls) && p l)) := by
    induction ls generalizing m with
    | nil => simp
    | cons i ls ih =>
      have hbit := getLsbD_laneBit l (hls i (by simp))
      rw [List.foldl_cons, ih _ fun j hj => hls j (List.mem_cons_of_mem _ hj)]
      by_cases hil : l = i
      · subst hil
        cases hp : p l <;> simp [hbit]
      · cases p i <;> simp [hil, hbit]
  have h0 : (maskOf p).getLsbD l = _ := key (List.range 32) 0 fun i hi => List.mem_range.mp hi
  rw [h0]
  simp

theorem maskOf_eq_zero {p : Nat → Bool} : maskOf p = 0 ↔ ∀ l, l < 32 → p l = false := by
  constructor
  · intro h l hl
    have hbit := getLsbD_maskOf p l
    rw [h, decide_eq_true hl, Bool.true_and] at hbit
    simpa using hbit.symm
  · intro h
    refine BitVec.eq_of_getLsbD_eq fun l hl => ?_
    rw [getLsbD_maskOf, h l hl, Bool.and_false]
    simp

/-- With no lane fault-parked an operation's end wakes none (R211). -/
theorem settle_of_inState {s : State} {gk : Nat} {g : Group} (hg : sfind s.groups gk = some g)
    (h : inState g .faultParked = 0) : settle gk s = s := by
  simp only [settle, hg]
  exact if_pos (maskOf_eq_zero.mpr fun l hl => by simp [maskOf_eq_zero.mp h l hl])

/-- A group with a lane that has not exited does not retire (R212). -/
theorem retireGroup_of_inState {s : State} {gk : Nat} {g : Group} (hg : sfind s.groups gk = some g)
    (h : inState g .exited = 0) : retireGroup gk s = s := by
  have hne : (inState g .exited == BitVec.allOnes 32) = false := by rw [h]; decide
  simp only [retireGroup, hg, hne, Bool.and_false, Bool.false_eq_true, if_false]

/-- Results enter registers and nothing else of their group. -/
theorem putResults_frame (rs : List (Nat × W32)) (g : Group) :
    { rs.foldl putResult g with vreg := g.vreg, sreg := g.sreg } = g := by
  have hone (e : Nat × W32) (g : Group) : { putResult g e with vreg := g.vreg, sreg := g.sreg } = g := by
    unfold putResult
    split <;> rfl
  induction rs generalizing g with
  | nil => rfl
  | cons e rs ih =>
    exact (congrArg (fun x : Group => { x with vreg := g.vreg, sreg := g.sreg }) (ih (putResult g e))).trans (hone e g)

theorem putResults_lanes (rs : List (Nat × W32)) (g : Group) : (rs.foldl putResult g).lanes = g.lanes := by
  have h := congrArg Group.lanes (putResults_frame rs g)
  exact h

theorem putResults_preds (rs : List (Nat × W32)) (g : Group) : (rs.foldl putResult g).preds = g.preds := by
  have h := congrArg Group.preds (putResults_frame rs g)
  exact h

section
variable {s : State} {gk : Nat} {g : Group} {o : POp} (hg : sfind s.groups gk = some g) (hops : g.ops = [o])
  (hclob : o.clobbered = []) (hex : inState g .exited = 0) (hpark : inState g .faultParked = 0)
include hg hops hclob hex hpark

/-- The only operation of a group completes: its results enter their registers (R219). -/
theorem completeOp_single : sfind (completeOp gk o.id s).groups gk = some { o.results.foldl putResult g with ops := [] } ∧
    (completeOp gk o.id s).mem = s.mem := by
  have hfind : findOp s gk o.id = some o := by simp [findOp, hg, hops]
  have hkeep : (o.results.filter fun e => !(o.clobbered.contains e.1 && Config.freeBool s.tick e.1 o.id)) = o.results := by
    simp [hclob]
  have hin (st : LaneSt) : inState { o.results.foldl putResult g with ops := [] } st = inState g st := by
    simp only [inState, laneOf, putResults_lanes]
  have hland : sfind (smod s.groups gk fun g => { o.results.foldl putResult g with ops := g.ops.filter fun x => x.id != o.id }) gk =
      some { o.results.foldl putResult g with ops := [] } := by
    simp [hg, hops]
  simp only [completeOp, hfind, hkeep]
  rw [settle_of_inState (g := { o.results.foldl putResult g with ops := [] }) hland (by rw [hin, hpark]),
    retireGroup_of_inState (g := { o.results.foldl putResult g with ops := [] }) hland (by rw [hin, hex])]
  exact ⟨hland, rfl⟩

end

/-- One result in a vector register's key. -/
theorem putResult_vector {k : Nat} (x : W32) (g : Group) (h : k < 65536) :
    putResult g (k, x) = { g with vreg := sput 0 g.vreg k x } := if_pos h

theorem findOp_modOp {s : State} {gk id : Nat} {f : POp → POp} (hf : ∀ o, (f o).id = o.id) :
    findOp (modOp gk id f s) gk id = (findOp s gk id).map f := by
  simp only [findOp, modOp, Laws.modGroup_groups, Laws.sfind_smod_self]
  cases sfind s.groups gk with
  | none => rfl
  | some g =>
    have hp : ((fun o : POp => o.id == id) ∘ fun o => if (o.id == id) = true then f o else o) = fun o => o.id == id := by
      funext o
      simp only [Function.comp]
      split
      · rw [hf]
      · rfl
    simp only [Option.map_some, Option.bind_some, List.find?_map, hp]
    cases hfound : g.ops.find? fun o => o.id == id with
    | none => rfl
    | some o =>
      have hid : o.id = id := by simpa using List.find?_some hfound
      simp only [Option.map_some, hid, beq_self_eq_true, if_true]

/-- An operation none of whose lanes waits is served whole, and ready; one that names a flag stays until it completes. -/
theorem serveOp_whole {u : State} {gk id : Nat} {o : POp} (rs : List (Nat × W32)) (hparked : u.parked = [])
    (hwaits : u.waits = []) (ho : findOp u gk id = some o) (hflag : o.flag ≠ 15) : serveOp gk id rs u =
      settle gk (modOp gk id (fun o => { o with results := o.results ++ rs, lanes := 0, ready := true }) u) := by
  have hleft : lanesLeft u gk id = 0 := by simp [lanesLeft, hparked, hwaits]
  have hready : (fun o : POp => { o with results := o.results ++ rs, lanes := 0, ready := o.ready || (0 : Mask) == 0 }) =
      fun o => { o with results := o.results ++ rs, lanes := 0, ready := true } := by
    funext o; simp
  simp only [serveOp, hleft, hready, findOp_modOp, implies_true, ho, Option.map_some]
  rw [if_neg (by simp [hflag])]

/-! ### Flags, waits and multicast windows (R165, R219, R436) -/

theorem exec_flagOperationComplete (s : State) : exec .flagOperationComplete s = .next
    (finishOp (gkey s.env.core s.env.slot) s.env.index (comeToPull (gkey s.env.core s.env.slot) s.env.index s)) := rfl

/-- An engine comes to a pull it holds where its operation is looked at (R278). -/
theorem comeToPull_eq (gk id : Nat) (s : State) : comeToPull gk id s =
    if ∃ c ∈ (swOf s (keyCore gk)).pulls, c.group = gk ∧ c.op = id then
      settleSweep (keyCore gk) (takeNotices (keyCore gk) s) else s := by
  simp only [comeToPull, servePulls, List.any_eq_true, Bool.and_eq_true, beq_iff_eq]

theorem finishOp_found {u : State} {gk id : Nat} {g : Group} {o : POp} {w : Wg} (hg : sfind u.groups gk = some g)
    (ho : findOp u gk id = some o) (hw : sfind u.wgs (wgOf gk g) = some w) : finishOp gk id u =
      if opDue u gk g o = true then releaseHeld (afterOp gk o (completeOp gk id (opEffect gk w o u))) else u := by
  simp only [finishOp, hg, ho, hw]

theorem exec_waitaConditionMet {s : State} {w : WaitRec} (hw : (s.waits.find? fun w => w.group == gkey s.env.core s.env.slot &&
    w.op == s.env.index && w.lane == s.env.lane && w.sat.isSome) = some w) :
    exec .waitaConditionMet s = .next (endWait w s) := by
  change execWaitaConditionMet s = _
  simp only [execWaitaConditionMet, hw]

/-- A wait without the acquire modifier whose word is sound gives its lane the word, and what it held goes on (R436). -/
theorem endWait_plain {s : State} {w : WaitRec} {x : Nat} {ag : Ag} (hsat : w.sat = some x) (hacq : w.acq = false)
    (hag : agOf (serveOp w.group w.op (resultKeys w.d (if w.w64 then 2 else 1) w.lane x)
      { s with waits := s.waits.filter fun v => v != w }) w.group = some ag) (hsound : waitPoison s w = false) :
    endWait w s = releaseHeld (serveOp w.group w.op (resultKeys w.d (if w.w64 then 2 else 1) w.lane x)
      { s with waits := s.waits.filter fun v => v != w }) := by
  simp only [endWait, hsat, hacq, Bool.false_eq_true, if_false, hag, hsound]

theorem exec_multicastWindowClose {s : State} {e : MergeEnt}
    (he : sfind (clusterSt s s.env.core).merges s.env.index = some e) : exec .multicastWindowClose s =
      .next (e.reqs.foldl (fun s r => serveMcast r.1 r.2 s)
        (modCluster s s.env.core fun c => { c with merges := sdel c.merges s.env.index })) := by
  change execMulticastWindowClose s = _
  simp only [execMulticastWindowClose, he]

/-! ### Resends (R108, R176) -/

theorem exec_overflowNakResend (s : State) : exec .overflowNakResend s = .next (resumeDrains (replayWhere
    (fun _ p => p.group == gkey s.env.core s.env.slot && p.place == .nak) s)) := rfl

theorem replayWhere_none {pick : State → Parked → Bool} {s : State} (h : ∀ p ∈ s.parked, pick s p = false) :
    replayWhere pick s = s := by
  have hnil : s.parked.filter (pick s) = [] := List.filter_eq_nil_iff.mpr fun p hp => by simp [h p hp]
  simp only [replayWhere, hnil, List.foldl_nil]

/-- The only parked access is the one that is replayed. -/
theorem replayWhere_single {pick : State → Parked → Bool} {s : State} {p : Parked} (hp : s.parked = [p])
    (h : pick s p = true) : replayWhere pick s = replay p s := by
  simp [replayWhere, hp, h]

@[simp] theorem parkLeft_nil (ag : Ag) (op : Nat) (acc : Acc) (clause : Nat) (s : State) :
    parkLeft ag op acc clause [] s = s := rfl

theorem chargeRan_sound {ag : Ag} {r : Ran} (s : State) (hleft : r.left = []) (heaten : r.eaten = none) :
    chargeRan ag r s = s := by
  simp only [chargeRan, hleft, heaten, List.findSome?_nil]

/-- A replayed access that is served whole gives up its entry, and its operation takes the results (R178). -/
theorem replay_served {s : State} {p : Parked} {a : Ag} {gk : Nat} (hp : s.parked = [p]) (hgroup : p.group = gk)
    (ha : agOf s gk = some a)
    {r : Ran} (hr : r = tryAccess { a with clause := p.clause } p.op p.acc p.lanes { s with parked := [{ p with lanes := [] }] })
    (hleft : r.left = []) (heaten : r.eaten = none) (hst : r.st.parked = [{ p with lanes := [] }]) :
    replay p s = serveOp gk p.op r.results { r.st with parked := [] } := by
  subst hgroup
  have hmark : (s.parked.map fun x => if x = p then { x with lanes := [] } else x) = [{ p with lanes := [] }] := by
    simp [hp]
  have hag : agOf { s with parked := [{ p with lanes := [] }] } p.group = some a := ha
  simp only [replay, hmark, hag, ← hr, hleft, parkLeft_nil, hst]
  rw [chargeRan_sound _ hleft heaten]
  simp

theorem exec_engineNakResend (s : State) :
    exec .engineNakResend s = .next (flushWindow (gkey s.env.core s.env.slot) s.env.kind s) := rfl

section
variable {s : State} {gk e : Nat} {g : Group} (hg : sfind s.groups gk = some g)
include hg

theorem flushWindow_empty (h : windowOf g e = []) : flushWindow gk e s = s := by
  simp only [flushWindow, hg, h, flushGo]

variable {w : WinCmd} {rest : List WinCmd} (hw : windowOf g e = w :: rest)
include hw

theorem flushWindow_held (h : pathHeld g e w.cmd.op = true) : flushWindow gk e s = s := by
  simp only [flushWindow, hg, hw, flushGo, h, if_true]

variable (hfree : pathHeld g e w.cmd.op = false)
include hfree

/-- An engine without room NAKs the window's first command (R108). -/
theorem flushWindow_full (h : engRoom s (keyCore gk) e = false) : flushWindow gk e s =
    let s1 := modGroup s gk fun g =>
      { g with window := g.window.map fun x => if x.cmd.op = w.cmd.op then { x with naked := true } else x }
    if e = 3 then s1 else countNak (keyCore gk) s1 := by
  simp only [flushWindow, hg, hw, flushGo, hfree, h, Bool.false_eq_true, if_false]

theorem flushWindow_room (h : engRoom s (keyCore gk) e = true) (hrest : rest = []) : flushWindow gk e s =
    acceptCmd (keyCore gk) e w.cmd
      (modGroup s gk fun g => { g with window := g.window.filter fun x => x.cmd.op != w.cmd.op }) := by
  simp only [flushWindow, hg, hw, flushGo, hfree, h, Bool.false_eq_true, if_false, if_true, hrest]

end

@[simp] theorem dmaOf_putDma (s : State) (e k : Nat) (q : List DmaEnt) : dmaOf (putDma s e k q) e k = q := by
  unfold dmaOf putDma
  split <;> simp

/-- What a full engine leaves: the command marked as NAKed, and a NAK counted but for the link engine (R109). -/
theorem flushWindow_naks {s : State} {gk e : Nat} {g : Group} {w : WinCmd} {rest : List WinCmd}
    (hg : sfind s.groups gk = some g) (hw : windowOf g e = w :: rest) (hfree : pathHeld g e w.cmd.op = false)
    (hfull : engRoom s (keyCore gk) e = false) :
    let t := flushWindow gk e s
    sfind t.groups gk = some { g with
      window := g.window.map fun x => if x.cmd.op = w.cmd.op then { x with naked := true } else x } ∧
    (∀ k, k ≠ gk → sfind t.groups k = sfind s.groups k) ∧ { t with groups := s.groups, cores := s.cores } = s ∧
    (coreSt t (keyCore gk)).naks =
      if e = 3 then (coreSt s (keyCore gk)).naks else min ((coreSt s (keyCore gk)).naks + 1) 0xFFFF := by
  rw [flushWindow_full hg hw hfree hfull]
  by_cases he : e = 3
  · simp only [if_pos he]
    exact ⟨by simp [hg], fun k hk => Laws.sfind_smod_ne _ _ hk, rfl, rfl⟩
  · simp only [if_neg he]
    exact ⟨by simp [hg, countNak, modCore, putCore], fun k hk => Laws.sfind_smod_ne _ _ hk, rfl,
      congrArg CoreSt.naks (coreSt_modCore _ _ _)⟩

/-- The copy engine takes the only command of a window: it stands last in the queue. -/
theorem flushWindow_copy {s : State} {gk : Nat} {g : Group} {w : WinCmd} (hg : sfind s.groups gk = some g)
    (hw : g.window = [w]) (he : w.engine = 1) (hfree : pathHeld g 1 w.cmd.op = false)
    (hroom : engRoom s (keyCore gk) 1 = true) :
    let t := flushWindow gk 1 s
    dmaOf t 1 (keyCore gk) = dmaOf s 1 (keyCore gk) ++ [⟨w.cmd, none, 0, [], false⟩] ∧
    (w.cmd.group = gk → sfind t.groups gk = some { g with
      window := []
      ops := g.ops.map fun o => if o.id = w.cmd.op then { o with kind := .engine 1 1 } else o }) := by
  have hwin : windowOf g 1 = [w] := by simp [windowOf, hw, he]
  rw [flushWindow_room hg hwin hfree hroom rfl]
  refine ⟨dmaOf_putDma _ _ _ _, fun hgroup => ?_⟩
  simp [acceptCmd, acceptDma, putDma, modOp, hgroup, hg, hw]

end Sys2Proof.Proofs
end

section
/-! PROOFS. Matrix, copy and link engines: rows, tokens and segments (R250 to R262, R455, R463). -/

namespace Sys2Proof.Proofs
open Machine

/-! ### Bytes of local memories -/

theorem cellByte_foldl_mapIdx (cells : List Host.Cell) (a : Nat) (bs : List Byte) (x : Nat) :
    cellByte ((bs.mapIdx fun i b => (a + i, b)).foldl (fun cells e => sput 0 cells e.1 e.2) cells) x =
      if a ≤ x ∧ x < a + bs.length then bs.getD (x - a) 0 else cellByte cells x := by
  have hput (cells : List Host.Cell) (a : Nat) :
      (bs.mapIdx fun i b => (a + i, b)).foldl (fun cells e => sput 0 cells e.1 e.2) cells = cellPut cells a bs := by
    induction bs generalizing cells a with
    | nil => rfl
    | cons b bs ih =>
      have hshift : (fun i (b : Byte) => (a + (i + 1), b)) = fun i b => (a + 1 + i, b) := by
        funext i b; rw [Nat.add_assoc, Nat.add_comm i 1]
      rw [List.mapIdx_cons, List.foldl_cons, hshift]
      exact ih _ _
  rw [hput]
  exact Laws.sget_cellPut cells a bs x

@[simp] theorem spaceCells_withCells (c : CoreSt) (spc : Space) (m : List Host.Cell) :
    spaceCells (withCells c spc m) spc = m := by cases spc <;> rfl

@[simp] theorem spaceCells_withPoison (c : CoreSt) (spc spc' : Space) (p : NatSet) :
    spaceCells (withPoison c spc p) spc' = spaceCells c spc' := by cases spc <;> cases spc' <;> rfl

theorem spaceCells_localWrite (core : Nat) (spc : Space) (m : List (Nat × Byte)) (s : State) :
    spaceCells (coreSt (localWrite core spc m s) core) spc =
      m.foldl (fun cells e => sput 0 cells e.1 e.2) (spaceCells (coreSt s core) spc) := by
  rw [localWrite, coreSt_modCore]
  dsimp only
  split <;> simp

theorem localBytes_localWrite_self {n : Nat} (core : Nat) (spc : Space) (a : Nat) (bs : List Byte) (s : State)
    (hn : bs.length = n) : localBytes (localWrite core spc (bs.mapIdx fun i b => (a + i, b)) s) core spc a n = bs := by
  subst hn
  refine List.ext_getElem (by simp [localBytes, cellBytes]) fun i hi hi' => ?_
  simp only [localBytes, cellBytes, spaceCells_localWrite, List.getElem_map, List.getElem_range, cellByte_foldl_mapIdx]
  rw [if_pos (by omega), Nat.add_sub_cancel_left, List.getD_eq_getElem?_getD, List.getElem?_eq_getElem hi', Option.getD_some]

theorem localBytes_localWrite_apart (core : Nat) (spc : Space) {a b n : Nat} (bs : List Byte) (s : State)
    (hapart : a + bs.length ≤ b ∨ b + n ≤ a) :
    localBytes (localWrite core spc (bs.mapIdx fun i y => (a + i, y)) s) core spc b n = localBytes s core spc b n := by
  simp only [localBytes, cellBytes, spaceCells_localWrite]
  refine List.map_congr_left fun i hi => ?_
  have hin := List.mem_range.mp hi
  rw [cellByte_foldl_mapIdx, if_neg (by omega)]

/-! ### Rows of a matrix operation (R250, R251, R257) -/

/-- What accumulator j of a row becomes. -/
def accNew (m : Member) (row j code : Nat) (s : State) : Nat :=
  let old := accVal m.fmt (ofLeBytes (localBytes s m.core .ms (accAddr m.w m.block m.fmt row j) (accSize m.fmt)))
  if m.block.acc then accCode m.fmt (arrayRound m.fmt (fpAdd false old (accVal m.fmt code))) else code

/-- One sum of a row lands. -/
def landOne (m : Member) (row : Nat) (s : State) (e : Nat × Nat) : State :=
  localWrite m.core .ms ((leBytes (accSize m.fmt) (accNew m row e.1 e.2 s)).mapIdx fun i y =>
    (accAddr m.w m.block m.fmt row e.1 + i, y)) s

theorem landRow_eq (m : Member) (row : Nat) (codes : List Nat) (s : State) :
    landRow m row codes s = (codes.mapIdx fun j c => (j, c)).foldl (landOne m row) s := rfl

section
variable (m : Member) (row : Nat)

theorem localBytes_landOne_self (s : State) (e : Nat × Nat) :
    localBytes (landOne m row s e) m.core .ms (accAddr m.w m.block m.fmt row e.1) (accSize m.fmt) =
      leBytes (accSize m.fmt) (accNew m row e.1 e.2 s) :=
  localBytes_localWrite_self _ _ _ _ _ (length_leBytes _ _)

/-- Accumulators of a row do not overlap. -/
theorem localBytes_landOne_ne (s : State) {e : Nat × Nat} {j : Nat} (h : j ≠ e.1) :
    localBytes (landOne m row s e) m.core .ms (accAddr m.w m.block m.fmt row j) (accSize m.fmt) =
      localBytes s m.core .ms (accAddr m.w m.block m.fmt row j) (accSize m.fmt) := by
  refine localBytes_localWrite_apart _ _ _ _ ?_
  rw [length_leBytes]
  unfold accAddr
  rcases Nat.lt_or_gt_of_ne h with hlt | hgt
  · have := Nat.mul_le_mul_right (accSize m.fmt) (Nat.succ_le_of_lt hlt)
    rw [Nat.succ_mul] at this
    omega
  · have := Nat.mul_le_mul_right (accSize m.fmt) (Nat.succ_le_of_lt hgt)
    rw [Nat.succ_mul] at this
    omega

theorem localBytes_landAll_ne (es : List (Nat × Nat)) (s : State) {j : Nat} (h : ∀ e ∈ es, j ≠ e.1) :
    localBytes (es.foldl (landOne m row) s) m.core .ms (accAddr m.w m.block m.fmt row j) (accSize m.fmt) =
      localBytes s m.core .ms (accAddr m.w m.block m.fmt row j) (accSize m.fmt) := by
  induction es generalizing s with
  | nil => rfl
  | cons e es ih =>
    rw [List.foldl_cons, ih _ fun e he => h e (List.mem_cons_of_mem _ he), localBytes_landOne_ne _ _ _ (h e (by simp))]

theorem localBytes_landAll (es : List (Nat × Nat)) (s : State) {j code : Nat} (hnd : (es.map fun e => e.1).Nodup)
    (h : (j, code) ∈ es) :
    localBytes (es.foldl (landOne m row) s) m.core .ms (accAddr m.w m.block m.fmt row j) (accSize m.fmt) =
      leBytes (accSize m.fmt) (accNew m row j code s) := by
  induction es generalizing s with
  | nil => exact absurd h (by simp)
  | cons e es ih =>
    obtain ⟨hfirst, hrest⟩ := List.nodup_cons.mp hnd
    rw [List.foldl_cons]
    rcases List.mem_cons.mp h with rfl | hmem
    · rw [localBytes_landAll_ne m row es _ fun e he heq => hfirst (List.mem_map.mpr ⟨e, he, heq.symm⟩)]
      exact localBytes_landOne_self m row s _
    · have hne : j ≠ e.1 := fun heq => hfirst (List.mem_map.mpr ⟨_, hmem, heq⟩)
      rw [ih _ hrest hmem, accNew, localBytes_landOne_ne m row s hne]
      rfl

/-- Each sum of a row lands in its own accumulator (R251). -/
theorem localBytes_landRow (codes : List Nat) (s : State) {j : Nat} (hj : j < codes.length) :
    localBytes (landRow m row codes s) m.core .ms (accAddr m.w m.block m.fmt row j) (accSize m.fmt) =
      leBytes (accSize m.fmt) (accNew m row j (codes.getD j 0) s) := by
  have hkeys : ((codes.mapIdx fun j c => (j, c)).map fun e => e.1) = List.range codes.length :=
    List.ext_getElem (by simp) fun i hi hi' => by simp
  have hcode : codes.getD j 0 = codes[j] := by
    rw [List.getD_eq_getElem?_getD, List.getElem?_eq_getElem hj, Option.getD_some]
  rw [landRow_eq, hcode]
  exact localBytes_landAll m row _ s (hkeys ▸ List.nodup_range) (List.mem_mapIdx.mpr ⟨j, hj, rfl⟩)

end

section
variable {s : State} {core : Nat} {m : Member} (hm : headMember s core = some m)
include hm

theorem runHead_msmld (hstop : m.w.stopping = false) {w64 : Bool} {d : Opnd} {lanes : List (Nat × Nat)}
    (hcmd : m.ent.cmd.cmd = .msmld w64 d lanes) : runHead core s = modOp m.ent.cmd.group m.ent.cmd.op
      (fun o => { o with results := o.results ++ msmRead s m w64 d lanes }) (popHead s m) := by
  simp only [runHead, hm, hcmd, hstop, Bool.false_eq_true, if_false]

theorem runHead_msmst (hstop : m.w.stopping = false) {w64 : Bool} {lanes : List (Nat × Nat × Nat)}
    (hcmd : m.ent.cmd.cmd = .msmst w64 lanes) : runHead core s = popHead (msmWrite m w64 lanes s) m := by
  simp only [runHead, hm, hcmd, hstop, Bool.false_eq_true, if_false]

theorem runHead_mma {b : List Nat} {ar br ag : List Byte} {fl : Nat} (hcmd : m.ent.cmd.cmd = .mma b ar br ag fl) :
    runHead core s = runEngine core (stepsLeft s core) s := by
  simp only [runHead, hm, hcmd]

end

theorem shapeStep_none {s : State} {core : Nat} (h : otherShape s core = none) : shapeStep core s = s := by
  simp only [shapeStep, h]

theorem shapeStep_some {s : State} {core : Nat} {x : Member} (h : otherShape s core = some x) :
    shapeStep core s = shapeKill x s := by
  simp only [shapeStep, h]

/-- With no token held there is no slice and no end of an operation to handle. -/
theorem sliceStep_of_rx {s : State} {core : Nat} (h : (mxOf s core).rx = []) : sliceStep core s = s := by
  simp only [sliceStep, channel, h, List.filter_nil]

theorem endStep_of_rx {s : State} {core : Nat} (h : (mxOf s core).rx = []) : endStep core s = s := by
  simp only [endStep, channel, h, List.filter_nil]

/-- An engine whose loads are done and that holds no token works its next row (R257, R268). -/
theorem runEngine_row {s : State} {core k : Nat} {x : Member} {b : Slot} {r : RowIn} (hleft : 0 < stepsLeft s core)
    (hshape : otherShape s core = none) (hload : loadStep core s = s) (hrx : (mxOf s core).rx = [])
    (hstep : stepReady s core = some (x, b, r)) : runEngine core (k + 1) s = runEngine core k (workRow x b r s) := by
  have hquiet : endStep core (sliceStep core (loadStep core (shapeStep core s))) = s := by
    rw [shapeStep_none hshape, hload, sliceStep_of_rx hrx, endStep_of_rx hrx]
  conv => lhs; unfold runEngine
  simp only [hquiet, hstep, if_pos hleft]

theorem workRow_sound {x : Member} {b : Slot} {r : RowIn} {s : State}
    (hshape : wrongShape x (r.fromWest ++ r.fromNorth) = false)
    (hpoison : operandPoisoned s x x.recA x.block.a x.block.asrc [x.ent.row] (x.lo x.cfg.bi) (x.hi x.cfg.bi) = false) :
    workRow x b r s = countRow x (emitRow x r (memberSums s x r.a b.strip r.north)
      (dropChannel x.core 1 1 r.fromWest.length (dropChannel x.core 0 2 r.fromNorth.length s))) := by
  simp only [workRow, hshape, hpoison, Bool.and_false, Bool.false_eq_true, if_false]

/-! ### Tokens (R261, R262) -/

theorem mxOf_modMx_ne (s : State) {k c : Nat} (f : MxSt → MxSt) (h : c ≠ k) : mxOf (modMx s k f) c = mxOf s c :=
  Laws.sget_sput_ne _ _ _ h

@[simp] theorem mxOf_countNak (s : State) (k c : Nat) : mxOf (countNak k s) c = mxOf s c := rfl

section
variable {s : State} {from' : Nat} {t0 : Token} {rest : List (Nat × Token)}
  (hlink : linkEnd s s.env.core (s.env.port % 2) = some from')
  (hnext : nextToken (mxOf s from') s.env.core (s.env.port % 2) s.env.kind = some (t0, rest))
include hlink hnext

/-- A token whose parity fails, or with a tag that no link carries, is consumed by the gang. -/
theorem exec_operandTokenReceive_bad (hbad : tokenSound (flipToken s.env.mask s.env.bytes t0) = false ∨
    6 ≤ tokenTag (flipToken s.env.mask s.env.bytes t0) ∨ tokenTag (flipToken s.env.mask s.env.bytes t0) = 3) :
    exec .operandTokenReceive s =
      .next (consumeGang 3 s.env.core (modMx s from' fun x => { x with tx := rest })) := by
  have htest : (!tokenSound (flipToken s.env.mask s.env.bytes t0) ||
      decide (6 ≤ tokenTag (flipToken s.env.mask s.env.bytes t0)) ||
      tokenTag (flipToken s.env.mask s.env.bytes t0) == 3) = true := by
    rcases hbad with h | h | h <;> simp [h]
  change execOperandTokenReceive s = _
  simp only [execOperandTokenReceive, hlink, hnext, htest, if_true]

theorem exec_operandTokenReceive_sound (hgood : ¬ (tokenSound (flipToken s.env.mask s.env.bytes t0) = false ∨
    6 ≤ tokenTag (flipToken s.env.mask s.env.bytes t0) ∨ tokenTag (flipToken s.env.mask s.env.bytes t0) = 3)) :
    exec .operandTokenReceive s = .next (takeToken from' s.env.core (s.env.port % 2) s.env.kind
      (flipToken s.env.mask s.env.bytes t0) rest s) := by
  obtain ⟨hsound, htag⟩ := not_or.mp hgood
  obtain ⟨hsix, hthree⟩ := not_or.mp htag
  have htest : (!tokenSound (flipToken s.env.mask s.env.bytes t0) ||
      decide (6 ≤ tokenTag (flipToken s.env.mask s.env.bytes t0)) ||
      tokenTag (flipToken s.env.mask s.env.bytes t0) == 3) = false := by
    simp only [Bool.not_eq_false] at hsound
    simp [hsound, hsix, hthree]
  change execOperandTokenReceive s = _
  simp only [execOperandTokenReceive, hlink, hnext, htest, Bool.false_eq_true, if_false]

end

/-- A token that finds room stands last among those its receiver holds, and has left its sender. -/
theorem takeToken_room {s : State} {from' core link vc : Nat} {t : Token} {rest : List (Nat × Token)}
    (hne : from' ≠ core) (hroom : (channel (mxOf s core) link vc).length < 16) :
    let u := takeToken from' core link vc t rest s
    mxOf u core = { mxOf s core with rx := (mxOf s core).rx ++ [t] } ∧
    mxOf u from' = { mxOf s from' with tx := rest } ∧ (∀ c, c ≠ core → c ≠ from' → mxOf u c = mxOf s c) := by
  simp only [takeToken, if_pos hroom]
  refine ⟨?_, ?_, fun c hc hc' => ?_⟩
  · rw [mxOf_modMx, mxOf_modMx_ne _ _ hne.symm]
  · rw [mxOf_modMx_ne _ _ hne, mxOf_modMx]
  · rw [mxOf_modMx_ne _ _ hc, mxOf_modMx_ne _ _ hc']

/-- A token without room stops its channel at the sender, which counts the NAK. -/
theorem takeToken_full {s : State} {from' core link vc : Nat} {t : Token} {rest : List (Nat × Token)}
    (hfull : 16 ≤ (channel (mxOf s core) link vc).length) :
    let u := takeToken from' core link vc t rest s
    mxOf u from' = { mxOf s from' with resend := (mxOf s from').resend ++ [(core, link, vc)] } ∧
    (∀ c, c ≠ from' → mxOf u c = mxOf s c) ∧
    coreSt u from' = { coreSt s from' with naks := min ((coreSt s from').naks + 1) 0xFFFF } := by
  simp only [takeToken, if_neg (Nat.not_lt.mpr hfull)]
  refine ⟨?_, fun c hc => ?_, coreSt_modCore _ _ _⟩
  · rw [mxOf_countNak, mxOf_modMx]
  · rw [mxOf_countNak, mxOf_modMx_ne _ _ hc]

/-! ### Copy and link commands (R455, R458, R463) -/

section
variable {e key n : Nat} {x : DmaEnt} {s : State}

theorem runSegs_past (h : cmdSegs x.cmd.cmd ≤ x.pos) : runSegs e key (cmdSegs x.cmd.cmd) n x s = (x, s) := by
  cases n with
  | zero => rfl
  | succ n => simp only [runSegs, if_pos h]

/-- A command past its last segment, with nothing patched, is closed. -/
theorem workDma_past (haside : x.aside = false) (hpatch : x.patch = []) (hpos : x.pos = cmdSegs x.cmd.cmd)
    (hmem : x ∈ dmaOf s e key) : workDma e key n x s = closeDma e key (cmdSegs x.cmd.cmd) x s := by
  simp only [workDma, haside, Bool.false_eq_true, if_false, runSegs_past (Nat.le_of_eq hpos.symm), hpatch, List.isEmpty_nil,
    Bool.not_true, false_and, and_false]
  exact if_pos (List.contains_iff_mem.mpr hmem)

/-- A segment that is moved leaves the command at the next one (R455). -/
theorem workDma_segment {u : State} (haside : x.aside = false) (hpatch : x.patch = [])
    (hpos : x.pos + 1 < cmdSegs x.cmd.cmd) (hseg : runSeg (engOf e x) x.cmd.cmd x.pos s = (.ok, u)) :
    workDma e key 1 x s = modDma u e key x { x with pos := x.pos + 1 } := by
  have hrun : runSegs e key (cmdSegs x.cmd.cmd) 1 x s =
      ({ x with pos := x.pos + 1 }, modDma u e key x { x with pos := x.pos + 1 }) := by
    simp only [runSegs, if_neg (show ¬ cmdSegs x.cmd.cmd ≤ x.pos by omega), hseg]
  have hclose (v : State) : closeDma e key (cmdSegs x.cmd.cmd) { x with pos := x.pos + 1 } v = v := if_pos hpos
  have hnext : ({ x with pos := x.pos + 1 } : DmaEnt).patch = [] := hpatch
  generalize ({ x with pos := x.pos + 1 } : DmaEnt) = y at hrun hclose hnext ⊢
  simp only [workDma, haside, Bool.false_eq_true, if_false, hrun, hnext, List.isEmpty_nil, Bool.not_true, false_and,
    and_false, hclose, ite_self]

theorem closeDma_waits (hpatch : x.patch = []) (hpos : x.pos = cmdSegs x.cmd.cmd) (hun : unacked s (dmaName e x) = true) :
    closeDma e key (cmdSegs x.cmd.cmd) x s = s := by
  simp [closeDma, hpos, hpatch, hun]

/-- Without a completion word a command whose writes are acknowledged is finished. -/
theorem closeDma_done (hpatch : x.patch = []) (hpos : x.pos = cmdSegs x.cmd.cmd) (hun : unacked s (dmaName e x) = false)
    (hword : (cmdWord x.cmd.cmd).1 = 0) : closeDma e key (cmdSegs x.cmd.cmd) x s =
      finishDma e key { x with pos := x.pos + 1 } (modDma s e key x { x with pos := x.pos + 1 }) := by
  have hrun : runWord (engOf e x) x.cmd.cmd s = (.ok, s) := by
    unfold runWord
    split
    · simp_all
    · simp_all
    · rfl
  have hports (y : DmaEnt) : (modDma s e key x y).ports = s.ports := by
    unfold modDma putDma
    split <;> rfl
  have hacked (y : DmaEnt) (hy : dmaName e y = dmaName e x) : unacked (modDma s e key x y) (dmaName e y) = false := by
    rw [unacked, hports, hy]
    exact hun
  have hend (y : DmaEnt) (hy : dmaName e y = dmaName e x) :
      endDma e key y (modDma s e key x y) = finishDma e key y (modDma s e key x y) := by
    rw [endDma, hacked y hy]
    rfl
  rw [← hend { x with pos := x.pos + 1 } rfl]
  simp only [closeDma, ← hpos, Nat.lt_irrefl, if_false, hpatch, List.isEmpty_nil, Bool.not_true, Bool.false_eq_true, hun, hrun]

end

theorem finishDma_single {e k : Nat} {x : DmaEnt} {u : State} (hq : dmaOf u e k = [x]) (hp : x.packet = none) :
    finishDma e k x u =
      modOp x.cmd.group x.cmd.op (fun o => { o with ready := true, lanes := 0 }) (putDma u e k []) := by
  simp [finishDma, hq, hp]

/-- A finished command has left its queue. -/
theorem dmaOf_finishDma_single {e k : Nat} {x : DmaEnt} {u : State} (hq : dmaOf u e k = [x]) (hp : x.packet = none) :
    dmaOf (finishDma e k x u) e k = [] := by
  rw [finishDma_single hq hp]
  exact dmaOf_putDma u e k []

section
variable {s : State} {x : DmaEnt} (haside : x.aside = false) (hstop : dmaStopping s x = false)
include haside hstop

/-- The copy engine works on its only command, as many segments as the event covers. -/
theorem exec_copyCommandComplete_single (hq : dmaOf s 1 s.env.core = [x]) : exec .copyCommandComplete s =
    .next (finishCopies (fun _ _ => true)
      (workDma 1 s.env.core (min (segCount s.env.size) (cmdSegs x.cmd.cmd)) x s)) := by
  have hbound : execCopyCommandComplete.segBound s = cmdSegs x.cmd.cmd := by
    simp [execCopyCommandComplete.segBound, hq]
  have hresume (n : Nat) : resumeAside 1 s.env.core n s = s := by simp [resumeAside, hq, haside]
  change execCopyCommandComplete s = _
  simp only [execCopyCommandComplete, hbound, workCopy, hresume, hq]
  simp [haside, hstop]

omit haside in
/-- The link engine works on its first command. -/
theorem exec_linkTransferComplete_single (hq : dmaOf s 3 s.env.core = [x]) (hidx : s.env.index = 0) :
    exec .linkTransferComplete s =
      .next (workDma 3 s.env.core (min (segCount s.env.size) (cmdSegs x.cmd.cmd)) x s) := by
  change execLinkTransferComplete s = _
  simp [execLinkTransferComplete, hq, hidx, hstop, linkMayRun, inOrder]

end

/-- An event that covers one segment moves one where the command has more. -/
theorem segments_one {s : State} {n : Nat} (hsize : s.env.size = 1) (hn : 0 < n) : min (segCount s.env.size) n = 1 := by
  have hone : segCount s.env.size = 1 := by rw [hsize]; rfl
  omega

end Sys2Proof.Proofs
end

section
/-! PROOFS. The sweep engine: maps, notices, watches and the decision (R274, R283 to R290). -/

namespace Sys2Proof.Proofs
open Machine

/-! ### Maps of a sweep engine (R274, R283) -/

@[simp] theorem swOf_modSw (s : State) (k : Nat) (f : SwSt → SwSt) : swOf (modSw s k f) k = f (swOf s k) := by
  simp [swOf, modSw]

theorem cellByte_localWrite_one (core a : Nat) (b : Byte) (s : State) (x : Nat) :
    cellByte (coreSt (localWrite core .sp [(a, b)] s) core).sp x = if x = a then b else cellByte (coreSt s core).sp x := by
  have hcells : (coreSt (localWrite core .sp [(a, b)] s) core).sp = sput 0 (coreSt s core).sp a b :=
    spaceCells_localWrite core .sp [(a, b)] s
  rw [hcells]
  exact Laws.sget_sput 0 _ a b x

/-- A byte one of whose bits is cleared has that bit 0. -/
theorem testBit_clearBit {b k : Nat} (hb : b < 256) :
    (BitVec.ofNat 8 (b - if b.testBit k then 2 ^ k else 0)).toNat.testBit k = false := by
  have hlt : b - (if b.testBit k then 2 ^ k else 0) < 2 ^ 8 := by omega
  rw [BitVec.toNat_ofNat, Nat.mod_eq_of_lt hlt]
  split
  · have hodd : b / 2 ^ k % 2 = 1 := by simpa [Nat.testBit_eq_decide_div_mod_eq] using ‹b.testBit k = true›
    have hdiv : (b - 2 ^ k) / 2 ^ k = b / 2 ^ k - 1 := by
      simpa using Nat.sub_mul_div b (2 ^ k) 1
    rw [Nat.testBit_eq_decide_div_mod_eq, hdiv, decide_eq_false]
    omega
  · simpa using ‹¬ b.testBit k = true›

section
variable (core : Nat) (d : SwDecl) (n : Nat)

theorem mapBase_setMap (w w' v : Bool) (s : State) : mapBase (setMap core d w' n v s) core d w = mapBase s core d w := rfl

/-- Clearing the bit of an element in one map leaves it clear there, and where it was clear in either. -/
theorem mapBit_setMap_clear (w w' : Bool) (s : State) (h : w = w' ∨ mapBit s core d w n = false) :
    mapBit (setMap core d w' n false s) core d w n = false := by
  rw [mapBit, mapBase_setMap, setMap, cellByte_localWrite_one]
  split
  · exact testBit_clearBit (BitVec.isLt _)
  · rcases h with rfl | h
    · exact absurd rfl ‹¬ _›
    · exact h

/-- An element that rises is no longer proofing (R283). -/
theorem mapBit_rise (s : State) : mapBit (rise core d n s) core d false n = false :=
  mapBit_setMap_clear core d n false true _ (.inr (mapBit_setMap_clear core d n false false s (.inl rfl)))

end

/-! ### Notices and merges (R286) -/

theorem exec_remoteWakeNotify (s : State) :
    exec .remoteWakeNotify s = .next (settleSweep s.env.core (takeNotices s.env.core s)) := rfl

theorem takeNotices_idle {s : State} {core : Nat} (h : (swOf s core).notices = [] ∨ (swOf s core).starting.isSome = true) :
    takeNotices core s = s := by
  have htest : ((swOf s core).notices.isEmpty || (swOf s core).starting.isSome) = true := by
    rcases h with h | h <;> simp [h]
  simp only [takeNotices, htest, if_true]

/-- Of a word with one bit only that bit's element is applied. -/
theorem foldl_range_oneBit {α : Type} (n b : Nat) (f : Nat → α → α) (r : α) :
    (List.range n).foldl (fun r i => if (2 ^ b).testBit i then f i r else r) r = if b < n then f b r else r := by
  induction n with
  | zero => rfl
  | succ n ih =>
    rw [List.range_succ, List.foldl_append, ih, List.foldl_cons, List.foldl_nil, Nat.testBit_two_pow]
    rcases Nat.lt_trichotomy b n with hlt | rfl | hgt
    · simp [hlt, Nat.lt_succ_of_lt hlt, Nat.ne_of_lt hlt]
    · simp
    · simp [Nat.not_lt_of_gt hgt, Nat.ne_of_gt hgt, show ¬ b < n + 1 by omega]

theorem applyWord_oneBit {core : Nat} {d : SwDecl} {j b : Nat} (r : Bool × State) (hb : b < 64) :
    applyWord core d j (2 ^ b) r =
      (r.1 || (applyWake core d (d.first + 64 * j + b) r.2).1, (applyWake core d (d.first + 64 * j + b) r.2).2) := by
  have h := foldl_range_oneBit 64 b (fun i r =>
    (r.1 || (applyWake core d (d.first + 64 * j + i) r.2).1, (applyWake core d (d.first + 64 * j + i) r.2).2)) r
  rw [if_pos hb] at h
  exact h

/-- A wake that finds its element waiting without a condition makes it rise. -/
theorem applyWake_rises {u v : State} {core w n : Nat} {d : SwDecl} (hundec : runDecided u core d = false)
    (hbatch : inBatch (swOf u core) n = false) (hpart : d.first ≤ n ∧ n < d.first + d.count)
    (hbit : mapBit u core d false n = true) (hctx : readCtx (swEng u core) d n u = (.ok, v, w)) (hkind : w / 2 ^ 21 % 8 = 3) :
    applyWake core d n u = (true, rise core d n v) := by
  have hk : cwKind w = 3 := (field_eq w 21 3).trans hkind
  have hin : inPart d n = true := by simp [inPart, hpart]
  simp only [applyWake, hundec, hbatch, hin, hbit, hctx, hk, Bool.not_true, Bool.or_self, Bool.false_eq_true, if_false]

/-- A merge of a partition of at most 64 elements, whose plane names one that rises. -/
theorem mergePlane_one {s u v : State} {core b w : Nat} {d : SwDecl} (hdecl : (swOf s core).decl = some d)
    (hb : b < d.count) (hcount : d.count ≤ 64)
    (hplane : swRmw (swEng s core) .atomic (d.wplane % 2 ^ 57) 8 (fun _ => some 0) s = (.ok, u, 2 ^ b))
    (hundec : runDecided u core d = false) (hbatch : inBatch (swOf u core) (d.first + b) = false)
    (hbit : mapBit u core d false (d.first + b) = true)
    (hctx : readCtx (swEng u core) d (d.first + b) u = (.ok, v, w)) (hkind : w / 2 ^ 21 % 8 = 3) :
    mergePlane core s = unstallIf core true (rise core d (d.first + b) v) := by
  have hwords : (d.count + 63) / 64 = 1 := by omega
  have hrises := applyWake_rises hundec hbatch ⟨Nat.le_add_right _ _, Nat.add_lt_add_left hb _⟩ hbit hctx hkind
  have hword : applyWord core d 0 (2 ^ b) (false, u) = (true, rise core d (d.first + b) v) := by
    rw [applyWord_oneBit _ (by omega), Nat.mul_zero, Nat.add_zero, hrises]
    rfl
  have hmerge : mergeWords core d 1 0 (false, s) = (true, rise core d (d.first + b) v) := by
    simp only [mergeWords, Nat.mul_zero, Nat.add_zero, hplane, hword]
  simp only [mergePlane, hdecl, hwords, hmerge]

/-- The only notice of an engine that serves its partition: a merge, then the acknowledgement. -/
theorem takeNotices_one {s : State} {core : Nat} {n : Notice} (hn : (swOf s core).notices = [n])
    (hstart : (swOf s core).starting = none) (hserves : serves (swOf s core) n.wake = true) :
    let z := modSw (mergePlane core s) core fun x => { x with notices := [] }
    takeNotices core s = wakeStep4 (ackCore z core n) n.wake z := by
  simp [takeNotices, hn, hstart, hserves]

theorem serves_of {x : SwSt} {d : SwDecl} {w : WakeTo} (hdecl : x.decl = some d) (hdom : w.dom = domOf d)
    (hpart : w.part = d.part) (hrun : x.run = 1 ∨ x.run = 2) : serves x w = true := by
  rcases hrun with h | h <;> simp [serves, h, hdecl, hdom, hpart]

/-! ### Sweeps and watches (R287, R289) -/

section
variable {u : State} {core : Nat} {d : SwDecl} (hdecl : (swOf u core).decl = some d)
include hdecl

theorem unstallIf_moving (hrun : (swOf u core).run ≠ 2) : unstallIf core true u = u := by
  simp [unstallIf, unstall, hdecl, hrun]

/-- A stalled partition whose run is not decided moves again (R286). -/
theorem unstallIf_stalled (hrun : (swOf u core).run = 2) (hundec : runDecided u core d = false) :
    unstallIf core true u = newSweep core (addStat core (domOf d) 0 (-1) 0 (.stat (-1) 0) u).1 := by
  simp [unstallIf, unstall, hdecl, hrun, hundec]

theorem newSweep_eq : newSweep core u = rereadWatch core (modSw u core fun x =>
    { x with run := 1, sweep := min (x.sweep + 1) (2 ^ 32 - 1), p := d.first, satisfied := [] }) := by
  simp only [newSweep, hdecl]

variable {z : State} (hz : z = modSw u core fun x => { x with satisfied := [] })
include hz

/-- Without an element that waits on a watch no word is read. -/
theorem rereadWatch_none
    (hnone : ∀ n, d.first ≤ n → n < d.first + d.count → mapBit z core d false n = false ∨ mapBit z core d true n = false) :
    rereadWatch core u = z := by
  have hwatchers : watchers core d z = ([], z) := by
    refine List.foldlRecOn (List.range d.count) _ (motive := fun r => r = ([], z)) rfl fun r hr i hi => ?_
    subst hr
    have hin := List.mem_range.mp hi
    rcases hnone (d.first + i) (by omega) (by omega) with h | h <;> simp [h]
  simp only [rereadWatch, hdecl, ← hz, hwatchers, List.foldl_nil]

/-- A partition of one element that waits on a watch: its slot is read, and the element noted where it is satisfied. -/
theorem rereadWatch_one {v t : State} {w : Nat} {b : Bool} (hcount : d.count = 1)
    (hproof : mapBit z core d false d.first = true) (hwatch : mapBit z core d true d.first = true)
    (hpatch : (swOf u core).patch = []) (hctx : readCtx (swEng z core) d d.first z = (.ok, v, w))
    (hclean : (swOf v core).patch = []) (hslot : slotDone (swEng v core) d (w / 2 ^ 13 % 256) v = (.ok, t, b)) :
    rereadWatch core u =
      if b = true then modSw t core fun x => { x with satisfied := nsAdd x.satisfied d.first } else t := by
  have hslotOf : w / 2 ^ 13 % 256 = cwSlot w := (field_eq w 13 8).symm
  have hpatchz : (swOf z core).patch = [] := by rw [hz, swOf_modSw]; exact hpatch
  have hwatchers : watchers core d z = ([(d.first, cwSlot w)], v) := by
    simp [watchers, hcount, hproof, hwatch, hpatchz, hctx]
  have hfresh : slotPatched (swOf v core) (cwSlot w) = false := by simp [slotPatched, hclean]
  rw [hslotOf] at hslot
  have hread : rereadSlot core d (cwSlot w) [(d.first, cwSlot w)] v =
      if b = true then modSw t core fun x => { x with satisfied := nsAdd x.satisfied d.first } else t := by
    simp only [rereadSlot, hfresh, Bool.false_eq_true, if_false, hslot, List.foldl_cons, List.foldl_nil, if_true]
  simp only [rereadWatch, hdecl, ← hz, hwatchers, List.foldl_cons, List.foldl_nil]
  exact hread

end

theorem exec_stalledWatchReread_idle {s : State} (h : (swOf s s.env.core).run ≠ 2 ∨ swStopping s s.env.core = true) :
    exec .stalledWatchReread s = .next s := by
  change execStalledWatchReread s = _
  rcases h with h | h <;> simp [execStalledWatchReread, h]

theorem exec_stalledWatchReread_stalled {s : State} (hrun : (swOf s s.env.core).run = 2)
    (hstop : swStopping s s.env.core = false) : exec .stalledWatchReread s = .next (settleSweep s.env.core
      (unstallIf s.env.core (!(swOf (rereadWatch s.env.core s) s.env.core).satisfied.isEmpty)
        (rereadWatch s.env.core s))) := by
  change execStalledWatchReread s = _
  simp [execStalledWatchReread, hrun, hstop]

/-! ### The decision (R290) -/

theorem exec_sweepDecisionNotify_untold {s : State} (h : (swOf s s.env.core).told = false) :
    exec .sweepDecisionNotify s = .next s := by
  change execSweepDecisionNotify s = _
  simp [execSweepDecisionNotify, h]

theorem exec_sweepDecisionNotify_told {s : State} (h : (swOf s s.env.core).told = true) : exec .sweepDecisionNotify s =
    .next (modSw (learn s.env.core s) s.env.core fun x => { x with told := false }) := by
  change execSweepDecisionNotify s = _
  simp [execSweepDecisionNotify, h]

section
variable {s u : State} {core v : Nat} {d : SwDecl} (hdecl : (swOf s core).decl = some d)
  (hrun : (swOf s core).run = 1 ∨ (swOf s core).run = 2) (hdec : (swOf s core).dec = 0)
  (hread : swRmw (swEng s core) .atomic d.dstat 8 (fun _ => none) s = (.ok, u, v))
include hdecl hrun hdec hread

/-- What an engine that does not know a decision makes of the domain status word. -/
theorem learn_reads : learn core s =
    let u1 := acquireScope u core (swEng u core).asid 4
    if v.testBit 63 then
      let u2 := modSw u1 core fun x => { x with dec := if dsDone v = d.pcount then 1 else 2 }
      writeWord core (swOf s core).waddr (wordVal (swOf u2 core)) u2
    else u1 := by
  have hknown : ¬ ((swOf s core).run = 0 ∨ (swOf s core).run = 3 ∨ (swOf s core).dec ≠ 0) := by omega
  simp only [learn, hdecl, if_neg hknown, hread]

end

/-- The completion word of a decided run is written, and its pulls have their answers. -/
theorem writeWord_own {s t : State} {core addr val old : Nat} (hwrite : swRmw (swEng s core) .write addr 8
    (fun _ => some val) (releaseScope s core (swEng s core).asid 4) = (.ok, t, old))
    (hown : (swOf t core).dec ≠ 0 ∧ (swOf t core).waddr = addr ∧ wordVal (swOf t core) = val) :
    writeWord core addr val s = answerPulls core (modSw t core fun x => { x with run := 3, told := false }) := by
  simp only [writeWord, hwrite, if_pos hown]

end Sys2Proof.Proofs
end

section
/-! PROOFS. Operations and engines complete. -/

namespace Sys2Proof.Proofs
open Machine

/-! ### Operations and engines together -/

/-- A decided run: the engine learns it, writes the completion word and answers its pulls (R290). -/
theorem learn_decides {s u t : State} {core v old dec : Nat} {d : SwDecl} (hdecl : (swOf s core).decl = some d)
    (hrun : (swOf s core).run = 1 ∨ (swOf s core).run = 2) (hundec : (swOf s core).dec = 0)
    (hread : swRmw (swEng s core) .atomic d.dstat 8 (fun _ => none) s = (.ok, u, v)) (hbit : v.testBit 63 = true)
    (hdec : dec = if v % 2 ^ 16 = d.pcount then 1 else 2) {u1 u2 : State}
    (hu1 : u1 = acquireScope u core (swEng u core).asid 4) (hu2 : u2 = modSw u1 core fun x => { x with dec := dec })
    (hkeep : swOf u1 core = swOf s core)
    (hwrite : swRmw (swEng u2 core) .write (swOf s core).waddr 8 (fun _ => some (dec * 2 ^ 62 + (swOf s core).cval))
      (releaseScope u2 core (swEng u2 core).asid 4) = (.ok, t, old)) (hsame : swOf t core = swOf u2 core) :
    learn core s = answerPulls core (modSw t core fun x => { x with run := 3, told := false }) := by
  have hdone : dsDone v = v % 2 ^ 16 := by rw [dsDone, field_eq, Nat.pow_zero, Nat.div_one]
  have hsw : swOf u2 core = { swOf s core with dec := dec } := by rw [hu2, swOf_modSw, hkeep]
  have hword : wordVal (swOf u2 core) = dec * 2 ^ 62 + (swOf s core).cval := by rw [hsw]; rfl
  have hne : dec ≠ 0 := by
    rw [hdec]
    split <;> decide
  have hlearn : learn core s = writeWord core (swOf s core).waddr (wordVal (swOf u2 core)) u2 := by
    rw [learn_reads hdecl hrun hundec hread]
    simp only [hdone, ← hdec, ← hu1, ← hu2, hbit, if_true]
  rw [hlearn, hword]
  refine writeWord_own hwrite ?_
  rw [hsame, hword]
  exact ⟨by rw [hsw]; exact hne, by rw [hsw], rfl⟩

/-- Settles O59: operations, windows and resends, then each engine, by the lemmas above. -/
theorem operationsAndEnginesComplete : Obligations.OperationsAndEnginesComplete := by
  refine ⟨fun s => ?operations, fun s => ?engines⟩
  case operations =>
    intro gk
    refine ⟨fun u hu g o w hg ho hw => ?flag, fun g o hg hops hclob hex hparked hpark hid => ?complete, fun w hw => ?wait,
      fun e he => ?window, rfl, fun hnone => ?noNak, fun p a hp hgroup hplace ha => ?nak,
      fun u id rs o hp hw ho hflag => serveOp_whole rs hp hw ho hflag, rfl, fun g hg => ?resend⟩
    case flag =>
      rw [exec_flagOperationComplete, comeToPull_eq, ← hu, finishOp_found hg ho hw]
    case complete =>
      obtain ⟨hgroup, hmem⟩ := completeOp_single hg hops hclob hex hpark
      rw [← hid]
      refine ⟨_, hgroup, rfl, putResults_lanes _ g, putResults_preds _ g, fun k x hres hk => ?_, hmem⟩
      rw [hres, List.foldl_cons, List.foldl_nil, putResult_vector x g hk]
      exact ⟨Laws.sget_sput_self _ _ _ _, fun j hj => Laws.sget_sput_ne _ _ _ hj, rfl⟩
    case wait =>
      refine ⟨_, _, exec_waitaConditionMet hw, rfl, rfl, fun x ag v hsat hacq hv hag hsound => ?_⟩
      subst hv
      exact endWait_plain hsat hacq hag hsound
    case window =>
      refine ⟨_, _, exec_multicastWindowClose he, ?_, rfl⟩
      rw [clusterSt_modCluster, Laws.sfind_sdel, if_pos rfl]
    case noNak =>
      rw [exec_overflowNakResend, replayWhere_none fun p hp => ?_]
      simpa using hnone p hp
    case nak =>
      intro r hleft heaten hst
      have hpick : (p.group == gk && p.place == .nak) = true := by rw [hgroup, hplace, beq_self_eq_true]; rfl
      rw [exec_overflowNakResend, replayWhere_single hp hpick, replay_served hp hgroup ha rfl hleft heaten hst]
    case resend =>
      intro e core
      refine ⟨fun h => congrArg _ (flushWindow_empty hg h), fun w rest hw hheld => congrArg _ (flushWindow_held hg hw hheld),
        fun w rest hw hfree hfull => ⟨_, rfl, flushWindow_naks hg hw hfree hfull⟩, fun w hw he hfree hroom hone => ?_⟩
      have hcopy : s.env.kind = 1 := hone
      rw [exec_engineNakResend, hcopy]
      rw [hone] at he hfree hroom
      exact ⟨_, rfl, flushWindow_copy hg hw he hfree hroom⟩
  case engines =>
    intro core
    refine ⟨rfl, fun m hm hstop => ?matrix, fun x hx => shapeStep_some hx, fun m row codes j hj => localBytes_landRow m row codes s hj,
      fun from' t0 rest hlink hne hnext => ?token, ⟨_, rfl, mxOf_modMx _ _ _, rfl⟩, fun x hq haside hstop hpatch => ?copy,
      fun x hq hidx haside hstop hpatch => ?link, fun e k x u hq hp _ => ⟨dmaOf_finishDma_single hq hp, finishDma_single hq hp⟩,
      rfl, fun h => ?idle, ?wake, fun u d n => ⟨mapBit_rise core d n u, rfl⟩, fun u d hdecl => ?sweep,
      exec_sweepDecisionNotify_untold, fun h => ⟨_, exec_sweepDecisionNotify_told h, rfl, ?told⟩, ?decision,
      exec_stalledWatchReread_idle, exec_stalledWatchReread_stalled⟩
    case matrix =>
      refine ⟨fun w64 d lanes => runHead_msmld hm hstop, fun w64 lanes => runHead_msmst hm hstop,
        fun b ar br ag fl k sl ri hcmd hcore hleft hshape hload hrx hstep hsound hpoison => ?_⟩
      rw [runHead_mma hm hcmd, hleft, runEngine_row (by omega) hshape hload hrx hstep, workRow_sound hsound hpoison, hcore]
    case token =>
      exact ⟨exec_operandTokenReceive_bad hlink hnext,
        fun hgood hroom => ⟨_, exec_operandTokenReceive_sound hlink hnext hgood, takeToken_room hne hroom⟩,
        fun hgood hfull => ⟨_, exec_operandTokenReceive_sound hlink hnext hgood, takeToken_full hfull⟩⟩
    case copy =>
      have hmem : x ∈ dmaOf s 1 core := by rw [hq]; exact List.mem_singleton_self x
      rw [exec_copyCommandComplete_single haside hstop hq]
      refine ⟨fun hpos hun => ?_, fun hpos hun hword => ?_, fun u hsize hpos hseg => ?_⟩
      · rw [workDma_past haside hpatch hpos hmem, closeDma_waits hpatch hpos hun]
      · rw [workDma_past haside hpatch hpos hmem, closeDma_done hpatch hpos hun hword]
      · rw [segments_one hsize (by omega), workDma_segment haside hpatch hpos hseg]
    case link =>
      have hmem : x ∈ dmaOf s 3 core := by rw [hq]; exact List.mem_singleton_self x
      rw [exec_linkTransferComplete_single hstop hq hidx]
      refine ⟨fun hpos hun => ?_, fun hpos hun hword => ?_, fun u hsize hpos hseg => ?_⟩
      · rw [workDma_past haside hpatch hpos hmem, closeDma_waits hpatch hpos hun]
      · rw [workDma_past haside hpatch hpos hmem, closeDma_done hpatch hpos hun hword]
      · rw [segments_one hsize (by omega), workDma_segment haside hpatch hpos hseg]
    case idle => rw [exec_remoteWakeNotify, takeNotices_idle h]
    case wake =>
      intro n d b u v w hn hstart hdecl y hdom hpart hrun hb hcount hplane hundec hbatch hbit hctx hkind z
      rw [exec_remoteWakeNotify, takeNotices_one hn hstart (serves_of hdecl hdom hpart hrun),
        mergePlane_one hdecl hb hcount hplane hundec hbatch hbit hctx hkind]
    case sweep =>
      exact ⟨unstallIf_moving hdecl, unstallIf_stalled hdecl, newSweep_eq hdecl, rereadWatch_none hdecl rfl,
        fun v w t b hcount hproof hwatch hpatch hctx hclean hslot =>
          rereadWatch_one hdecl rfl hcount hproof hwatch hpatch hctx hclean hslot⟩
    case told => rw [swOf_modSw]
    case decision =>
      intro d u v htold hdecl hrun hundec hread u1
      rw [exec_sweepDecisionNotify_told htold]
      refine ⟨fun hbit => ?_, fun hbit => ?_⟩
      · rw [learn_reads hdecl hrun hundec hread, hbit]
        rfl
      · intro dec u2 t old hkeep hwrite hsame
        rw [learn_decides hdecl hrun hundec hread hbit rfl rfl rfl hkeep hwrite hsame]

end Sys2Proof.Proofs
end

section
/-! PROOFS. Statements that fail: a kept line at its eviction (R164, R424), commands of a run whose slot names another core (R108). -/

namespace Sys2Proof.Proofs
open Machine

/-! ### The eviction of a kept line (R164, R424) -/

/-- Replacement takes no kept line: the event leaves the state as it is. -/
theorem exec_l2Eviction_kept {s : State} {ln : L2Line}
    (hl : sfind (clusterSt s s.env.core).l2 (lineKey s.env.asid s.env.addr) = some ln) (hk : ln.kept.isSome = true)
    (hf : s.env.flag = false) : exec .l2Eviction s = .next s := by
  change execL2Eviction s = _
  simp only [execL2Eviction, hl, hk, hf, Bool.not_false, Bool.and_self, if_true]

/-- A clean line that carries a kept mark. -/
def keptLine : L2Line :=
  ⟨List.replicate 128 0, 0, true, true, false, false, 15, 0, 0, false, 0, none, some 0⟩

/-- The event of its replacement, without an ECC failure. -/
def keptState : State :=
  { State.reset with
    clusters := [(0, { ClusterSt.reset with l2 := [(lineKey 1 0x1000, keptLine)] })]
    env := { Env.reset with core := 0, asid := 1, addr := 0x1000, flag := false } }

theorem sfind_keptState : sfind (clusterSt keptState keptState.env.core).l2
    (lineKey keptState.env.asid keptState.env.addr) = some keptLine := by decide +kernel

/-- Refutes O58: its clause on evictions says that a line leaves the L2 whether or not it is kept, and replacement takes no
line that carries a kept mark (R164, R424). -/
theorem not_errorsAreContained : ¬ Obligations.ErrorsAreContained := by
  intro h
  obtain ⟨_, _, _, hevict, _, _⟩ := h.2 keptState
  obtain ⟨t, hexec, _, hgone⟩ := hevict keptLine sfind_keptState rfl
  rw [exec_l2Eviction_kept sfind_keptState rfl rfl] at hexec
  cases hexec
  rw [sfind_keptState] at hgone
  cases hgone

/-! ### Commands of a run whose slot is no slot of its core (R108)

A group's key is `256 * core + slot`, and the engine that takes a command from a window is that of the key's core. The
statements on matrix and copy commands bound no slot: at slot 256 of core 0 the key is one of core 1. -/

/-- A header of an instruction that names flag 2 and no guard. -/
def flag2 : Hdr := ⟨false, 2, 7⟩

/-- A workgroup with 4096 bytes in each local space. -/
def farWg : Wg := { probeWg with scratchLen := 4096, obLen := 4096, msLen := 4096, mx := true }

/-- A group whose S0 to S6 hold the block of a copy of four words from the scratch run to the operand buffer. -/
def farGroup : Group :=
  { newGroup 0 0 0 (0, 0, 256) with
    sreg := [(0, 0x60004200), (3, 0x10004), (4, 1), (5, 0x10004), (6, 1)] }

/-- A run with no lanes, in a slot that core 0 does not have. -/
def farRun : Run := { probeRun 0 with slot := 256, lanes := 0 }

/-- Quarter 0 of core 0 issues that run. -/
def farState : State :=
  { State.reset with
    focus := some (0, 0)
    runs := [(rkey 0 0, farRun)]
    groups := [(gkey 0 256, farGroup)]
    wgs := [(wkey 0 0, farWg)] }

def farCx : Cx := ⟨0, 0, rkey 0 0, gkey 0 256, wkey 0 0, farRun, farGroup, farWg⟩

theorem cxOf_farState : cxOf farState = some farCx := by decide +kernel

/-- Nothing is outstanding in that group, so an instruction whose checks pass is ready. -/
theorem ready_farState {f : Form} (h : checkForm f flag2 farCx farState = none) : Ready f flag2 farCx farState where
  focus := cxOf_farState
  clean := rfl
  checks := h
  free := rfl
  sound := rfl
  room := fun _ => by decide

/-- MSMLD with every operand field Z, and CPY of the block at S0. -/
def farLoad : Instr := .msmld flag2 .w32 ⟨.z, .z, .z, .z⟩
def farCopy : Instr := .cpy flag2 ⟨.z, .s 0, .z, .z⟩

/-- What an outcome's state holds, where there is one. -/
def outcomeAt {α : Type} (f : State → α) (x : Host.Outcome State Fault Refusal) : Option α :=
  match x with
  | .next t => some (f t)
  | _ => none

theorem farLoad_queue : outcomeAt (fun t => (mxOf t 0).queue.map fun e => e.cmd) (exec farLoad farState) = some [] := by
  decide +kernel

theorem farCopy_queue : outcomeAt (fun t => dmaOf t 1 0) (exec farCopy farState) = some [] := by decide +kernel

/-- Refutes O37: nothing bounds the run's slot, and at slot 256 of core 0 the command goes to the engine of core 1. No state
that the model reaches has such a run; the premise that the slot is below 256 is missing. -/
theorem not_matrixCommandsIssue : ¬ Obligations.MatrixCommandsIssue := by
  intro h
  obtain ⟨_, hloads, _, _⟩ := h flag2 farCx farState
  obtain ⟨_, _, hload, _⟩ := hloads .w32 ⟨.z, .z, .z, .z⟩
  obtain ⟨_, _, haccepts⟩ := hload (ready_farState (by decide +kernel))
    (by rintro l ⟨_, hl, _⟩; simp [farCx, farRun] at hl)
  obtain ⟨t, hexec, _, hqueue⟩ := haccepts rfl rfl (by decide +kernel)
  have hempty := farLoad_queue
  rw [farLoad, hexec] at hempty
  have hnil := hqueue.symm.trans (Option.some.inj hempty)
  simp at hnil

/-- Refutes O38: nothing bounds the run's slot, and at slot 256 of core 0 the command goes to the copy engine of core 1. No
state that the model reaches has such a run; the premise that the slot is below 256 is missing. -/
theorem not_copyCommandsIssue : ¬ Obligations.CopyCommandsIssue := by
  intro h
  obtain ⟨hcopy, _⟩ := h flag2 farCx farState ⟨.z, .s 0, .z, .z⟩ rfl
  obtain ⟨_, hlegal⟩ := hcopy (ready_farState (by decide +kernel))
  obtain ⟨_, _, _, _, haccepts⟩ := hlegal (by decide +kernel)
  obtain ⟨t, hexec, _, hqueue⟩ := haccepts (by decide +kernel) (by decide +kernel) rfl rfl (by decide +kernel)
  have hempty := farCopy_queue
  rw [farCopy, hexec] at hempty
  have hnil := hqueue.symm.trans (Option.some.inj hempty)
  simp at hnil

end Sys2Proof.Proofs
end

section
/-! PROOFS. Fences (R196, R197, R430, R431) and bindings (R201, R204, R432, R433). -/

namespace Sys2Proof.Proofs
open Machine Laws

/-! ### What leaves the caches of the clusters alone -/

@[simp] theorem writeBlock_clusters (s : State) (ck pa blk poison : Nat) :
    (writeBlock s ck pa blk poison).clusters = s.clusters := by
  unfold writeBlock
  generalize leBytes 256 blk = bs
  by_cases hck : ck = 0
  · simp only [hck, if_true, memPut_clusters]
  · by_cases hblk : blk = 0
    · simp only [hck, hblk, if_true, if_false, setSidecar, memPut_clusters]
    · simp only [hck, hblk, if_false]
      split <;> simp only [setSidecar, memPut_clusters]

@[simp] theorem testWaitsCtrl_clusters (ck pa mask : Nat) (s : State) :
    (testWaitsCtrl ck pa mask s).clusters = s.clusters := by
  unfold testWaitsCtrl; split <;> rfl

@[simp] theorem ctrlWriteLine_clusters (s : State) (ck pa mask : Nat) (data : List Byte) (poison : Nat) :
    (ctrlWriteLine s ck pa mask data poison).clusters = s.clusters := by
  unfold ctrlWriteLine
  simp only
  split
  · rfl
  · rfl
  · rw [testWaitsCtrl_clusters]
    split
    · rfl
    · exact writeBlock_clusters _ _ _ _ _

/-- Steps that keep the clusters keep them one after another. -/
theorem foldl_clusters {α : Type} {f : State → α → State} (h : ∀ s x, (f s x).clusters = s.clusters) (xs : List α)
    (s : State) : (xs.foldl f s).clusters = s.clusters := by
  induction xs generalizing s with
  | nil => rfl
  | cons x xs ih => rw [List.foldl_cons, ih, h]

@[simp] theorem ctrlWrite_clusters (s : State) (ck pa : Nat) (bs : List Byte) : (ctrlWrite s ck pa bs).clusters = s.clusters :=
  foldl_clusters (fun _ _ => ctrlWriteLine_clusters _ _ _ _ _ _) _ _

@[simp] theorem ringVector_clusters (s : State) : (ringVector s).clusters = s.clusters := by
  unfold ringVector
  simp only
  split
  · rfl
  · exact raiseMsix_clusters _ _

@[simp] theorem postEvent_clusters (kind asid : Nat) (body : List Byte) (s : State) :
    (postEvent kind asid body s).clusters = s.clusters := by
  unfold postEvent
  simp only
  split
  · rfl
  · rw [ringVector_clusters]; exact ctrlWrite_clusters _ _ _ _

@[simp] theorem lookupLeaf_clusters (s : State) (asid va : Nat) : (lookupLeaf s asid va).2.clusters = s.clusters := by
  unfold lookupLeaf
  simp only
  split
  · rfl
  · split
    · rfl
    · split
      · rfl
      · split
        · rfl
        · split <;> rfl

@[simp] theorem drainOut_clusters (n fuel : Nat) (s : State) : (drainOut n fuel s).clusters = s.clusters := by
  induction fuel generalizing s with
  | zero => rfl
  | succ fuel ih =>
    rw [drainOut]
    split
    · rfl
    · split
      · rw [ih]; rfl
      · rfl

@[simp] theorem postWrite_clusters (asid core va pa : Nat) (s : State) :
    (postWrite asid core va pa s).2.clusters = s.clusters := by
  unfold postWrite
  split
  · split
    · rfl
    · exact drainOut_clusters _ _ _
  · rfl

@[simp] theorem touchSidecar_clusters (asid ck pa : Nat) (s : State) : (touchSidecar asid ck pa s).clusters = s.clusters := by
  unfold touchSidecar
  split
  · rfl
  · rw [modCtx_clusters]
    unfold cacheSidecar
    simp only
    split <;> rfl

@[simp] theorem noteBad_clusters (cl asid va pa bad : Nat) (s : State) : (noteBad cl asid va pa bad s).clusters = s.clusters :=
  foldl_clusters (fun _ _ => by split <;> rfl) _ _

@[simp] theorem writeHome_clusters (cl asid va : Nat) (l : Leaf) (ln : L2Line) (s : State) :
    (writeHome cl asid va l ln s).clusters = s.clusters := by
  have hpost := postWrite_clusters asid (16 * cl) va (leafPa l va) s
  unfold writeHome
  simp only
  split <;> rename_i heq <;> rw [heq] at hpost
  · exact hpost
  · rw [noteBad_clusters, ctrlWriteLine_clusters, touchSidecar_clusters, hpost]

/-- Write-back changes no line but by cleaning it. -/
theorem writeBack_clusters {s : State} {cl key : Nat} {ln : L2Line} (hln : sfind (clusterSt s cl).l2 key = some ln)
    (hdirty : ln.dirty ≠ 0) :
    (writeBack s cl key).clusters = (putL2 s cl key { ln with dirty := 0, bad := 0 }).clusters := by
  have hleaf := lookupLeaf_clusters (putL2 s cl key { ln with dirty := 0, bad := 0 }) (keyAsid key) (keyVa key)
  simp only [writeBack, hln, if_neg hdirty]
  split <;> rename_i heq <;> rw [heq] at hleaf
  · rw [writeHome_clusters, hleaf]
  · rw [postEvent_clusters, hleaf]

/-! ### The lines of a cluster that a write-back and an eviction leave (R192, R197) -/

/-- A line as its write-back leaves it. -/
def cleaned (ln : L2Line) : L2Line := if ln.dirty = 0 then ln else { ln with dirty := 0, bad := 0 }

@[simp] theorem cleaned_dirty (ln : L2Line) : (cleaned ln).dirty = 0 := by
  unfold cleaned; split
  · assumption
  · rfl

@[simp] theorem cleaned_cleaned (ln : L2Line) : cleaned (cleaned ln) = cleaned ln := if_pos (cleaned_dirty ln)

theorem clusterSt_congr {s t : State} (h : t.clusters = s.clusters) (cl : Nat) : clusterSt t cl = clusterSt s cl := by
  rw [clusterSt, h, clusterSt]

theorem l2_putL2 (s : State) (cl key : Nat) (ln : L2Line) (k : Nat) :
    sfind (clusterSt (putL2 s cl key ln) cl).l2 k = if k = key then some ln else sfind (clusterSt s cl).l2 k := by
  rw [putL2, clusterSt_modCluster]; exact sfind_sset _ _ _ _

theorem l2_dropL2 (s : State) (cl key k : Nat) :
    sfind (clusterSt (dropL2 s cl key) cl).l2 k = if k = key then none else sfind (clusterSt s cl).l2 k := by
  rw [dropL2, clusterSt_modCluster]; exact sfind_sdel _ _ _

theorem l2_writeBack (s : State) (cl key k : Nat) : sfind (clusterSt (writeBack s cl key) cl).l2 k =
    if k = key then (sfind (clusterSt s cl).l2 k).map cleaned else sfind (clusterSt s cl).l2 k := by
  cases hln : sfind (clusterSt s cl).l2 key with
  | none =>
    have hsame : writeBack s cl key = s := by rw [writeBack, hln]
    rw [hsame]
    split
    · subst_vars; rw [hln]; rfl
    · rfl
  | some ln =>
    by_cases hdirty : ln.dirty = 0
    · have hsame : writeBack s cl key = s := by simp only [writeBack, hln, if_pos hdirty]
      rw [hsame]
      split
      · subst_vars; rw [hln, Option.map_some, cleaned, if_pos hdirty]
      · rfl
    · rw [clusterSt_congr (writeBack_clusters hln hdirty), l2_putL2]
      split
      · subst_vars; rw [hln, Option.map_some, cleaned, if_neg hdirty]
      · rfl

theorem l2_evictLine (s : State) (cl key k : Nat) : sfind (clusterSt (evictLine s cl key) cl).l2 k =
    if k = key then none else sfind (clusterSt s cl).l2 k := by
  rw [evictLine, l2_dropL2]
  split
  · rfl
  · rw [l2_writeBack, if_neg ‹_›]

theorem l2_foldl_writeBack (cl : Nat) (keys : List Nat) (s : State) (k : Nat) :
    sfind (clusterSt (keys.foldl (fun s key => writeBack s cl key) s) cl).l2 k =
      if k ∈ keys then (sfind (clusterSt s cl).l2 k).map cleaned else sfind (clusterSt s cl).l2 k := by
  induction keys generalizing s with
  | nil => rfl
  | cons key keys ih =>
    rw [List.foldl_cons, ih, l2_writeBack]
    by_cases hkey : k = key
    · cases hln : sfind (clusterSt s cl).l2 k <;> simp [hkey]
    · simp only [List.mem_cons, hkey, false_or, if_false]

theorem l2_foldl_evictLine (cl : Nat) (keys : List Nat) (s : State) (k : Nat) :
    sfind (clusterSt (keys.foldl (fun s key => evictLine s cl key) s) cl).l2 k =
      if k ∈ keys then none else sfind (clusterSt s cl).l2 k := by
  induction keys generalizing s with
  | nil => rfl
  | cons key keys ih =>
    rw [List.foldl_cons, ih, l2_evictLine]
    by_cases hkey : k = key
    · simp [hkey]
    · simp only [List.mem_cons, hkey, false_or, if_false]

theorem mem_of_sfind {α : Type} {m : List (Nat × α)} {k : Nat} {x : α} (h : sfind m k = some x) : (k, x) ∈ m := by
  induction m with
  | nil => cases h
  | cons e m ih =>
    obtain ⟨j, y⟩ := e
    rw [sfind_cons] at h
    split at h
    · subst_vars; cases h; exact List.mem_cons_self
    · exact List.mem_cons_of_mem _ (ih h)

/-- A line of the cluster that a test picks is among the keys it picks. -/
theorem mem_linesWhere {s : State} {cl key : Nat} {ln : L2Line} {p : Nat → L2Line → Bool}
    (hln : sfind (clusterSt s cl).l2 key = some ln) (hp : p key ln = true) : key ∈ linesWhere s cl p :=
  List.mem_map.mpr ⟨(key, ln), List.mem_filter.mpr ⟨mem_of_sfind hln, hp⟩, rfl⟩

/-- A written-back line is clean. -/
theorem writeBackWhere_clean {s : State} {cl key : Nat} {ln : L2Line} {p : Nat → L2Line → Bool} (hp : ∀ ln, p key ln = true)
    (h : sfind (clusterSt (writeBackWhere s cl p) cl).l2 key = some ln) : ln.dirty = 0 := by
  rw [writeBackWhere, l2_foldl_writeBack] at h
  split at h
  · obtain ⟨old, -, rfl⟩ := Option.map_eq_some_iff.mp h
    exact cleaned_dirty old
  · exact absurd (mem_linesWhere h (hp ln)) ‹_›

/-- An evicted line is gone. -/
theorem evictWhere_gone (s : State) (cl : Nat) {key : Nat} {p : Nat → L2Line → Bool} (hp : ∀ ln, p key ln = true) :
    sfind (clusterSt (evictWhere s cl p) cl).l2 key = none := by
  rw [evictWhere, l2_foldl_evictLine]
  split
  · rfl
  · cases hln : sfind (clusterSt s cl).l2 key with
    | none => rfl
    | some ln => exact absurd (mem_linesWhere hln (hp ln)) ‹_›

theorem dropL1Where_gone (s : State) (core : Nat) {key : Nat} {p : Nat → Bool} (hp : p key = true) :
    sfind (coreSt (dropL1Where s core p) core).l1 key = none := by
  rw [dropL1Where, coreSt_modCore]
  exact (sfind_filter (fun k => !p k) _ _).trans (if_neg (by simp [hp]))

/-! ### Release and acquire at a scope (R197) -/

section
variable (s : State) (core asid : Nat) {scope : Nat}

theorem releaseScope_narrow (h : scope < 3) : releaseScope s core asid scope = s := if_pos h
theorem acquireScope_narrow (h : scope < 2) : acquireScope s core asid scope = s := if_pos h

theorem releaseScope_clean {key : Nat} {ln : L2Line} (h : 3 ≤ scope) (hkey : keyAsid key = asid)
    (hln : sfind (clusterSt (releaseScope s core asid scope) (clusterOf core)).l2 key = some ln) : ln.dirty = 0 := by
  rw [releaseScope, if_neg (by omega)] at hln
  exact writeBackWhere_clean (fun _ => beq_iff_eq.mpr hkey) hln

variable {key : Nat} (hkey : keyAsid key = asid)
include hkey

theorem acquireScope_l2 (h : 3 ≤ scope) :
    sfind (clusterSt (acquireScope s core asid scope) (clusterOf core)).l2 key = none := by
  simp only [acquireScope, if_neg (show ¬scope < 2 by omega), if_neg (show ¬scope < 3 by omega)]
  exact evictWhere_gone s (clusterOf core) fun _ => beq_iff_eq.mpr hkey

theorem acquireScope_l1 (h : 2 ≤ scope) : sfind (coreSt (acquireScope s core asid scope) core).l1 key = none := by
  rw [acquireScope, if_neg (by omega)]
  exact dropL1Where_gone _ core (beq_iff_eq.mpr hkey)

end

/-! ### The issue of a fence (R196, R430) -/

/-- The scope that a fence's modifier names. -/
theorem scope_field (o : RM) : field o.c.toNat 8 3 = o.c.toNat / 256 := by
  rw [field, Nat.shiftRight_eq_div_pow]
  exact Nat.mod_eq_of_lt (by have := o.c.isLt; omega)

section
variable {h : Hdr} {cx : Cx} {s : State} {o : RM} (r : Ready (fenceForm o) h cx s) {rel acq : Bool}
include r

/-- A fence whose release does not enter the store buffer acts, or stays outstanding. -/
theorem fence_unbuffered (hbuf : (rel && uncommitted s cx.wk) = false) : fence rel acq h o s = .next
    (if fenceDue s cx.gk cx.g s.nextOp cx.run.lanes rel acq && !(rel && draining s cx.wk) then
      let t := fenceAct cx.core cx.w.asid rel acq (o.c.toNat / 256) (ticked s)
      if h.f = 15 then t else startOp cx h.f.toNat (.fence rel acq (o.c.toNat / 256)) 0 [] [] true t
    else startOp cx h.f.toNat (.fence rel acq (o.c.toNat / 256)) cx.run.lanes [] [] false (ticked s)) := by
  have hticked : (rel && uncommitted (ticked s) cx.wk) = false := hbuf
  rw [fence, issue_ready r]
  simp only [hticked, scope_field, Bool.not_false, Bool.and_true, Bool.false_eq_true, if_false]
  rfl

/-- A fence whose release enters the store buffer acquires, or stays outstanding, as one without a release. -/
theorem fence_buffered (hbuf : uncommitted s cx.wk = true) :
    let t := bufferOp cx.wk ⟨cx.gk, s.nextOp, cx.run.lanes, .fence (o.c.toNat / 256), cx.run.head.toNat, false⟩ (ticked s)
    fence true acq h o s = .next
      (if fenceDue s cx.gk cx.g s.nextOp cx.run.lanes false acq then
        let u := if acq then acquireScope t cx.core cx.w.asid (o.c.toNat / 256) else t
        if h.f = 15 then u else startOp cx h.f.toNat (.fence false acq (o.c.toNat / 256)) 0 [] [] true u
      else startOp cx h.f.toNat (.fence false acq (o.c.toNat / 256)) cx.run.lanes [] [] false t) := by
  have hticked : uncommitted (ticked s) cx.wk = true := hbuf
  rw [fence, issue_ready r]
  simp only [hticked, scope_field, Bool.true_and, Bool.not_true, Bool.false_and, Bool.not_false, Bool.and_true, if_true]
  rfl

end

/-- The form of FENCE.X with its two paths' numbers in range (R431). -/
theorem execFenceX_ready {h : Hdr} {cx : Cx} {s : State} {o : RM} {a b : Nat} (ha : a < 5) (hb : b < 5) (hab : a ≠ b)
    (hc : o.c = BitVec.ofNat 11 (8 * a + b))
    (r : Ready { unit := 1, fcls := .opt, ops := [(o.d, .unused), (o.a, .unused), (o.b, .unused)] } h cx s) :
    execFenceX h o s = .next (if pathDone cx.g s.nextOp a = true ∧ h.f = 15 then ticked s
      else startOp cx h.f.toNat (.fenceX a b) 0 [] [] (pathDone cx.g s.nextOp a) (ticked s)) := by
  have hnum : o.c.toNat = 8 * a + b := by rw [hc, BitVec.toNat_ofNat, Nat.mod_eq_of_lt (by omega)]
  have hfirst : field o.c.toNat 3 3 = a := by rw [field, Nat.shiftRight_eq_div_pow, hnum]; omega
  have hsecond : o.c.toNat % 8 = b := by omega
  have hmod : (decide (o.c.toNat < 64) && decide (a < 5) && decide (b < 5) && a != b) = true := by
    simp only [Bool.and_eq_true, decide_eq_true_eq, bne_iff_ne]
    exact ⟨⟨⟨by omega, ha⟩, hb⟩, hab⟩
  simp only [execFenceX, hfirst, hsecond, hmod]
  rw [issue_ready r]
  simp only [Bool.and_eq_true, beq_iff_eq]
  rfl

/-! ### BIND and UNBIND (R201, R204, R433) -/

/-- An unguarded instruction that accesses memory, ready and with its vector path free, has its effect (R328, R431). -/
theorem memIssue_ready {f : Form} {h : Hdr} {cx : Cx} {s : State} (r : Ready f h cx s) (hg : f.guarded = false)
    (hv : vecHeld cx = false) (eff : Cx → State → State) : memIssue f h eff s = .next (eff cx (ticked s)) := by
  rw [memIssue, issue_ready r]
  simp only [hg, hv, Bool.false_and, Bool.false_eq_true, if_false]

section
variable {s : State} {asid base len obj : Nat} {c : Ctx} (hc : ctxOf s asid = some c)
include hc

theorem bindStatus_full (hfull : 64 ≤ c.bindings.length) : bindStatus s asid base len obj = 1 := by
  simp only [bindStatus, hc, if_pos hfull]

theorem bindStatus_misaligned (hroom : c.bindings.length < 64) (hbad : base % 128 ≠ 0 ∨ len % 128 ≠ 0 ∨ len = 0) :
    bindStatus s asid base len obj = 2 := by
  simp only [bindStatus, hc, if_neg (Nat.not_le.mpr hroom), if_pos hbad]

end

/-! The operands of BIND and UNBIND, and the states that they leave. -/

/-- The address, the length and the object that the operands of BIND name; UNBIND has the first and the last (R432). -/
def bindBase (cx : Cx) (s : State) (o : R4) : Nat := (in64 cx s o.a (elected cx)).toNat % 2 ^ 57
def bindLen (cx : Cx) (s : State) (o : R4) : Nat := (in64 cx s o.b (elected cx)).toNat
def bindObj (cx : Cx) (s : State) (o : R4) : Nat := objAddr (in64 cx s o.c (elected cx))

/-- The status that the checks of a BIND give. -/
def statusOfBind (cx : Cx) (s : State) (o : R4) : Nat :=
  bindStatus (ticked s) cx.w.asid (bindBase cx s o) (bindLen cx s o) (bindObj cx s o)

/-- The range flushed and the binding added, as a BIND that breaks no limit leaves them. -/
def withBinding (cx : Cx) (s : State) (o : R4) : State :=
  modCtx (flushRange (ticked s) cx.w.asid (bindBase cx s o) (bindLen cx s o)) cx.w.asid fun c =>
    { c with bindings := c.bindings ++ [⟨bindBase cx s o, bindLen cx s o, bindObj cx s o, freeBinding c.bindings⟩] }

/-- The object pulled, its lines freed and a binding taken away, as an UNBIND leaves them. -/
def withoutBinding (cx : Cx) (s : State) (o : R4) (b : Binding) : State :=
  modCtx (unmarkLines cx.w.asid b.num (pullObject cx.w.asid (bindObj cx s o) (ticked s))) cx.w.asid fun c =>
    { c with bindings := c.bindings.filter fun x => x != b }

section
variable {h : Hdr} {cx : Cx} {s : State} {o : R4} (hv : vecHeld cx = false)
include hv

section
variable (r : Ready { unit := 1, fcls := .res, ops := [(o.d, .dst 1 false true), (o.a, .src 2 true), (o.b, .src 2 true),
  (o.c, .src 2 true)] } h cx s)
include r

theorem execBind_ready :
    let n := statusOfBind cx s o
    let t := if n = 0 then withBinding cx s o else ticked s
    execBind h o s = .next (statusOp cx h o.d n (if n = 1 ∨ n = 2 then t else noteWalk cx.w.asid (bindObj cx s o) t)) :=
  memIssue_ready r rfl hv _

theorem execBind_bound (hst : statusOfBind cx s o = 0) :
    execBind h o s = .next (statusOp cx h o.d 0 (noteWalk cx.w.asid (bindObj cx s o) (withBinding cx s o))) := by
  rw [execBind_ready hv r, hst, if_neg (by decide), if_pos rfl]

/-- Statuses 1 and 2 are found before the object's address is walked. -/
theorem execBind_refusedUnwalked {n : Nat} (hn : n = 1 ∨ n = 2) (hst : statusOfBind cx s o = n) :
    execBind h o s = .next (statusOp cx h o.d n (ticked s)) := by
  rw [execBind_ready hv r, hst, if_pos hn, if_neg (by omega)]

theorem execBind_refusedWalked {n : Nat} (hn : 3 ≤ n) (hst : statusOfBind cx s o = n) :
    execBind h o s = .next (statusOp cx h o.d n (noteWalk cx.w.asid (bindObj cx s o) (ticked s))) := by
  rw [execBind_ready hv r, hst, if_neg (by omega), if_neg (by omega)]

end

section
variable (r : Ready { unit := 1, fcls := .res, ops := [(o.d, .dst 1 false true), (o.a, .src 2 true), (o.b, .unused),
  (o.c, .src 2 true)] } h cx s)
include r

theorem execUnbind_ready : execUnbind h o s = .next
    (match (boundTo (ticked s) cx.w.asid (bindObj cx s o)).find? fun b => b.base == bindBase cx s o with
      | none => statusOp cx h o.d 6 (ticked s)
      | some b => statusOp cx h o.d 0 (withoutBinding cx s o b)) :=
  memIssue_ready r rfl hv _

theorem execUnbind_unknown (hno : ∀ b ∈ boundTo (ticked s) cx.w.asid (bindObj cx s o), b.base ≠ bindBase cx s o) :
    execUnbind h o s = .next (statusOp cx h o.d 6 (ticked s)) := by
  have hnone : ((boundTo (ticked s) cx.w.asid (bindObj cx s o)).find? fun b => b.base == bindBase cx s o) = none :=
    List.find?_eq_none.mpr fun b hb => by simpa using hno b hb
  rw [execUnbind_ready hv r, hnone]

theorem execUnbind_found {b : Binding}
    (hb : ((boundTo (ticked s) cx.w.asid (bindObj cx s o)).find? fun b => b.base == bindBase cx s o) = some b) :
    execUnbind h o s = .next (statusOp cx h o.d 0 (withoutBinding cx s o b)) := by
  rw [execUnbind_ready hv r, hb]

end

end

/-! ### The statements -/

/-- Settles O33: each fence by its issue, with its release in the store buffer or not, and what a release and an acquire at a
scope leave by the lines that a write-back and an eviction leave. -/
theorem fencesOrder : Obligations.FencesOrder := by
  refine ⟨fun h cx s o => ⟨fun _ _ r p hp => ?fence, fun a b ha hb hab hc r => execFenceX_ready ha hb hab hc r⟩,
    fun s core asid scope => ⟨releaseScope_narrow s core asid, acquireScope_narrow s core asid,
      fun h _ _ hkey => releaseScope_clean s core asid h hkey, fun h _ hkey => acquireScope_l2 s core asid hkey h,
      fun h _ hkey => acquireScope_l1 s core asid hkey h⟩⟩
  case fence =>
    have hexec : exec p.2.2 s = fence p.1 p.2.1 h o s := by
      simp only [List.mem_cons, List.not_mem_nil, or_false] at hp
      obtain rfl | rfl | rfl := hp <;> rfl
    obtain ⟨rel, acq, i⟩ := p
    simp only at hexec ⊢
    rw [hexec]
    refine ⟨fun hcom hdrain hdue => ?acts, fun hcom hwait => ?waits, fun hrel hun => ?buffered⟩
    case acts =>
      rw [fence_unbuffered r (by rw [hcom, Bool.and_false]), if_pos (by rw [hdue, hdrain, Bool.and_false]; rfl)]
      rfl
    case waits =>
      rw [fence_unbuffered r (by rw [hcom, Bool.and_false]), if_neg]
      obtain ⟨hrel, hdrain⟩ | hdue := hwait
      · simp [hrel, hdrain]
      · simp [hdue]
    case buffered =>
      subst hrel
      rw [fence_buffered r hun]
      exact ⟨fun hdue => by rw [if_pos hdue], fun hdue => by rw [if_neg (by simp [hdue])]⟩

/-- Settles O34: BIND by its status, UNBIND by the binding that its address and object name. -/
theorem bindingsChange : Obligations.BindingsChange := by
  intro h cx s o hv
  refine ⟨fun r => ⟨fun c hc => ⟨fun hfull => ?full, fun hroom hbad => ?misaligned⟩, fun hst => ?bound,
      fun n hst hn => ?walked⟩,
    fun r => ⟨fun hno => ?unknown, fun b hb => ?unbound⟩⟩
  case full => exact execBind_refusedUnwalked hv r (.inl rfl) (bindStatus_full hc hfull)
  case misaligned => exact execBind_refusedUnwalked hv r (.inr rfl) (bindStatus_misaligned hc hroom hbad)
  case bound => exact execBind_bound hv r hst
  case walked => exact execBind_refusedWalked hv r hn hst
  case unknown => exact execUnbind_unknown hv r hno
  case unbound => exact execUnbind_found hv r hb

end Sys2Proof.Proofs
end

section
/-! PROOFS. Sweep commands of a run whose slot names another core (R108, R291). -/

namespace Sys2Proof.Proofs
open Machine

/-! ### SWSTAT from a slot that its core does not have

What an engine answers to SWSTAT is the state of the engine that accepts the command, and a window's commands go to the engine
of the core in the group's key, `256 * core + slot`. No premise bounds the slot: with 256 the engine of core 1 answers a run
of core 0. -/

/-- The workgroup with the sweep engine. -/
def sweepWg : Wg := { farWg with sw := true }

/-- The sweep engine of core 0 has a run under way, and that of core 1 has none. -/
def sweepState : State :=
  { farState with
    featacc := [4, 0, 0, 0]
    wgs := [(wkey 0 0, sweepWg)]
    sw := [(0, { SwSt.reset with run := 1 })] }

def sweepCx : Cx := { farCx with w := sweepWg }

/-- SWSTAT into S0 to S3. -/
def statOpnds : R4 := ⟨.s 0, .z, .z, .z⟩
def farStat : Instr := .swstat flag2 statOpnds

theorem ready_farStat : Ready (swForm .res [(.s 0, .out false 4 508), (.z, .unused), (.z, .unused), (.z, .unused)])
    flag2 sweepCx sweepState where
  focus := by decide +kernel
  clean := rfl
  checks := by decide +kernel
  free := rfl
  sound := rfl
  room := fun _ => by decide

/-- The results that a group's outstanding operations have in a state. -/
def opResults (gk : Nat) (t : State) : Option (List (List (Nat × W32))) :=
  (sfind t.groups gk).map fun g => g.ops.map fun o => o.results

/-- The answer: the four words of an engine with no run, those of core 1. -/
theorem farStat_answer : outcomeAt (opResults sweepCx.gk) (exec farStat sweepState) =
    some (some [resultKeys (.s 0) 4 0 (doSw.ofWords (statWords sweepState 1))]) := by decide +kernel

/-- The four words of core 0's engine once it serves the workgroup that asks: its RUN field reads 1. -/
theorem statWords_core0 : statWords (modSw (ticked sweepState) 0 fun x => { x with wg := some 0 }) 0 = [2 ^ 30, 0, 0, 0] := by
  decide +kernel

theorem statWords_core1 : statWords sweepState 1 = [0, 0, 0, 0] := by decide +kernel

/-- Refutes O39: nothing bounds the run's slot, and at slot 256 of core 0 the engine of core 1 accepts SWSTAT and answers with
its own four words. Where the model begins a run its slot is `keyNum` of a key, which is below 256; that premise is missing. -/
theorem not_sweepCommandsIssue : ¬ Obligations.SweepCommandsIssue := by
  intro h
  obtain ⟨_, _, _, _, _, _, hstat⟩ := h flag2 sweepCx sweepState statOpnds
  obtain ⟨_, _, hanswers⟩ := hstat ready_farStat
  obtain ⟨t, hexec, hgroup⟩ := hanswers rfl ⟨rfl, rfl, by decide +kernel, by decide +kernel⟩
  have hwords : opResults sweepCx.gk t = some [resultKeys (.s 0) 4 0 (doSw.ofWords [2 ^ 30, 0, 0, 0])] := by
    rw [opResults, hgroup, ← statWords_core0]
    rfl
  have hanswer := farStat_answer
  rw [farStat, hexec, statWords_core1] at hanswer
  exact absurd (hwords.symm.trans (Option.some.inj hanswer)) (by decide)

end Sys2Proof.Proofs
end

section
/-! PROOFS. Decoding and encoding of instruction words (R317 to R347). -/

namespace Sys2Proof.Proofs
open Laws

/-! ### Decoding what was encoded -/

section
open RoundTrip

/-- The round trip of every constructor, in the order of the opcode table. -/
theorem roundTrip (i : Instr) : RoundTrip.Statement i :=
  Instr.casesOn (motive := RoundTrip.Statement) i
    nop bra brx call callx ret exit yield jenter jquit jwait jsave jrestore jread mov movi sel iadd isub iaddi imul imad
    imin imax shl shr sar rol ror fshL fshR andB orB xorB andnB ornB xnorB notB clz popc brev bfe bfi icmp pand por pxor
    pandn pnot ptov vtop lea faddF32 faddF64 faddF16 faddBf16 fmulF32 fmulF64 fmulF16 fmulBf16 fmaF32 fmaF64 fmaF16
    fmaBf16 fminF32 fminF64 fminF16 fminBf16 fmaxF32 fmaxF64 fmaxF16 fmaxBf16 fcmpF32 fcmpF64 fcmpF16 fcmpBf16 frcpF32
    fsqrtF32 frsqF32 fexp2F32 flog2F32 fsinF32 fcosF32 ftanhF32 frcpF64 fsqrtF64 frsqF64 faddiF32 fmuliF32 fmaiF32
    fmoviF32 cvt bpack bunpk xpatld xperm shflIdx shflUp shflDown shflXor bcast ballot voteAny voteAll voteUni redAdd
    redMin redMax redAnd redOr redXor fredAdd fredMin fredMax scanAdd scanXadd scanMax scanMin ldG ldSp ldOb ldMs stG stSp
    stOb stMs stuG stuSp ldmc prefL1 prefL2 residKeep residNorm banksw atomGAdd atomGMin atomGMax atomGAnd atomGOr
    atomGXor atomGExch atomGCas atomSpAdd atomSpMin atomSpMax atomSpAnd atomSpOr atomSpXor atomSpExch atomSpCas fenceRel
    fenceAcq fenceAr fenceX bind unbind acq relSet relAdd relSub waita barArv barWait barSync obres obfree mma msmld msmst
    bondAcq bondRel cpy lxfer swdecl swstart swpull swpark swdone swkeep swwake swstat trap tret sysr sysw clock pld pst
    msix grel gstop gsave grest coldReset perstDeassert warmReset configRequest warmResetRequest functionResetRequest
    functionLevelReset functionResetWashEnd thermalShutdown droopDetect voltageFrequencyLoop governorWindow flitReceive
    nakReceive resendAfterBackoff ackTimer replayTimeout laneLossOfLock portRecoveryComplete portRecoveryTimeout
    linkEnable linkDisable linkCountersClear registerWrite apercfgWrite hostApertureRead hostApertureWrite featureLock
    fetchNonce submitRelease ownershipReservedOp createContext destroyContext createQueue destroyQueue registerSignal
    unregisterSignal setEventRing resetQueue readAttestationQuote checkpointStreamStart checkpointStreamAbort
    checkpointStreamEnd rangeHold rangeRelease rangeInvalidate migratePage resolveFaultsRetry resolveFaultsFail
    readCounters mailboxReservedOp mailboxRequestComplete eventConsumerWrite eventLostClear ceCountClear ironctlWrite
    packetPickup queueScan slotIdleRelease queueEviction suspectedWaitCycle waitSignalTimeout launchPacket copyPacket
    waitSignalPacket setSignalPacket barrierAndPacket markerPacket headWaitSatisfied agentAccessRetry workgroupClaim
    gangClaim gangHoldRequest gangHoldAnswer groupRelease headOfLineHold sliceContentionTest stopRequest drainComplete
    workgroupRetire watchdogHang remotePendingLimit uncorrectableError poisonConsumed killComplete frameWashComplete
    l2SliceWashComplete ironingTurn ironingScanStart ironingScanComplete pageWalk overflowNakResend l2Eviction
    multicastWindowClose quarterSelection flagOperationComplete engineNakResend operandTokenReceive operandTokenResend
    matrixOperationComplete copyCommandComplete linkTransferComplete remoteWakeNotify sweepDecisionNotify
    stalledWatchReread resumeWordWrite syscallConsWrite bankmodeWrite bankSwitchComplete waitaConditionMet lpc1Write
    rngvalWrite mxstallClear engnakClear startStepComplete linkTrainingComplete pcieLinkTrained droopEnd powerLoss
    ownerKeyProvisioning

end

/-- Settles O2: a case per constructor, each by the round trip of its word. -/
theorem decodingInvertsEncoding : Obligations.DecodingInvertsEncoding :=
  fun i w hwf hw => roundTrip i hwf w hw

/-! ### The fields of a word, packed again (R324, R329, R336, R337) -/

/-- A packed word `v` whose other fields are those of `w` is `w` exactly where its opcode and X are those of `w`;
as numbers, which the decoder branches on. -/
theorem eq_self_iff_of_fields {v w : W64} {op : BitVec 8} {x : BitVec 3} (hop : opOf v = op) (hx : xOf v = x)
    (heq : opOf w = op → xOf w = x → v = w) : v = w ↔ (opOf w).toNat = op.toNat ∧ (xOf w).toNat = x.toNat := by
  rw [BitVec.toNat_inj, BitVec.toNat_inj]
  exact ⟨fun h => ⟨h ▸ hop, h ▸ hx⟩, fun ⟨hopw, hxw⟩ => heq hopw hxw⟩

section
variable (w : W64) (op : BitVec 8) (x : BitVec 3)

@[simp] theorem r4Word_eq_self_iff :
    r4Word op (hdrOf w) x (r4Of w) = w ↔ (opOf w).toNat = op.toNat ∧ (xOf w).toNat = x.toNat :=
  eq_self_iff_of_fields (op_r4Word ..) (x_r4Word ..) fun
    | rfl, rfl => by simp only [r4Word, r4Of, toBits_ofBits, packWord_split]

@[simp] theorem rmWord_eq_self_iff :
    rmWord op (hdrOf w) x (rmOf w) = w ↔ (opOf w).toNat = op.toNat ∧ (xOf w).toNat = x.toNat :=
  eq_self_iff_of_fields (op_rmWord ..) (x_rmWord ..) fun
    | rfl, rfl => by simp only [rmWord, rmOf, toBits_ofBits, packWord_split]

@[simp] theorem cvWord_eq_self_iff :
    cvWord op (hdrOf w) x (cvOf w) = w ↔ (opOf w).toNat = op.toNat ∧ (xOf w).toNat = x.toNat :=
  eq_self_iff_of_fields (op_cvWord ..) (x_cvWord ..) fun
    | rfl, rfl => by simp only [cvWord, cvOf, toBits_ofBits, packWord_split]

@[simp] theorem i22Word_eq_self_iff :
    i22Word op (hdrOf w) x (i22Of w) = w ↔ (opOf w).toNat = op.toNat ∧ (xOf w).toNat = x.toNat :=
  eq_self_iff_of_fields (op_i22Word ..) (x_i22Word ..) fun
    | rfl, rfl => by simp only [i22Word, i22Of, toBits_ofBits, packI22_split]

@[simp] theorem i20Word_eq_self_iff :
    i20Word op (hdrOf w) x (i20Of w) = w ↔ (opOf w).toNat = op.toNat ∧ (xOf w).toNat = x.toNat :=
  eq_self_iff_of_fields (op_i20Word ..) (x_i20Word ..) fun
    | rfl, rfl => by simp only [i20Word, i20Of, toBits_ofBits, packI20_split]

@[simp] theorem wf_r4Of : (r4Of w).wf = true := by simp only [R4.wf, r4Of, toBits_ofBits, Bool.and_self]
@[simp] theorem wf_rmOf : (rmOf w).wf = true := by simp only [RM.wf, rmOf, toBits_ofBits, Bool.and_self]
@[simp] theorem wf_cvOf : (cvOf w).wf = true := by simp only [CV.wf, cvOf, toBits_ofBits, Bool.and_self]
@[simp] theorem wf_i22Of : (i22Of w).wf = true := by simp only [I22.wf, i22Of, toBits_ofBits, Bool.and_self]
@[simp] theorem wf_i20Of : (i20Of w).wf = true := by simp only [I20.wf, i20Of, toBits_ofBits, Bool.and_self]

end

/-! ### X of a sub-operation (R339) -/

section
variable (x : BitVec 3)

@[simp] theorem wdOf_eq_some_iff (y : Wd) : wdOf x = some y ↔ x.toNat = (wdCode y).toNat := by
  cases y <;> revert x <;> decide
@[simp] theorem addXOf_eq_some_iff (y : AddX) : addXOf x = some y ↔ x.toNat = (addXCode y).toNat := by
  cases y <;> revert x <;> decide
@[simp] theorem mulXOf_eq_some_iff (y : MulX) : mulXOf x = some y ↔ x.toNat = (mulXCode y).toNat := by
  cases y <;> revert x <;> decide
@[simp] theorem madXOf_eq_some_iff (y : MadX) : madXOf x = some y ↔ x.toNat = (madXCode y).toNat := by
  cases y <;> revert x <;> decide
@[simp] theorem minXOf_eq_some_iff (y : MinX) : minXOf x = some y ↔ x.toNat = (minXCode y).toNat := by
  cases y <;> revert x <;> decide
@[simp] theorem extOf_eq_some_iff (y : Ext) : extOf x = some y ↔ x.toNat = (extCode y).toNat := by
  cases y <;> revert x <;> decide
@[simp] theorem ccOf_eq_some_iff (y : Cc) : ccOf x = some y ↔ x.toNat = (ccCode y).toNat := by
  cases y <;> revert x <;> decide
@[simp] theorem idxXOf_eq_some_iff (y : IdxX) : idxXOf x = some y ↔ x.toNat = (idxXCode y).toNat := by
  cases y <;> revert x <;> decide
@[simp] theorem rndOf_eq_some_iff (y : Rnd) : rndOf x = some y ↔ x.toNat = (rndCode y).toNat := by
  cases y <;> revert x <;> decide
@[simp] theorem fCcOf_eq_some_iff (y : FCc) : fCcOf x = some y ↔ x.toNat = (fCcCode y).toNat := by
  cases y <;> revert x <;> decide
@[simp] theorem ldWOf_eq_some_iff (y : LdW) : ldWOf x = some y ↔ x.toNat = (ldWCode y).toNat := by
  cases y <;> revert x <;> decide
@[simp] theorem stWOf_eq_some_iff (y : StW) : stWOf x = some y ↔ x.toNat = (stWCode y).toNat := by
  cases y <;> revert x <;> decide
@[simp] theorem mcXOf_eq_some_iff (y : McX) : mcXOf x = some y ↔ x.toNat = (mcXCode y).toNat := by
  cases y <;> revert x <;> decide
@[simp] theorem waXOf_eq_some_iff (y : WaX) : waXOf x = some y ↔ x.toNat = (waXCode y).toNat := by
  cases y <;> revert x <;> decide
@[simp] theorem stopXOf_eq_some_iff (y : StopX) : stopXOf x = some y ↔ x.toNat = (stopXCode y).toNat := by
  cases y <;> revert x <;> decide

end

/-! ### Encoding what was decoded -/

/-- What decoding answers keeps every bit of the word: where it is an instruction, that is well formed and the word is its
encoding. -/
def KeepsWord (w : W64) (r : Except DecodeError Instr) : Prop :=
  ∀ i, r = .ok i → encode i = some w ∧ i.wf = true

section
variable {w : W64} {low : Nat}

@[simp] theorem keepsWord_ok {i : Instr} : KeepsWord w (.ok i) ↔ encode i = some w ∧ i.wf = true := by
  simp [KeepsWord]

@[simp] theorem keepsWord_error {e : DecodeError} : KeepsWord w (.error e) := by
  simp [KeepsWord]

@[simp] theorem keepsWord_withX {α : Type} {y : Option α} {k : α → Instr} :
    KeepsWord w (withX y k) ↔ ∀ a, y = some a → encode (k a) = some w ∧ (k a).wf = true := by
  cases y <;> simp [withX]

/-! Each group opcode by opcode: the arm's instruction packs the word's fields under the arm's own opcode and X. -/

theorem decodeGroup0_keepsWord (hop : (opOf w).toNat = 32 * 0 + low) : KeepsWord w (decodeGroup0 w low) := by
  fun_cases decodeGroup0 w low <;> simp [encode, Instr.wf, *]

theorem decodeGroup1_keepsWord (hop : (opOf w).toNat = 32 * 1 + low) : KeepsWord w (decodeGroup1 w low) := by
  fun_cases decodeGroup1 w low <;> simp [encode, Instr.wf, *]

theorem decodeGroup2_keepsWord (hop : (opOf w).toNat = 32 * 2 + low) : KeepsWord w (decodeGroup2 w low) := by
  fun_cases decodeGroup2 w low <;> simp [encode, Instr.wf, *]

theorem decodeGroup3_keepsWord (hop : (opOf w).toNat = 32 * 3 + low) : KeepsWord w (decodeGroup3 w low) := by
  fun_cases decodeGroup3 w low <;> simp [encode, Instr.wf, *]

theorem decodeGroup4_keepsWord (hop : (opOf w).toNat = 32 * 4 + low) : KeepsWord w (decodeGroup4 w low) := by
  fun_cases decodeGroup4 w low <;> simp [encode, Instr.wf, *]

theorem decodeGroup5_keepsWord (hop : (opOf w).toNat = 32 * 5 + low) : KeepsWord w (decodeGroup5 w low) := by
  fun_cases decodeGroup5 w low <;> simp [encode, Instr.wf, *]

theorem decodeGroup6_keepsWord (hop : (opOf w).toNat = 32 * 6 + low) : KeepsWord w (decodeGroup6 w low) := by
  fun_cases decodeGroup6 w low <;> simp [encode, Instr.wf, *]

theorem decodeGroup7_keepsWord (hop : (opOf w).toNat = 32 * 7 + low) : KeepsWord w (decodeGroup7 w low) := by
  fun_cases decodeGroup7 w low <;> simp [encode, Instr.wf, *]

theorem decode_keepsWord : KeepsWord w (decode w) := by
  have hop := (opOf w).isLt
  fun_cases decode w
  · exact decodeGroup0_keepsWord (by omega)
  · exact decodeGroup1_keepsWord (by omega)
  · exact decodeGroup2_keepsWord (by omega)
  · exact decodeGroup3_keepsWord (by omega)
  · exact decodeGroup4_keepsWord (by omega)
  · exact decodeGroup5_keepsWord (by omega)
  · exact decodeGroup6_keepsWord (by omega)
  · simp only [imp_false] at *
    exact decodeGroup7_keepsWord (by omega)

end

/-- Settles O3: a case per opcode and X, each by packing the word's own fields again. -/
theorem encodingInvertsDecoding : Obligations.EncodingInvertsDecoding :=
  fun _ i h => decode_keepsWord i h

/-! ### Words of the manual's examples (R317 to R340) -/

/-- No instruction has opcode 0xC5 (R321). -/
theorem decode_of_opOf_eq_C5 {w : W64} (h : opOf w = 0xC5) : decode w = .error .unassignedOpcode := by
  simp [decode, h, decodeGroup6]

/-- Settles O1: the words written out are evaluated; opcode 0xC5 is refused in every word. -/
theorem sampleWordsDecode : Obligations.SampleWordsDecode :=
  ⟨rfl, rfl, rfl, rfl, rfl, rfl, rfl, rfl, rfl, rfl, rfl, fun _ => decode_of_opOf_eq_C5, rfl⟩

end Sys2Proof.Proofs
end

section
/-! PROOFS. The values of the integer forms (R375 to R387): what each function of the model on words is as arithmetic on the
numbers the words stand for, or bit by bit. -/

namespace Sys2Proof.Proofs
open Machine

/-! ### Sums, products, minima and maxima (R375, R377 to R379) -/

section
variable {w : Nat} (a b c : BitVec w)

theorem sub_eq_ofInt : a - b = BitVec.ofInt w (a.toNat - b.toNat) := by
  simp [Int.sub_eq_add_neg, BitVec.ofInt_add, BitVec.ofInt_neg, BitVec.sub_eq_add_neg]

theorem add_signExtend_eq_ofInt {v : Nat} (m : BitVec v) : a + m.signExtend w = BitVec.ofInt w (a.toInt + m.toInt) := by
  rw [BitVec.ofInt_add, BitVec.ofInt_toInt, BitVec.signExtend]

theorem mul_add_eq_ofNat : a * b + c = BitVec.ofNat w (a.toNat * b.toNat + c.toNat) := by
  simp [BitVec.ofNat_add, BitVec.ofNat_mul]

theorem mul_add_signExtend_eq_ofInt {v : Nat} (x y : BitVec v) :
    x.signExtend w * y.signExtend w + c = BitVec.ofInt w (x.toInt * y.toInt + c.toInt) := by
  rw [BitVec.ofInt_add, BitVec.ofInt_mul, BitVec.ofInt_toInt, BitVec.signExtend, BitVec.signExtend]

theorem mul_add_zeroExtend_eq_ofNat {v : Nat} (x y : BitVec v) :
    x.zeroExtend w * y.zeroExtend w + c = BitVec.ofNat w (x.toNat * y.toNat + c.toNat) := by
  rw [BitVec.ofNat_add, BitVec.ofNat_mul, BitVec.ofNat_toNat, BitVec.ofNat_toNat, BitVec.ofNat_toNat, BitVec.setWidth_eq]

theorem signedMin_eq : (if a.toInt ≤ b.toInt then a else b) = BitVec.ofInt w (min a.toInt b.toInt) := by
  rw [Int.min_def, apply_ite (BitVec.ofInt w), BitVec.ofInt_toInt, BitVec.ofInt_toInt]

theorem signedMax_eq : (if a.toInt ≤ b.toInt then b else a) = BitVec.ofInt w (max a.toInt b.toInt) := by
  rw [Int.max_def, apply_ite (BitVec.ofInt w), BitVec.ofInt_toInt, BitVec.ofInt_toInt]

theorem unsignedMin_eq : (if a.toNat ≤ b.toNat then a else b) = BitVec.ofNat w (min a.toNat b.toNat) := by
  rw [Nat.min_def, apply_ite (BitVec.ofNat w), BitVec.ofNat_toNat, BitVec.ofNat_toNat, BitVec.setWidth_eq, BitVec.setWidth_eq]

theorem unsignedMax_eq : (if a.toNat ≤ b.toNat then b else a) = BitVec.ofNat w (max a.toNat b.toNat) := by
  rw [Nat.max_def, apply_ite (BitVec.ofNat w), BitVec.ofNat_toNat, BitVec.ofNat_toNat, BitVec.setWidth_eq, BitVec.setWidth_eq]

end

theorem satI32_eq (t : Int) : satI32 t = BitVec.ofInt 32 (max (-2147483648) (min 2147483647 t)) := by
  have hclamp : clampInt (-2147483648) 2147483647 t = max (-2147483648) (min 2147483647 t) := by
    unfold clampInt
    omega
  rw [satI32, sat32, hclamp]

theorem satN32_add (x y : Nat) : satN32 ((x : Int) + y) = BitVec.ofNat 32 (min 4294967295 (x + y)) := by
  have hclamp : clampInt 0 4294967295 ((x : Int) + y) = (min 4294967295 (x + y) : Nat) := by
    unfold clampInt
    omega
  rw [satN32, sat32, hclamp, BitVec.ofInt_natCast]

/-- The natural numbers' subtraction saturates at 0 as the unsigned form does; it cannot pass the upper bound. -/
theorem satN32_sub {x : Nat} (y : Nat) (hx : x < 2 ^ 32) : satN32 ((x : Int) - y) = BitVec.ofNat 32 (x - y) := by
  have hclamp : clampInt 0 4294967295 ((x : Int) - y) = (x - y : Nat) := by
    unfold clampInt
    omega
  rw [satN32, sat32, hclamp, BitVec.ofInt_natCast]

/-! ### Shifts, rotations and LEA (R381, R382, R387) -/

theorem mul_ofNat_two_pow {w : Nat} (x : BitVec w) (n : Nat) : x * BitVec.ofNat w (2 ^ n) = x <<< n := by
  apply BitVec.eq_of_toNat_eq
  rw [BitVec.toNat_mul, BitVec.toNat_ofNat, Nat.mul_mod_mod, BitVec.toNat_shiftLeft, Nat.shiftLeft_eq]

theorem shl32_eq (a b : W32) : shl32 a b = BitVec.ofNat 32 (a.toNat * 2 ^ b.toNat) := by
  rw [BitVec.ofNat_mul, BitVec.ofNat_toNat, BitVec.setWidth_eq, mul_ofNat_two_pow, shl32]
  split
  case isTrue hb => exact (BitVec.shiftLeft_eq_zero hb).symm
  case isFalse => rfl

theorem shr32_eq (a b : W32) : shr32 a b = BitVec.ofNat 32 (a.toNat / 2 ^ b.toNat) := by
  have hshift : a >>> b.toNat = BitVec.ofNat 32 (a.toNat / 2 ^ b.toNat) := by
    apply BitVec.eq_of_toNat_eq
    rw [BitVec.toNat_ushiftRight, Nat.shiftRight_eq_div_pow, BitVec.toNat_ofNat,
      Nat.mod_eq_of_lt (Nat.lt_of_le_of_lt (Nat.div_le_self _ _) a.isLt)]
  rw [← hshift, shr32]
  split
  case isTrue hb => exact (BitVec.ushiftRight_eq_zero hb).symm
  case isFalse => rfl

/-- Beyond 32 the sign fills the word, whatever the amount. -/
theorem sar32_eq (a b : W32) : sar32 a b = BitVec.ofInt 32 (a.toInt / 2 ^ b.toNat) := by
  have hclamp : a.sshiftRight (min b.toNat 32) = a.sshiftRight b.toNat := by
    apply BitVec.eq_of_getLsbD_eq
    intro i hi
    simp only [BitVec.getLsbD_sshiftRight]
    grind
  have hdiv : a.toInt >>> b.toNat = a.toInt / 2 ^ b.toNat := Int.shiftRight_eq_div_pow ..
  rw [← hdiv]
  exact hclamp

theorem rol32_eq (a b : W32) : rol32 a b = a.rotateLeft (b.toNat % 32) := by
  rw [BitVec.rotateLeft_def, Nat.mod_mod, rol32]

theorem ror32_eq (a b : W32) : ror32 a b = a.rotateRight (b.toNat % 32) := by
  rw [BitVec.rotateRight_def, Nat.mod_mod, ror32]

theorem toNat_pair64 (lo hi : W32) : (pair64 lo hi).toNat = hi.toNat * 2 ^ 32 + lo.toNat := by
  rw [pair64, BitVec.toNat_append, ← Nat.shiftLeft_add_eq_or_of_lt lo.isLt, Nat.shiftLeft_eq]

theorem fshl_eq (a b c : W32) :
    fshl a b c = BitVec.ofNat 32 ((a.toNat * 2 ^ 32 + b.toNat) * 2 ^ min c.toNat 32 / 2 ^ 32) := by
  apply BitVec.eq_of_toNat_eq
  simp only [fshl, hi32, BitVec.truncate_eq_setWidth, BitVec.toNat_setWidth, BitVec.toNat_ushiftRight, BitVec.toNat_shiftLeft,
    toNat_pair64, Nat.shiftLeft_eq, Nat.shiftRight_eq_div_pow, BitVec.toNat_ofNat]
  omega

theorem fshr_eq (a b c : W32) :
    fshr a b c = BitVec.ofNat 32 ((a.toNat * 2 ^ 32 + b.toNat) / 2 ^ min c.toNat 32) := by
  apply BitVec.eq_of_toNat_eq
  simp only [fshr, lo32, BitVec.truncate_eq_setWidth, BitVec.toNat_setWidth, BitVec.toNat_ushiftRight, toNat_pair64,
    Nat.shiftRight_eq_div_pow, BitVec.toNat_ofNat]

theorem lea64_sx (sh : Nat) (a : W64) (b : W32) : lea64 .sx sh a b = BitVec.ofInt 64 (a.toNat + b.toInt * 2 ^ sh) := by
  have hpow : (2 ^ sh : Int) = (2 ^ sh : Nat) := by simp
  rw [BitVec.ofInt_add, BitVec.ofInt_natCast, BitVec.ofNat_toNat, BitVec.setWidth_eq, BitVec.ofInt_mul, hpow,
    BitVec.ofInt_natCast, mul_ofNat_two_pow]
  rfl

theorem lea64_zx (sh : Nat) (a : W64) (b : W32) : lea64 .zx sh a b = BitVec.ofNat 64 (a.toNat + b.toNat * 2 ^ sh) := by
  rw [BitVec.ofNat_add, BitVec.ofNat_toNat, BitVec.setWidth_eq, BitVec.ofNat_mul, BitVec.ofNat_toNat, mul_ofNat_two_pow]
  rfl

/-! ### Words bit by bit (R383) -/

/-- A word is the mask of a test that its bits satisfy. -/
theorem eq_maskOf {x : W32} {p : Nat → Bool} (h : ∀ i, i < 32 → x.getLsbD i = p i) : x = maskOf p :=
  BitVec.eq_of_getLsbD_eq fun i hi => by rw [h i hi, getLsbD_maskOf, decide_eq_true hi, Bool.true_and]

section
variable (a b : W32)

theorem and_eq_maskOf : a &&& b = maskOf fun i => a.getLsbD i && b.getLsbD i :=
  eq_maskOf fun _ _ => BitVec.getLsbD_and

theorem or_eq_maskOf : a ||| b = maskOf fun i => a.getLsbD i || b.getLsbD i :=
  eq_maskOf fun _ _ => BitVec.getLsbD_or

theorem xor_eq_maskOf : a ^^^ b = maskOf fun i => a.getLsbD i != b.getLsbD i :=
  eq_maskOf fun _ _ => BitVec.getLsbD_xor

theorem not_eq_maskOf : ~~~a = maskOf fun i => !a.getLsbD i :=
  eq_maskOf fun i hi => by rw [BitVec.getLsbD_not, decide_eq_true hi, Bool.true_and]

theorem andNot_eq_maskOf : a &&& ~~~b = maskOf fun i => a.getLsbD i && !b.getLsbD i :=
  eq_maskOf fun i hi => by rw [BitVec.getLsbD_and, BitVec.getLsbD_not, decide_eq_true hi, Bool.true_and]

theorem orNot_eq_maskOf : a ||| ~~~b = maskOf fun i => a.getLsbD i || !b.getLsbD i :=
  eq_maskOf fun i hi => by rw [BitVec.getLsbD_or, BitVec.getLsbD_not, decide_eq_true hi, Bool.true_and]

theorem xnor_eq_maskOf : ~~~(a ^^^ b) = maskOf fun i => a.getLsbD i == b.getLsbD i :=
  eq_maskOf fun i hi => by
    rw [BitVec.getLsbD_not, BitVec.getLsbD_xor, decide_eq_true hi, Bool.true_and]
    exact Bool.not_not _

end

/-- The top set bit of a nonzero word stands right below its leading zeros, which fixes its logarithm. -/
theorem clz32_eq (a : W32) : clz32 a = a.clz := by
  have hle : a.clz.toNat ≤ 32 := BitVec.clz_le
  by_cases ha : a = 0
  · subst ha
    rfl
  · have hlt : a.clz.toNat < 32 := BitVec.clz_lt_iff_ne_zero.mpr ha
    have hne : a.toNat ≠ 0 := fun h => ha (BitVec.eq_of_toNat_eq h)
    have hlog : Nat.log2 a.toNat = 31 - a.clz.toNat := by
      rw [Nat.log2_eq_iff hne]
      have hupper : a.toNat < 2 ^ (32 - a.clz.toNat) := BitVec.toNat_lt_two_pow_sub_clz
      refine ⟨BitVec.two_pow_sub_clz_le_toNat_of_ne_zero (by decide) ha, ?_⟩
      rwa [show 31 - a.clz.toNat + 1 = 32 - a.clz.toNat by omega]
    apply BitVec.eq_of_toNat_eq
    rw [clz32, bitLen, if_neg hne, hlog, BitVec.toNat_ofNat]
    omega

theorem popc32_eq (a : W32) : popc32 a = a.cpop := by
  have key : ∀ n, ((List.range n).filter fun i => a.getLsbD i).length = a.cpopNatRec n 0 := by
    intro n
    induction n with
    | zero => rfl
    | succ n ih =>
      rw [List.range_succ, List.filter_append, List.length_append, ih, BitVec.cpopNatRec_succ, BitVec.cpopNatRec_eq (0 + _)]
      cases h : a.getLsbD n <;> simp [h]
  rw [popc32, key, BitVec.cpop]

theorem brev32_eq (a : W32) : brev32 a = a.reverse := by
  refine (eq_maskOf fun i hi => ?_).symm
  rw [BitVec.getLsbD_reverse, BitVec.getMsbD_eq_getLsbD, decide_eq_true hi, Bool.true_and]

/-! ### Bit fields (R384) -/

theorem fieldPos_eq (f : W32) : fieldPos f = min (f.toNat % 256) 32 := rfl

theorem fieldLen_eq (f : W32) : fieldLen f = min (f.toNat / 256 % 256) 32 :=
  congrArg (fun x => min (x % 256) 32) (Nat.shiftRight_eq_div_pow f.toNat 8)

theorem bfe32_zero_eq (a f : W32) :
    bfe32 .zero a f = maskOf fun i => decide (i < fieldLen f) && a.getLsbD (fieldPos f + i) := by
  refine eq_maskOf fun i hi => ?_
  rw [bfe32]
  split
  case isTrue hn => simp [hn]
  case isFalse =>
    rw [BitVec.getLsbD_ofNat, Nat.testBit_mod_two_pow, Nat.testBit_shiftRight, decide_eq_true hi, Bool.true_and]
    rfl

theorem toSigned_eq {n : Nat} (hn : 0 < n) (x : Nat) : toSigned n x = (BitVec.ofNat n x).toInt := by
  obtain ⟨k, rfl⟩ : ∃ k, n = k + 1 := ⟨n - 1, by omega⟩
  have htop : x % 2 ^ (k + 1) < 2 ^ k ↔ 2 * (x % 2 ^ (k + 1)) < 2 ^ (k + 1) := by
    rw [Nat.pow_succ]
    omega
  have hcast : ((2 ^ (k + 1) : Nat) : Int) = 2 ^ (k + 1) := by simp
  simp only [BitVec.toInt, BitVec.toNat_ofNat, toSigned, Nat.add_sub_cancel, htop, hcast]

/-- The field as the sign-extended low bits of the sign-extended source, shifted. -/
theorem bfe32_sign_eq_signExtend {f : W32} (a : W32) (hn : fieldLen f ≠ 0) :
    bfe32 .sign a f = (((a.signExtend 64).sshiftRight (fieldPos f)).setWidth (fieldLen f)).signExtend 32 := by
  have hint : (a.signExtend 64).toInt = a.toInt := BitVec.toInt_signExtend_of_le (by decide)
  have hwrap : wrapInt 64 (a.toInt >>> fieldPos f) = ((a.signExtend 64).sshiftRight (fieldPos f)).toNat := by
    rw [BitVec.sshiftRight, hint, BitVec.toNat_ofInt, wrapInt]
    rfl
  rw [bfe32, if_neg hn, hwrap, toSigned_eq (Nat.pos_of_ne_zero hn), BitVec.ofNat_toNat]
  rfl

/-- Beyond the field its top bit repeats; beyond the source its sign. -/
theorem bfe32_sign_eq (a f : W32) : bfe32 .sign a f =
    maskOf fun i => decide (0 < fieldLen f) && a.getLsbD (min (fieldPos f + min i (fieldLen f - 1)) 31) := by
  refine eq_maskOf fun i hi => ?_
  by_cases hn : fieldLen f = 0
  · simp [bfe32, hn]
  · have hpos : fieldPos f ≤ 32 := Nat.min_le_right ..
    have hlen : fieldLen f ≤ 32 := Nat.min_le_right ..
    rw [bfe32_sign_eq_signExtend a hn]
    simp only [BitVec.getLsbD_signExtend, BitVec.msb_eq_getLsbD_last, BitVec.getLsbD_setWidth, BitVec.getLsbD_sshiftRight]
    grind

theorem bfi32_eq (a b f : W32) : bfi32 a b f = maskOf fun i =>
    if fieldPos f ≤ i ∧ i < fieldPos f + fieldLen f then a.getLsbD (i - fieldPos f) else b.getLsbD i := by
  refine eq_maskOf fun i hi => ?_
  simp only [bfi32, BitVec.getLsbD_or, BitVec.getLsbD_and, BitVec.getLsbD_not, BitVec.getLsbD_ofNat, Nat.testBit_mul_two_pow,
    Nat.testBit_two_pow_sub_one]
  grind

end Sys2Proof.Proofs
end

section
/-! PROOFS. Results of integer and predicate forms, and branches (R361, R366, R375 to R387). -/

namespace Sys2Proof.Proofs
open Machine Laws

/-! ### Forms by their sources -/

section
variable {h : Hdr} {cx : Cx} {s : State} {o : R4}

theorem un32_gives {f : W32 → W32} {y : Nat → W32} (r : Ready (intForm o 1 1 0 0) h cx s)
    (e : ∀ l, f (in32 cx s o.a l) = y l) : Gives32 cx s o.d y (un32 h o f s) :=
  issue_put32 r e

theorem bin32_gives {f : W32 → W32 → W32} {y : Nat → W32} (r : Ready (intForm o 1 1 1 0) h cx s)
    (e : ∀ l, f (in32 cx s o.a l) (in32 cx s o.b l) = y l) : Gives32 cx s o.d y (bin32 h o f s) :=
  issue_put32 r e

theorem tri32_gives {f : W32 → W32 → W32 → W32} {y : Nat → W32} (r : Ready (intForm o 1 1 1 1) h cx s)
    (e : ∀ l, f (in32 cx s o.a l) (in32 cx s o.b l) (in32 cx s o.c l) = y l) : Gives32 cx s o.d y (tri32 h o f s) :=
  issue_put32 r e

theorem bin64_gives {f : W64 → W64 → W64} {y : Nat → W64} (r : Ready (intForm o 2 2 2 0) h cx s)
    (e : ∀ l, f (in64 cx s o.a l) (in64 cx s o.b l) = y l) : Gives64 cx s o.d y (bin64 h o f s) :=
  issue_put64 r e

theorem wideMad_gives {f : W32 → W64} {y : Nat → W64} (r : Ready (intForm o 2 1 1 2) h cx s)
    (e : ∀ l, f (in32 cx s o.a l) * f (in32 cx s o.b l) + in64 cx s o.c l = y l) : Gives64 cx s o.d y (wideMad h o f s) :=
  issue_put64 r e

end

/-! ### Moves, sums, products (R375, R377 to R379) -/

/-- Settles O8: each form by its own width, the sums by what addition and saturation are on the numbers. -/
theorem movesAndSumsGive : Obligations.MovesAndSumsGive := by
  unfold Obligations.MovesAndSumsGive
  simp only [exec, execMov, execMovi, execSel, execIadd, execIsub, execIaddi]
  refine ⟨fun h cx s => ⟨fun o r => ?mov32, fun o r => ?mov64, fun o r => ?movi32, fun o r => ?movi64, fun o r => ?sel32,
      fun o r => ?sel64⟩,
    fun h cx s => ⟨fun o r => ⟨?add, ?addI, ?addN, ?sub, ?subI, ?subN⟩, fun o r => ⟨?add64, ?sub64⟩, fun o r => ?addi32,
      fun o r => ?addi64⟩⟩
  case mov32 => exact un32_gives r fun _ => rfl
  case mov64 => exact issue_put64 r fun _ => rfl
  case movi32 => exact issue_put32 r fun _ => rfl
  case movi64 => exact issue_put64 r fun _ => rfl
  case sel32 => exact issue_put32 r fun _ => rfl
  case sel64 => exact issue_put64 r fun _ => rfl
  case add => exact bin32_gives r fun _ => rfl
  case addI => exact bin32_gives r fun _ => satI32_eq _
  case addN => exact bin32_gives r fun _ => satN32_add _ _
  case sub => exact bin32_gives r fun _ => sub_eq_ofInt _ _
  case subI => exact bin32_gives r fun _ => satI32_eq _
  case subN => exact bin32_gives r fun l => satN32_sub _ (in32 cx s o.a l).isLt
  case add64 => exact bin64_gives r fun _ => rfl
  case sub64 => exact bin64_gives r fun _ => sub_eq_ofInt _ _
  case addi32 => exact issue_put32 r fun _ => add_signExtend_eq_ofInt _ _
  case addi64 => exact issue_put64 r fun _ => add_signExtend_eq_ofInt _ _

/-- Settles O9: the products of the numbers, and the smaller or larger of the two in the type's order. -/
theorem productsAndBoundsGive : Obligations.ProductsAndBoundsGive := by
  unfold Obligations.ProductsAndBoundsGive
  simp only [exec, execImul, execImad, execImin, execImax]
  refine fun h cx s => ⟨fun o r => ⟨?low, ?hiI, ?hiN, ?minI, ?minN, ?maxI, ?maxN⟩,
    fun o r => ⟨?low64, ?minI64, ?minN64, ?maxI64, ?maxN64⟩, fun o r => ?mad, fun o r => ⟨?wideI, ?wideN⟩⟩
  case low => exact bin32_gives r fun _ => rfl
  case hiI => exact bin32_gives r fun _ => rfl
  case hiN => exact bin32_gives r fun _ => rfl
  case minI => exact bin32_gives r fun _ => signedMin_eq _ _
  case minN => exact bin32_gives r fun _ => unsignedMin_eq _ _
  case maxI => exact bin32_gives r fun _ => signedMax_eq _ _
  case maxN => exact bin32_gives r fun _ => unsignedMax_eq _ _
  case low64 => exact bin64_gives r fun _ => rfl
  case minI64 => exact bin64_gives r fun _ => signedMin_eq _ _
  case minN64 => exact bin64_gives r fun _ => unsignedMin_eq _ _
  case maxI64 => exact bin64_gives r fun _ => signedMax_eq _ _
  case maxN64 => exact bin64_gives r fun _ => unsignedMax_eq _ _
  case mad => exact tri32_gives r fun _ => mul_add_eq_ofNat _ _ _
  case wideI => exact wideMad_gives r fun _ => mul_add_signExtend_eq_ofInt _ _ _
  case wideN => exact wideMad_gives r fun _ => mul_add_zeroExtend_eq_ofNat _ _ _

/-! ### Shifts, bits, fields, LEA (R381 to R384, R387) -/

/-- Settles O10: shifts as products and quotients by powers of two, the bitwise and bit-field forms bit by bit. -/
theorem shiftsAndBitsGive : Obligations.ShiftsAndBitsGive := by
  refine ⟨fun h cx s => ⟨fun o r => ⟨?shl, ?shr, ?sar, ?rol, ?ror⟩, fun o r => ⟨?fshl, ?fshr⟩⟩,
    fun h cx s => ⟨fun o r p hp => ?bitwise, fun o r => ⟨?not, ?clz, ?popc, ?brev⟩, fun o r => ⟨?bfeZero, ?bfeSign⟩,
      fun o r => ?bfi⟩,
    fun h cx s o r => ⟨?leaS, ?leaZ⟩⟩
  case bitwise =>
    simp only [List.mem_cons, List.not_mem_nil, or_false] at hp
    obtain rfl | rfl | rfl | rfl | rfl | rfl := hp
    all_goals simp only [exec, execAndB, execOrB, execXorB, execAndnB, execOrnB, execXnorB]
    · exact bin32_gives r fun _ => and_eq_maskOf _ _
    · exact bin32_gives r fun _ => or_eq_maskOf _ _
    · exact bin32_gives r fun _ => xor_eq_maskOf _ _
    · exact bin32_gives r fun _ => andNot_eq_maskOf _ _
    · exact bin32_gives r fun _ => orNot_eq_maskOf _ _
    · exact bin32_gives r fun _ => xnor_eq_maskOf _ _
  all_goals simp only [exec, execShl, execShr, execSar, execRol, execRor, execFshL, execFshR, execNotB, execClz, execPopc,
    execBrev, execBfe, execBfi, execLea]
  case shl => exact bin32_gives r fun _ => shl32_eq _ _
  case shr => exact bin32_gives r fun _ => shr32_eq _ _
  case sar => exact bin32_gives r fun _ => sar32_eq _ _
  case rol => exact bin32_gives r fun _ => rol32_eq _ _
  case ror => exact bin32_gives r fun _ => ror32_eq _ _
  case fshl => exact tri32_gives r fun _ => fshl_eq _ _ _
  case fshr => exact tri32_gives r fun _ => fshr_eq _ _ _
  case not => exact un32_gives r fun _ => not_eq_maskOf _
  case clz => exact un32_gives r fun _ => clz32_eq _
  case popc => exact un32_gives r fun _ => popc32_eq _
  case brev => exact un32_gives r fun _ => brev32_eq _
  case bfeZero => exact bin32_gives r fun _ => by rw [bfe32_zero_eq, fieldLen_eq, fieldPos_eq]
  case bfeSign => exact bin32_gives r fun _ => by rw [bfe32_sign_eq, fieldLen_eq, fieldPos_eq]
  case bfi => exact tri32_gives r fun _ => by rw [bfi32_eq, fieldLen_eq, fieldPos_eq]
  case leaS => exact issue_put64 r fun _ => lea64_sx _ _ _
  case leaZ => exact issue_put64 r fun _ => lea64_zx _ _ _

/-! ### Compares and predicates (R361, R385, R386) -/

section
variable {f : Form} {h : Hdr} {cx : Cx} {s : State}

theorem bne_eq_decide_ne {α : Type} [DecidableEq α] (a b : α) : (a != b) = decide (a ≠ b) := by
  by_cases h : a = b
  · rw [bne, beq_iff_eq.mpr h, decide_eq_false (not_not_intro h), Bool.not_true]
  · rw [bne, beq_eq_false_iff_ne.mpr h, decide_eq_true h, Bool.not_false]

/-- An instruction that is ready and writes a predicate gives it. -/
theorem issue_wrPred {d : Opnd} {x : Cx → State → Mask} {y : Mask} (r : Ready f h cx s) (e : x cx (ticked s) = y) :
    GivesPred cx s d y (issue f h (fun cx s => fixWrites cx (wrPred cx d (x cx s)) s) s) := by
  rw [issue_ready r, e]
  exact wrPred_gives r.focus (base_ticked r.focus) _ _

theorem pred2_gives {o : R4} {f : Mask → Mask → Mask} {y : Mask}
    (r : Ready { unit := 0, ops := [(o.d, .pdst), (o.a, .psrc), (o.b, .psrc), (o.c, .unused)] } h cx s)
    (e : f (rdPred cx o.a) (rdPred cx o.b) = y) : GivesPred cx s o.d y (pred2 h o f s) :=
  issue_wrPred r e

/-- A compare holds in the lanes where its condition holds of the sources' values at its type. -/
theorem execIcmp_gives {x : Cc} {p : Int → Int → Bool} {ty w : Nat} {v : Opnd → Nat → Int} {o : RM}
    (hp : ∀ a b, intCond x a b = p a b) (hty : o.c.toNat = ty) (hrange : 16 ≤ ty ∧ ty ≤ 19)
    (hw : (if ty = 18 ∨ ty = 19 then 2 else 1) = w) (hv : ∀ y l, icmpVal cx (ticked s) ty y l = v y l)
    (r : Ready { unit := 0, ops := [(o.d, .pdst), (o.a, .src w false), (o.b, .src w false)] } h cx s) :
    GivesPred cx s o.d (maskOf fun l => p (v o.a l) (v o.b l)) (execIcmp h x o s) := by
  subst hty hw
  rw [execIcmp, decide_eq_true hrange]
  refine issue_wrPred r (congrArg maskOf (funext fun l => ?_))
  rw [hp, hv, hv]

end

/-- Settles O11: compares by condition and type, predicate logic lane by lane. -/
theorem predicatesGive : Obligations.PredicatesGive := by
  refine fun h cx s => ⟨fun o c hc t ht hty r => ?icmp, fun o r p hp => ?logic, fun o r => ?pnot, fun o r => ?ptov,
    fun o r => ?vtop⟩
  case icmp =>
    rw [exec]
    simp only [List.mem_cons, List.not_mem_nil, or_false] at hc ht
    have hp (a b : Int) : intCond c.1 a b = c.2 a b := by
      obtain rfl | rfl | rfl | rfl | rfl | rfl := hc
      · rfl
      · exact bne_eq_decide_ne a b
      · rfl
      · rfl
      · rfl
      · rfl
    obtain rfl | rfl | rfl | rfl := ht
    · exact execIcmp_gives (ty := 16) hp (congrArg BitVec.toNat hty) (by decide) rfl (fun _ _ => rfl) r
    · exact execIcmp_gives (ty := 17) hp (congrArg BitVec.toNat hty) (by decide) rfl (fun _ _ => rfl) r
    · exact execIcmp_gives (ty := 18) hp (congrArg BitVec.toNat hty) (by decide) rfl (fun _ _ => rfl) r
    · exact execIcmp_gives (ty := 19) hp (congrArg BitVec.toNat hty) (by decide) rfl (fun _ _ => rfl) r
  case logic =>
    simp only [List.mem_cons, List.not_mem_nil, or_false] at hp
    obtain rfl | rfl | rfl | rfl := hp
    all_goals simp only [exec, execPand, execPor, execPxor, execPandn]
    · exact pred2_gives r (and_eq_maskOf _ _)
    · exact pred2_gives r (or_eq_maskOf _ _)
    · exact pred2_gives r (xor_eq_maskOf _ _)
    · exact pred2_gives r (andNot_eq_maskOf _ _)
  case pnot =>
    rw [exec, execPnot]
    exact issue_wrPred r (not_eq_maskOf _)
  case ptov =>
    rw [exec, execPtov]
    exact issue_put32 r fun _ => rfl
  case vtop =>
    rw [exec, execVtop]
    exact issue_wrPred r (congrArg maskOf (funext fun _ => bne_eq_decide_ne _ _))

/-! ### Branches (R366) -/

theorem branchPc_eq (cx : Cx) (m : BitVec 22) : branchPc cx m = ⟨BitVec.ofInt 57 (cx.run.head.toNat + 8 * m.toInt), 0⟩ := by
  have haddr : cx.run.head + 8 * m.signExtend 57 = BitVec.ofInt 57 (cx.run.head.toNat + 8 * m.toInt) := by
    rw [BitVec.ofInt_add, BitVec.ofInt_natCast, BitVec.ofNat_toNat, BitVec.setWidth_eq, BitVec.ofInt_mul]
    rfl
  rw [branchPc, haddr]

theorem wordTarget_eq (x : W64) : wordTarget x = ⟨BitVec.ofNat 57 x.toNat, 0⟩ := by
  rw [wordTarget, BitVec.truncate_eq_setWidth, BitVec.ofNat_toNat]

/-- A branch that is ready moves the executing lanes, each to its target where the guard holds, and nothing else. -/
theorem branchTo_only {f : Form} {h : Hdr} {cx : Cx} {s : State} {x : Cx → State → Nat → Pc} {y : Nat → Pc} (r : Ready f h cx s)
    (e : ∀ l, x cx (ticked s) l = y l) :
    ∃ t, issue f h (fun cx s => branchTo cx h (x cx s) s) s = .next t ∧ Only cx s t (movedRun cx.run)
      (withPcs cx.g cx.run.lanes fun l => if (guardMask cx h).getLsbD l then y l else following cx.run) := by
  rw [issue_ready r, show x cx (ticked s) = y from funext e]
  exact ⟨_, rfl, only_of r.focus _ _⟩

/-- Settles O20: the two branches differ in the target of a guarded lane alone. -/
theorem branchesMoveLanes : Obligations.BranchesMoveLanes :=
  fun _ _ _ => ⟨fun _ r => branchTo_only r fun _ => branchPc_eq _ _, fun _ r => branchTo_only r fun _ => wordTarget_eq _⟩

end Sys2Proof.Proofs
end
